-- ==== Sys2Proof/Word.lean ====
section
/-!
DEFINITION. The word types of the BX960 and the names of its units (spec/00_scope.md R3 to R6, R14;
spec/02_words_registers_assembly.md R56).
-/

namespace Sys2Proof

/-- An instruction word, 32 bits (R56). -/
abbrev Word := BitVec 32

/-- A general or system register, 64 bits (R68, R75). -/
abbrev DWord := BitVec 64

/-- One byte of a memory. -/
abbrev Byte := BitVec 8

/-- A vector register, LQ or SQ entry, 2,048 bits (R71, R184). -/
abbrev VWord := BitVec 2048

/-- The four engines of a compute core that run a stream each (R5). -/
inductive Engine where
  | cx | vl | ve | mx
  deriving DecidableEq, Repr, Inhabited

/-- The three contexts of a control core (R252). -/
inductive Ctx where
  | l | c | s
  deriving DecidableEq, Repr, Inhabited

/-- Whatever executes instructions: a stream of a core (global index 0..31, R6), the NX stream of a die
(0..7), the TE stream, a context of LC0..LC17. -/
inductive UnitId where
  | eng (e : Engine) (core : Nat)
  | nx (die : Nat)
  | te
  | ctx (lc : Nat) (k : Ctx)
  deriving DecidableEq, Repr, Inhabited

/-- Whose instruction memory: an engine of a core, the NX of a die, the TE, a control core's overlay
memory, which its three contexts share (R252). -/
inductive ImemId where
  | eng (e : Engine) (core : Nat)
  | nx (die : Nat)
  | te
  | lc (i : Nat)
  deriving DecidableEq, Repr, Inhabited

/-- The half in which a private word is decoded (R56, R65). -/
inductive Half where
  | cx | vl | ve | mx | nx | te | lc
  deriving DecidableEq, Repr, Inhabited

/-- The six endpoints of a core's token queues, in the order of R74 and R277. -/
inductive Endpoint where
  | ctl | cx | vl | ve | mx | nx
  deriving DecidableEq, Repr, Inhabited

/-- A header of an NX message as it travels on VC0 (R238): source package and die, tag, the message's
bytes as they were when the NSEND completed, and the sender's sequence number, by which its delivery is
acknowledged. -/
structure NxHeader where
  pkg : Nat
  die : Nat
  tag : Nat
  seq : Nat
  data : List Byte
  deriving DecidableEq, Repr, Inhabited

/-- A lattice line that arrives from another package (R388): offset o, lattice type and 64 bytes. -/
structure LatLine where
  o : Nat
  ltype : Nat
  data : List Byte
  deriving DecidableEq, Repr, Inhabited

end Sys2Proof
end

