-- ==== Sys2Proof/Syntax.lean ====
section
/-!
DEFINITION. The instructions: one constructor per row of spec/opcode_table.json, in its order. A row with a word
carries exactly the fields of that word, with the widths the table and R57, R64 give them; a row without a
word (an event of a unit, a host or sideband access, a firmware port) carries the operands that name what it
acts on. The rule after each constructor is the row's rule in spec/.
-/

namespace Sys2Proof

/-- An operation or event of the BX960 (spec/opcode_table.json). -/
inductive Instr where
  /-- ADD (R93): Writes the 64-bit sum of two general registers to gd. -/
  | add (d a b : BitVec 5)
  /-- SUB (R93): Writes ga minus gb, modulo 2^64, to gd. -/
  | sub (d a b : BitVec 5)
  /-- MUL (R93): Writes the low 64 bits of the product to gd. -/
  | mul (d a b : BitVec 5)
  /-- MULH (R93): Writes the high 64 bits of the signed product to gd. -/
  | mulh (d a b : BitVec 5)
  /-- MULHU (R93): Writes the high 64 bits of the unsigned product to gd. -/
  | mulhu (d a b : BitVec 5)
  /-- DIV (R94): Writes the signed quotient, truncated towards zero, to gd, with the fixed results for a zero divisor and for overflow. -/
  | div (d a b : BitVec 5)
  /-- DIVU (R94): Writes the unsigned quotient to gd; a zero divisor gives all ones. -/
  | divu (d a b : BitVec 5)
  /-- REM (R94): Writes the signed remainder, which takes the sign of the dividend, to gd. -/
  | rem (d a b : BitVec 5)
  /-- REMU (R94): Writes the unsigned remainder to gd. -/
  | remu (d a b : BitVec 5)
  /-- AND (R93): Writes the bitwise AND of ga and gb to gd. -/
  | and (d a b : BitVec 5)
  /-- OR (R93): Writes the bitwise OR of ga and gb to gd. -/
  | or (d a b : BitVec 5)
  /-- XOR (R93): Writes the bitwise XOR of ga and gb to gd. -/
  | xor (d a b : BitVec 5)
  /-- ANDN (R93): Writes ga AND NOT gb to gd. -/
  | andn (d a b : BitVec 5)
  /-- SHL (R93): Shifts ga left by gb<5:0> and writes the result to gd. -/
  | shl (d a b : BitVec 5)
  /-- SHR (R93): Shifts ga right by gb<5:0> with zero fill and writes the result to gd. -/
  | shr (d a b : BitVec 5)
  /-- SRA (R93): Shifts ga right by gb<5:0> with sign fill and writes the result to gd. -/
  | sra (d a b : BitVec 5)
  /-- ROL (R93): Rotates ga left by gb<5:0> and writes the result to gd. -/
  | rol (d a b : BitVec 5)
  /-- SLT (R93): Writes 1 to gd if ga is less than gb, signed, and 0 otherwise. -/
  | slt (d a b : BitVec 5)
  /-- SLTU (R93): Writes 1 to gd if ga is less than gb, unsigned, and 0 otherwise. -/
  | sltu (d a b : BitVec 5)
  /-- SEQ (R93): Writes 1 to gd if ga equals gb, and 0 otherwise. -/
  | seq (d a b : BitVec 5)
  /-- MIN (R93): Writes the signed minimum of ga and gb to gd. -/
  | min (d a b : BitVec 5)
  /-- MAX (R93): Writes the signed maximum of ga and gb to gd. -/
  | max (d a b : BitVec 5)
  /-- MINU (R93): Writes the unsigned minimum of ga and gb to gd. -/
  | minu (d a b : BitVec 5)
  /-- MAXU (R93): Writes the unsigned maximum of ga and gb to gd. -/
  | maxu (d a b : BitVec 5)
  /-- CLZ (R93): Writes the number of leading zero bits of ga to gd. -/
  | clz (d a : BitVec 5)
  /-- POPC (R93): Writes the number of one bits of ga to gd. -/
  | popc (d a : BitVec 5)
  /-- IDX (R93): Writes ga plus gb shifted left by fn<2:0> to gd. -/
  | idx (d a b : BitVec 5) (s : BitVec 3)
  /-- EXTU (R93): Extracts an unsigned bit field of ga, at the position in gb and of width fn<5:0> + 1, into gd. -/
  | extu (d a b : BitVec 5) (w : BitVec 6)
  /-- SEXT (R93): Sign-extends ga from bit fn<5:0> and writes the result to gd. -/
  | sext (d a : BitVec 5) (n : BitVec 6)
  /-- CMOVNZ (R93): Copies ga into gd when gb is nonzero. -/
  | cmovnz (d a b : BitVec 5)
  /-- ADDI (R95): Writes ga plus the signed immediate to gd. -/
  | addi (d a : BitVec 5) (i : BitVec 14)
  /-- ANDI (R95): Writes ga AND the sign-extended immediate to gd. -/
  | andi (d a : BitVec 5) (i : BitVec 14)
  /-- ORI (R95): Writes ga OR the sign-extended immediate to gd. -/
  | ori (d a : BitVec 5) (i : BitVec 14)
  /-- XORI (R95): Writes ga XOR the sign-extended immediate to gd. -/
  | xori (d a : BitVec 5) (i : BitVec 14)
  /-- SHLI (R95): Shifts ga left by an immediate count and writes the result to gd. -/
  | shli (d a : BitVec 5) (n : BitVec 6)
  /-- SHRI (R95): Shifts ga right by an immediate count with zero fill and writes the result to gd. -/
  | shri (d a : BitVec 5) (n : BitVec 6)
  /-- SRAI (R95): Shifts ga right by an immediate count with sign fill and writes the result to gd. -/
  | srai (d a : BitVec 5) (n : BitVec 6)
  /-- SLTI (R95): Writes 1 to gd if ga is less than the immediate, signed. -/
  | slti (d a : BitVec 5) (i : BitVec 14)
  /-- SLTIU (R95): Writes 1 to gd if ga is less than the immediate, unsigned. -/
  | sltiu (d a : BitVec 5) (i : BitVec 14)
  /-- MULI (R95): Writes the low 64 bits of ga times the immediate to gd. -/
  | muli (d a : BitVec 5) (i : BitVec 14)
  /-- LI (R96): Loads the signed immediate into gd. -/
  | li (d : BitVec 5) (i : BitVec 19)
  /-- LUI (R96): Loads the immediate times 2^32 into gd. -/
  | lui (d : BitVec 5) (i : BitVec 19)
  /-- AUIPC (R96): Writes the word's address plus 4 times the immediate to gd. -/
  | auipc (d : BitVec 5) (i : BitVec 19)
  /-- BEQ (R97): Branches when ga equals gb. -/
  | beq (a b : BitVec 5) (o : BitVec 14)
  /-- BNE (R97): Branches when ga differs from gb. -/
  | bne (a b : BitVec 5) (o : BitVec 14)
  /-- BLT (R97): Branches when ga is less than gb, signed. -/
  | blt (a b : BitVec 5) (o : BitVec 14)
  /-- BGE (R97): Branches when ga is greater than or equal to gb, signed. -/
  | bge (a b : BitVec 5) (o : BitVec 14)
  /-- BLTU (R97): Branches when ga is less than gb, unsigned. -/
  | bltu (a b : BitVec 5) (o : BitVec 14)
  /-- BGEU (R97): Branches when ga is greater than or equal to gb, unsigned. -/
  | bgeu (a b : BitVec 5) (o : BitVec 14)
  /-- J (R98): Jumps to the PC-relative target. -/
  | j (o : BitVec 24)
  /-- CALL (R98): Writes the return address to g31 and jumps to the PC-relative target. -/
  | call (o : BitVec 24)
  /-- JR (R98): Jumps to the address in ga, writing the link to gd; a misaligned target raises MISALIGN. -/
  | jr (d a : BitVec 5)
  /-- LOOP (R100): Starts hardware loop lp with the count held in ga. -/
  | loop (l : BitVec 2) (a : BitVec 5) (e : BitVec 17)
  /-- LOOPI (R100): Starts hardware loop lp with an immediate count. -/
  | loopi (l : BitVec 2) (c : BitVec 12) (e : BitVec 10)
  /-- LEAVE (R103): Ends loop lp and the loops nested in it; with SQ set it first squashes the commands of the current generation and advances GEN. -/
  | leave (l : BitVec 2) (s : BitVec 1) (m : BitVec 5)
  /-- TKWAIT (R106): Pops one token from an endpoint's queue, discarding older generations, and writes its tag and void bit to gd. -/
  | tkwait (d : BitVec 5) (c : BitVec 1) (e : BitVec 3)
  /-- TKSIG (R107): Pushes one token tagged with GEN to an endpoint's queue, as a release. -/
  | tksig (c : BitVec 1) (e : BitVec 3)
  /-- RDV (R110): Joins the next meeting of rendezvous n among all streams of the job. -/
  | rdv (n : BitVec 8)
  /-- GFENCE (R113): Sets GEN to a younger generation n and reports passing the fence. -/
  | gfence (n : BitVec 8)
  /-- SWPT (R111): Arrives at switch point n and waits for the core's other streams. -/
  | swpt (n : BitVec 8)
  /-- PPOINT (R112): Pre-emption point: has no effect, or stops the stream with its live mask while a pre-emption is pending. -/
  | ppoint (m : BitVec 24)
  /-- TRAP (R114): Enters the trap path as a software trap carrying code c. -/
  | trap (c : BitVec 8)
  /-- ERET (R115): Returns from a trap handler to EPC and clears STAT.TH. -/
  | eret
  /-- MFS (R116): Reads a system register into gd. -/
  | mfs (d : BitVec 5) (i : BitVec 14)
  /-- MTS (R117): Writes ga to a system register, field by field. -/
  | mts (a : BitVec 5) (i : BitVec 14)
  /-- CYC (R118): Writes the PCYC tick at issue to gd. -/
  | cyc (d : BitVec 5)
  /-- HALT (R119): Ends the executing stream, or stops the control context, and frees its registers and, for the last stream, the job-queue slot. -/
  | halt
  /-- NOP (R120): Occupies one issue slot with no effect. -/
  | nop
  /-- TRANS (R125): Starts a page walk for the VA in ga and places a valid or pending handle in h after 24 cycles. -/
  | trans (h : BitVec 4) (a : BitVec 5)
  /-- HREL (R127): Empties a handle register. -/
  | hrel (h : BitVec 4)
  /-- HCHK (R128): Writes the state word of a handle to gd without waiting. -/
  | hchk (d : BitVec 5) (h : BitVec 4)
  /-- LD (R132): Plain load through a handle, zero-extended into gd. -/
  | ld (d : BitVec 5) (h : BitVec 4) (a : BitVec 5) (z : BitVec 2) (o : BitVec 8)
  /-- ST (R134): Plain store through a handle, with the lattice no-move-down check on lattice pages. -/
  | st (s : BitVec 5) (h : BitVec 4) (a : BitVec 5) (z : BitVec 2) (o : BitVec 8)
  /-- LDA (R132): Acquire load at the scope of its page. -/
  | lda (d : BitVec 5) (h : BitVec 4) (a : BitVec 5) (z : BitVec 2) (o : BitVec 8)
  /-- STL (R134): Release store at the scope of its page. -/
  | stl (s : BitVec 5) (h : BitVec 4) (a : BitVec 5) (z : BitVec 2) (o : BitVec 8)
  /-- LDRO (R133): Load through the die's read-only path, which is coherent at job boundaries. -/
  | ldro (d : BitVec 5) (h : BitVec 4) (a : BitVec 5) (z : BitVec 2) (o : BitVec 8)
  /-- LDLK (R138): Takes the scratchpad lock of the address and loads through it as an acquire. -/
  | ldlk (d : BitVec 5) (h : BitVec 4) (a : BitVec 5) (z : BitVec 2) (o : BitVec 8)
  /-- LOCK_GRANT (R138): Grants a freed scratchpad lock to the stream that has waited longest. -/
  | lockGrant (core bank bit : Nat)
  /-- STUL (R139): Release store that frees the stream's lock of the address. -/
  | stul (s : BitVec 5) (h : BitVec 4) (a : BitVec 5) (z : BitVec 2) (o : BitVec 8)
  /-- AMO (R141): Atomic read-modify-write at the home, selected by op, returning the old value to gd. -/
  | amo (d : BitVec 5) (h : BitVec 4) (a b : BitVec 5) (p : BitVec 3) (z : BitVec 2)
  /-- LOOKUP (R143): Looks up a physical address in the core's tag table and writes the slot, -2 or -1 to gd. -/
  | lookup (d a : BitVec 5)
  /-- TAGSET (R144): Makes the tag-table mapping of an address to a slot valid. -/
  | tagset (a b : BitVec 5)
  /-- TAGCLR (R144): Invalidates every tag-table way that holds a slot. -/
  | tagclr (a : BitVec 5)
  /-- DRAIN (R146): Waits until every copy into memory path p issued from the core before it has completed. -/
  | drain (p : BitVec 3)
  /-- FENCE (R147): Orders the stream's accesses at the scope of h's page, by op. -/
  | fence (h : BitVec 4) (p : BitVec 3)
  /-- LJOIN (R150): Joins gb into a lattice cell at the executing site's replica, as a release. -/
  | ljoin (h : BitVec 4) (a b : BitVec 5) (z : BitVec 2)
  /-- LWAIT (R151): Waits until the site's replica of a lattice cell reaches a threshold, or until the timeout, and writes the value to gd. -/
  | lwait (d : BitVec 5) (h : BitVec 4) (a b : BitVec 5) (z : BitVec 2)
  /-- LWAIT_TIMEOUT (R151): WTO expires for a waiting LWAIT, which writes the current value and completes. -/
  | lwaitTimeout (u : UnitId)
  /-- WINFO (R153): Reads the pending count or the last trigger address left by the watch trigger that spawned the job. -/
  | winfo (d : BitVec 5) (f : BitVec 1)
  /-- TRD (R154): Decodes one weight of a trellis image and writes its value and scale code to gd. -/
  | trd (d : BitVec 5) (h : BitVec 4) (a b : BitVec 5)
  /-- MMA (R175): Stamped matrix multiply of two tile descriptors into an accumulator buffer, with optional zeroing and forced promotion. -/
  | mma (tk : BitVec 3) (a b : BitVec 4) (c : BitVec 1) (s : BitVec 11) (f : BitVec 2)
  /-- MMAS (R176): Stamped multiply of one slice of a CODED16 A operand into a buffer. -/
  | mmas (tk : BitVec 3) (a b : BitVec 4) (c : BitVec 1) (s : BitVec 11) (f : BitVec 2)
  /-- MZERO (R174): Stamped zeroing of a buffer in native or FA mode. -/
  | mzero (tk : BitVec 3) (c : BitVec 1) (s : BitVec 11) (m : BitVec 1)
  /-- MPI (R173): Checks and sets the promotion interval for a format pair. -/
  | mpi (tk : BitVec 3) (a : BitVec 5) (t u : BitVec 4)
  /-- MRND (R178): Stamped single rounding of a buffer into an output tile. -/
  | mrnd (tk : BitVec 3) (t : BitVec 4) (c : BitVec 1) (s : BitVec 11) (r : BitVec 2)
  /-- MNORM (R181): Stamped normalisation of every element of an FA buffer to 24 bits of headroom. -/
  | mnorm (tk : BitVec 3) (c : BitVec 1) (s : BitVec 11)
  /-- MSAVE (R182): Stamped save of a buffer's state as an image in the scratchpad. -/
  | msave (tk : BitVec 3) (a : BitVec 5) (c : BitVec 1) (s : BitVec 11)
  /-- MLOAD (R182): Stamped load of a buffer's state from a scratchpad image. -/
  | mload (tk : BitVec 3) (a : BitVec 5) (c : BitVec 1) (s : BitVec 11)
  /-- MTD (R171): Writes a tile descriptor from two general registers. -/
  | mtd (tk : BitVec 3) (t : BitVec 4) (a b : BitVec 5)
  /-- MSTB (R172): Sets the MX reference tick, absolute or relative to now. -/
  | mstb (tk : BitVec 3) (a : BitVec 5) (f : BitVec 1)
  /-- MTBL (R177): Stamped load of the 256-byte trellis value table from the scratchpad. -/
  | mtbl (tk : BitVec 3) (a : BitVec 5) (s : BitVec 11)
  /-- MXPT (R179): Stamped export of a buffer as a TWR image, posted to the coded-operator dispatcher with a tag. -/
  | mxpt (tk : BitVec 3) (t g : BitVec 4) (c : BitVec 1) (s : BitVec 11)
  /-- MX_OCCUPANCY_END (R167): An MX command's occupancy ends; its writes are performed and its preset tokens are pushed. -/
  | mxOccupancyEnd (core : Nat)
  /-- VADD (R196): Masked integer vector add, optionally saturating and unsigned. -/
  | vadd (tk : BitVec 3) (d a b : BitVec 5) (u s : BitVec 1)
  /-- VSUB (R196): Masked integer vector subtract. -/
  | vsub (tk : BitVec 3) (d a b : BitVec 5) (u s : BitVec 1)
  /-- VMUL (R196): Masked integer vector multiply, optionally the high half. -/
  | vmul (tk : BitVec 3) (d a b : BitVec 5) (h u s : BitVec 1)
  /-- VMAD (R196): Masked integer multiply-add into vd. -/
  | vmad (tk : BitVec 3) (d a b : BitVec 5) (u s : BitVec 1)
  /-- VMIN (R196): Masked integer element minimum. -/
  | vmin (tk : BitVec 3) (d a b : BitVec 5) (u : BitVec 1)
  /-- VMAX (R196): Masked integer element maximum. -/
  | vmax (tk : BitVec 3) (d a b : BitVec 5) (u : BitVec 1)
  /-- VAND (R196): Masked bitwise AND of vectors. -/
  | vand (tk : BitVec 3) (d a b : BitVec 5)
  /-- VOR (R196): Masked bitwise OR of vectors. -/
  | vor (tk : BitVec 3) (d a b : BitVec 5)
  /-- VXOR (R196): Masked bitwise XOR of vectors. -/
  | vxor (tk : BitVec 3) (d a b : BitVec 5)
  /-- VSHL (R197): Masked element shift left by a register or immediate count. -/
  | vshl (tk : BitVec 3) (d a b : BitVec 5) (i : BitVec 1) (n : BitVec 5)
  /-- VSHR (R197): Masked element shift right, arithmetic or logical. -/
  | vshr (tk : BitVec 3) (d a b : BitVec 5) (i u : BitVec 1) (n : BitVec 5)
  /-- VABS (R196): Masked integer absolute value, optionally saturating. -/
  | vabs (tk : BitVec 3) (d a : BitVec 5) (s : BitVec 1)
  /-- VFADD (R198): Masked floating add, rounded once by VT. -/
  | vfadd (tk : BitVec 3) (d a b : BitVec 5)
  /-- VFSUB (R198): Masked floating subtract. -/
  | vfsub (tk : BitVec 3) (d a b : BitVec 5)
  /-- VFMUL (R198): Masked floating multiply. -/
  | vfmul (tk : BitVec 3) (d a b : BitVec 5)
  /-- VFMA (R198): Masked fused multiply-add with optional negations, rounded once. -/
  | vfma (tk : BitVec 3) (d a b : BitVec 5) (na n : BitVec 1)
  /-- VFMAX (R198): Masked floating maximum. -/
  | vfmax (tk : BitVec 3) (d a b : BitVec 5)
  /-- VFMIN (R198): Masked floating minimum. -/
  | vfmin (tk : BitVec 3) (d a b : BitVec 5)
  /-- VSFN (R199): Masked correctly rounded special function of each element. -/
  | vsfn (tk : BitVec 3) (d a : BitVec 5) (f : BitVec 4)
  /-- VCVT (R200): Masked conversion from a source type into VT's type, by part. -/
  | vcvt (tk : BitVec 3) (d a : BitVec 5) (p : BitVec 2) (s : BitVec 4)
  /-- VQNT (R201): Quantises floating elements into SXI8 blocks in choose, smax or given mode. -/
  | vqnt (tk : BitVec 3) (d a b : BitVec 5) (m p : BitVec 2)
  /-- VDQ (R202): Masked dequantisation of INT8 elements by their scale words. -/
  | vdq (tk : BitVec 3) (d a b : BitVec 5) (p : BitVec 2)
  /-- VRED (R205): Reduces the present elements by a fixed tree into element 0. -/
  | vred (tk : BitVec 3) (d a : BitVec 5) (o : BitVec 3)
  /-- VSHUF (R204): Masked element shuffle by index. -/
  | vshuf (tk : BitVec 3) (d a b : BitVec 5) (z : BitVec 1)
  /-- VSEL (R204): Selects elements of va or vb by the mask in force. -/
  | vsel (tk : BitVec 3) (d a b : BitVec 5)
  /-- VCMP (R203): Masked element compare producing all ones or zero. -/
  | vcmp (tk : BitVec 3) (d a b : BitVec 5) (u : BitVec 1) (c : BitVec 3)
  /-- VIMM (R209): Masked write of an immediate, read in VT's type, to every element. -/
  | vimm (tk : BitVec 3) (d : BitVec 5) (i : BitVec 16)
  /-- VMPUSH (R207): Pushes a mask formed from va and the top of the mask stack. -/
  | vmpush (tk : BitVec 3) (a : BitVec 5)
  /-- VMINV (R207): Inverts the top mask against the mask below. -/
  | vminv (tk : BitVec 3)
  /-- VMPOP (R207): Pops the mask stack. -/
  | vmpop (tk : BitVec 3)
  /-- VBMZ (R208): Branches when the mask in force is all clear. -/
  | vbmz (tk : BitVec 3) (o : BitVec 22)
  /-- VGET (R210): Moves one vector element into a general register. -/
  | vget (tk : BitVec 3) (d a b : BitVec 5) (s : BitVec 1)
  /-- VPUT (R210): Writes a general register into one vector element. -/
  | vput (tk : BitVec 3) (d a b : BitVec 5)
  /-- VSCAN (R206): Masked prefix sum, inclusive or exclusive. -/
  | vscan (tk : BitVec 3) (d a : BitVec 5) (x : BitVec 1)
  /-- VCFG (R211): Writes VT's type and rounding, optionally clearing the mask stack. -/
  | vcfg (tk : BitVec 3) (c : BitVec 1) (r : BitVec 2) (t : BitVec 4)
  /-- VLD (R213): Loads 256 contiguous bytes into the next LQ entry. -/
  | vld (tk : BitVec 3) (h : BitVec 4) (a : BitVec 5) (o : BitVec 13)
  /-- VLDH (R213): Strided element load into an LQ entry. -/
  | vldh (tk : BitVec 3) (h : BitVec 4) (a b : BitVec 5) (e : BitVec 2) (c : BitVec 6)
  /-- VST (R217): Stores the enabled bytes of the next SQ entry to 256 contiguous bytes. -/
  | vst (tk : BitVec 3) (h : BitVec 4) (a : BitVec 5) (o : BitVec 13)
  /-- VSTH (R217): Strided element store from an SQ entry. -/
  | vsth (tk : BitVec 3) (h : BitVec 4) (a b : BitVec 5) (e : BitVec 2) (c : BitVec 6)
  /-- VGTH (R213): Gathers elements at indices taken from an SQ entry into an LQ entry. -/
  | vgth (tk : BitVec 3) (h : BitVec 4) (a : BitVec 5) (e : BitVec 2)
  /-- VSCT (R217): Scatters data elements at indices, both taken from SQ. -/
  | vsct (tk : BitVec 3) (h : BitVec 4) (a : BitVec 5) (e : BitVec 2)
  /-- VLDT (R216): Decodes one trellis block into an LQ entry, optionally with its scale word. -/
  | vldt (tk : BitVec 3) (h : BitVec 4) (a b : BitVec 5) (s : BitVec 1)
  /-- VQSYNC (R219): Waits until every earlier VL load has filled and every earlier VL store has been performed. -/
  | vqsync (tk : BitVec 3)
  /-- VL_LOAD_FILL (R184): A VL load's data arrives and fills its reserved LQ entry, or marks it uncorrectable. -/
  | vlLoadFill (core pos : Nat)
  /-- VL_STORE_PERFORM (R184): An SB entry that has its SQ data is performed and its store finishes. -/
  | vlStorePerform (core : Nat)
  /-- CPY (R226): Copies up to 64 KiB from a source place to a destination place. -/
  | cpy (tk : BitVec 3) (p : BitVec 2) (h : BitVec 4) (a : BitVec 5) (q : BitVec 2) (j : BitVec 4) (b : BitVec 5)
  /-- CPY3 (R227): Copies a three-dimensional shape described by a shape record. -/
  | cpy3 (tk : BitVec 3) (p : BitVec 2) (h : BitVec 4) (a : BitVec 5) (q : BitVec 2) (j : BitVec 4) (b : BitVec 5)
  /-- CPYENC (R231): Forms a CODED16 tile as integer combinations of SXI8 stripes by an encode record. -/
  | cpyenc (tk : BitVec 3) (a : BitVec 5)
  /-- CFILL (R230): Fills a destination with a 64-bit pattern. -/
  | cfill (tk : BitVec 3) (p : BitVec 2) (h : BitVec 4) (a b : BitVec 5)
  /-- CRMT (R232): Copies local data to a page of any package in the load-store domain. -/
  | crmt (tk : BitVec 3) (a : BitVec 5) (q : BitVec 2) (j : BitVec 4) (b : BitVec 5)
  /-- CFETCH (R233): Fills a scratchpad slot from a 4 KiB region and sets its tag filling, then valid. -/
  | cfetch (tk : BitVec 3) (h : BitVec 4) (a b : BitVec 5)
  /-- CEVICT (R234): Writes a scratchpad slot back to its region, optionally keeping its tags. -/
  | cevict (tk : BitVec 3) (h : BitVec 4) (a b : BitVec 5) (keep : BitVec 1)
  /-- CX_COMMAND_FINISH (R223): A staged CX or NX command's writes are all performed, and its preset push releases them. -/
  | cxCommandFinish (core : Nat)
  /-- NSEND (R238): Sends a tagged message to a peer die and adds its length to the pending-byte counter. -/
  | nsend (tk : BitVec 3) (h : BitVec 4) (a b : BitVec 5) (s : BitVec 1)
  /-- NRECV (R239): Posts a receive buffer and waits for a matching message to be delivered. -/
  | nrecv (tk : BitVec 3) (h : BitVec 4) (a b d : BitVec 5) (s : BitVec 1)
  /-- NMATCH (R240): Installs a match-table entry that releases a card when its buffer is full. -/
  | nmatch (tk : BitVec 3) (h : BitVec 4) (a b c : BitVec 5) (s : BitVec 1)
  /-- NRED (R241): Waits for a matching message and combines it element by element into the buffer. -/
  | nred (tk : BitVec 3) (h : BitVec 4) (a b : BitVec 5) (s : BitVec 1) (o : BitVec 4)
  /-- NBAR (R242): Arrives at a barrier among the job's NX streams once the pending-byte counter reads 0. -/
  | nbar (tk : BitVec 3)
  /-- NBAR_RELEASE (R242): Releases the barrier once every participant has arrived. -/
  | nbarRelease (job : Nat)
  /-- NROUTE (R243): Routes tokens to experts by remote capacity claims and payload deliveries, and counts the dropped tokens. -/
  | nroute (tk : BitVec 3) (d a : BitVec 5)
  /-- NROUTE_FILL_JOIN (R244): Joins an expert's fill cell once all of NROUTE's deliveries to it are acknowledged. -/
  | nrouteFillJoin (die : Nat)
  /-- NPEND (R242): Reads the die's pending-byte counter into gd. -/
  | npend (tk : BitVec 3) (d : BitVec 5)
  /-- NX_HEADER_ARRIVAL (R238): A message header reaches the destination die and matches the oldest posted receiver, or waits in the pending list, or is refused. -/
  | nxHeaderArrival (die : Nat) (hdr : NxHeader)
  /-- NX_HEADER_RETRY (R238): A refused header is repeated after 1,700 ticks. -/
  | nxHeaderRetry (die pos : Nat)
  /-- NX_DELIVERY (R239): A matched message's data is delivered into the receiver's buffer. -/
  | nxDelivery (die pos : Nat)
  /-- NSEND_ACK (R238): The destination's acknowledgement finishes the NSEND and subtracts its length from the counter. -/
  | nsendAck (die seq : Nat)
  /-- TENC (R246): Encodes FP32 targets into a trellis image by Viterbi passes. -/
  | tenc (h : BitVec 4) (a : BitVec 5) (j : BitVec 4) (b : BitVec 5)
  /-- TDEC (R250): Decodes a trellis image into byte values and scale words. -/
  | tdec (h : BitVec 4) (a : BitVec 5) (j : BitVec 4) (b : BitVec 5)
  /-- TSTAT (R251): Reads a statistic of the last TENC into gd. -/
  | tstat (d : BitVec 5) (f : BitVec 2)
  /-- JPOST (R258): Posts a prepared card into a core's job queue. -/
  | jpost (a b : BitVec 5)
  /-- JPREP (R257): Checks a card in memory and copies it into a card slot, marking it prepared. -/
  | jprep (h : BitVec 4) (a b : BitVec 5)
  /-- SXFER (R259): Enters a stream transfer from a transfer record into the scoreboard and returns its id. -/
  | sxfer (h : BitVec 4) (a d : BitVec 5)
  /-- KRUN (R261): Submits a prepared card as a reserved kernel on a served core, returning its deadline or 0. -/
  | krun (d a b : BitVec 5)
  /-- SBWAIT (R262): Waits for a scoreboard entry to finish and writes its status, freeing a failed entry. -/
  | sbwait (d a : BitVec 5)
  /-- RPUSH (R263): Appends a register to the context's outbound ring, as a release. -/
  | rpush (a : BitVec 5)
  /-- RPOP (R263): Removes the oldest entry of the context's inbound ring into gd, as an acquire. -/
  | rpop (d : BitVec 5)
  /-- OVLY (R264): Loads an overlay image, waits for the named engines to drain, and starts the new program. -/
  | ovly (h : BitVec 4) (a m : BitVec 5)
  /-- CODSET (R413): Checks a coding descriptor and installs it in a dispatcher slot. -/
  | codset (h : BitVec 4) (a b : BitVec 5)
  /-- CMM (R415): Starts a coded operator: translates its areas, admits it, writes argument blocks and places its tasks. -/
  | cmm (d a : BitVec 5)
  /-- CDWAIT (R427): Waits for a coded operator to end and writes its status word. -/
  | cdwait (d a : BitVec 5)
  /-- WATCH (R392): Checks a watch descriptor, translates its range and installs an armed watch entry. -/
  | watch (h : BitVec 4) (a d : BitVec 5)
  /-- UNWATCH (R266): Removes a watch entry installed by the same LC. -/
  | unwatch (a : BitVec 5)
  /-- LXSET (R385): Loads a lattice exchange schedule if it is well formed and connected. -/
  | lxset (h : BitVec 4) (a d : BitVec 5)
  /-- LAYSET (R365): Writes a layout record from memory. -/
  | layset (h : BitVec 4) (a b : BitVec 5)
  /-- PTOKEN (R268): Moves priority tokens between the context's purse and a card. -/
  | ptoken (d a b : BitVec 5)
  /-- JQPUSH (R269): A write to the JQPUSH port posts a card exactly as JPOST does. -/
  | jqpush (side : BitVec 1) (a : BitVec 5)
  /-- DONE (R270): A read of the DONE port removes the oldest completion entry and acquires that job's writes. -/
  | done (side : BitVec 1) (d : BitVec 5)
  /-- FAULTQ (R338): A read of FAULTQ removes the oldest fault notice and acquires its trap record. -/
  | faultq (d : BitVec 5)
  /-- RESUME_RETRY (R339): A RESUME write with MODE 0 continues a held unit at EPC. -/
  | resumeRetry (a : BitVec 5)
  /-- RESUME_HANDLER (R339): A RESUME write with MODE 1 enters the held unit's handler at ADDR with STAT.TH set. -/
  | resumeHandler (a : BitVec 5)
  /-- ABORT (R340): An ABORT write ends a held engine job with a cause, or halts a held control context. -/
  | abort (a : BitVec 5)
  /-- INVAL (R373): An INVAL write starts an invalidation that drops walker copies and revokes overlapping handles. -/
  | inval (a : BitVec 5)
  /-- INVALIDATION_COMPLETE (R373): An invalidation completes once the checked accesses through revoked handles are performed. -/
  | invalidationComplete (pos : Nat)
  /-- MIGCMD_START (R377): Starts a migration unit copying a frame sector by sector. -/
  | migcmdStart (a : BitVec 5)
  /-- MIGCMD_END (R377): Ends a migration unit, copying sectors back first when it stopped on a cause. -/
  | migcmdEnd (a : BitVec 5)
  /-- MIGRATION_SECTOR_COPY (R376): A migration unit copies the sector at its cursor and advances, or stops on an uncorrectable error. -/
  | migrationSectorCopy (mu : Nat)
  /-- BNCQ (R375): A read of BNCQ removes the oldest bounce notice and acquires its record. -/
  | bncq (d : BitVec 5)
  /-- BNCDONE (R375): A BNCDONE write completes and frees a bounce record, performing its bounced write. -/
  | bncdone (a : BitVec 5)
  /-- BOUNCE_DELIVERY (R374): A write to a non-resident page lands in a bounce-buffer record and posts a notice. -/
  | bounceDelivery (pos : Nat)
  /-- HOSTIRQ (R404): A HOSTIRQ write raises an MSI-X vector to the host, as a release. -/
  | hostirq (a : BitVec 5)
  /-- REGISTER_WRITE (R17): A write to a register or port that has no row of its own sets its fields by their access codes. -/
  | registerWrite (space : BitVec 2) (i : BitVec 24) (v : DWord)
  /-- WALK_COMPLETE (R361): A page walk ends and makes its pending handle valid or faulted. -/
  | walkComplete (u : UnitId) (h : BitVec 4)
  /-- WALK_LOCK_RETRY (R361): A walk re-reads a locked entry after 1,700 ticks, failing after 64 retries. -/
  | walkLockRetry (u : UnitId) (h : BitVec 4)
  /-- STREAM_TRANSFER_FINISH (R259): A stream transfer finishes or fails with a cause, updating its scoreboard entry. -/
  | streamTransferFinish (lc pos : Nat)
  /-- CARD_READY (R324): An admitted card becomes ready once its transfers have finished and its cell threshold is met. -/
  | cardReady (lc pos : Nat)
  /-- QUEUE_ISSUE (R328): The stream controller issues a ready card into a served core's job queue while every reserved slack stays non-negative. -/
  | queueIssue (core : Nat)
  /-- JOB_START (R274): A job at the head of the queue starts all its streams on the job-issue tick. -/
  | jobStart (core : Nat)
  /-- JOB_COMPLETE (R289): A job completes when its streams have halted and its tracker entries are freed; queues are cleared. -/
  | jobComplete (core job : Nat)
  /-- COMPLETION_ENTRY_APPEND (R270): Appends a completion entry to the poster's completion FIFO, waiting while it is full, and releases the card slot. -/
  | completionEntryAppend (core : Nat)
  /-- RDV_RELEASE (R110): Releases a rendezvous meeting once every stream of the job has arrived. -/
  | rdvRelease (job : Nat) (n : BitVec 8)
  /-- SWITCH_POINT_RELEASE (R284): At the release tick, the core takes its granted level and its streams jump to their schedule-table variants. -/
  | switchPointRelease (core : Nat)
  /-- PPC_REALLOTMENT (R310): Every 13,600 ticks, the PPC computes grants for every core and gates or ungates cores. -/
  | ppcReallotment (hot : BitVec 8)
  /-- PERMIT_BOUNDARY (R313): Every 6,800 ticks, charges boost permits and lowers the grant of each unpaid dense core. -/
  | permitBoundary (die : Nat)
  /-- PERMIT_REFILL (R312): Every 27,200 ticks, refills the die's permit counter by 1 when no core has run at dense. -/
  | permitRefill (die : Nat)
  /-- FORCED_DROP (R315): At the forced tick, MX stops issuing stamped commands pending a level drop. -/
  | forcedDrop (core : Nat)
  /-- FORCED_DROP_LEVEL_TAKE (R315): Once MX is quiescent, the core takes the lower level, rebases T and stretches stamps. -/
  | forcedDropLevelTake (core : Nat)
  /-- PROFILE_SAMPLE (R317): Every 4,096 engine cycles, the core appends a sample record to its die's profile ring. -/
  | profileSample (core power : Nat)
  /-- PURSE_EARN (R330): At each multiple of PURSERATE, every purse below PURSECAP gains one token. -/
  | purseEarn
  /-- PREEMPTION_DECISION (R329): A ready card of higher priority pre-empts the running job under a chosen and affordable policy. -/
  | preemptionDecision (core : Nat)
  /-- CUT_STOP_POINTS_REACHED (R345): The streams of the instance being cut wait at stop points of one generation, which fixes the live mask. -/
  | cutStopPointsReached (core : Nat)
  /-- CUT_SAVE (R346): Once the drained cut is consistent, writes the save slot and releases the core. -/
  | cutSave (core : Nat)
  /-- KERNEL_WITHDRAWAL (R331): At its latest start, an unissued reserved kernel is withdrawn and DEADLINE_MISS is reported. -/
  | kernelWithdrawal (lc pos : Nat)
  /-- DEADLINE_MISS_REPORT (R331): At D, an issued reserved kernel that has not completed has DEADLINE_MISS reported to its submitter. -/
  | deadlineMissReport (job : Nat)
  /-- REPORTED_CAUSE_DELIVERY (R81): A reported cause is delivered to its owning context at that context's next instruction boundary. -/
  | reportedCauseDelivery (lc : Nat) (k : Ctx)
  /-- HOLD_NOTICE_POST (R336): A held cause takes a save slot, writes its trap record and posts a notice, waiting while the fault queue is full. -/
  | holdNoticePost (u : UnitId)
  /-- WATCH_TRIGGER (R394): A write that meets an armed watch entry coalesces into a pending job or spawns one, subject to the rate limit. -/
  | watchTrigger
  /-- RATE_WINDOW_START (R395): Every 170,000 ticks, restarts every watch entry's SPAWNS count. -/
  | rateWindowStart
  /-- EXCHANGE_ROUND_START (R383): An inner exchange round snapshots and sends the dirty lines of each pair. -/
  | exchangeRoundStart
  /-- EXCHANGE_LINE_JOIN (R384): A receiver joins an arriving lattice line into its replica and marks changed lines dirty. -/
  | exchangeLineJoin (pos : Nat)
  /-- OUTER_EXCHANGE_ROUND (R388): An outer exchange round exchanges SYS-scope lattice lines between paired packages' control dies. -/
  | outerExchangeRound (lines : List LatLine)
  /-- CODED_POST (R420): A TWR post reaches the dispatcher and, when accepted, is copied into the return area. -/
  | codedPost (pos : Nat) (far : Option (Nat × Nat × List Byte))
  /-- TILE_DECISION (R421): A tile is decided once it holds enough returns or reaches its time limit. -/
  | tileDecision (slot tile : Nat)
  /-- TILE_DECODE (R423): A free decoder solves, verifies and locates faults in a decided tile, then writes or exports it. -/
  | tileDecode (decoder : Nat)
  /-- OPERATOR_END (R425): A coded operator ends when every tile is decided and written, and its task jobs are stopped. -/
  | operatorEnd (slot : Nat)
  /-- OPERATOR_DEADLINE (R425): At D, the operator ends with undecided tiles unwritten and MISS set. -/
  | operatorDeadline (slot : Nat)
  /-- SEAM_FLIT_RECEIVE (R405): A seam-link flit is received and checked by CRC and sequence, then accepted or discarded. -/
  | seamFlitReceive (link : Nat) (flit : List Byte)
  /-- SEAM_REPLAY (R406): A sender replays flits from ACK + 1 after a discarded flit. -/
  | seamReplay (replay : Nat × List (Nat × List Nat))
  /-- HBM_TRANSFER_RETRY (R453): A transfer that fails parity is retried, or is counted as exceeding the limit after four attempts. -/
  | hbmTransferRetry (die chan addr : Nat) (wr pass : Bool)
  /-- HBM_WRITE_REATTEMPT (R453): A write that exceeded the limit starts four attempts afresh after 850 ticks. -/
  | hbmWriteReattempt (die chan : Nat) (pass : Bool)
  /-- LANE_SWAP (R454): On the fourth limit excess within 1 s, the channel stops accepting and maps a failing lane to a spare. -/
  | laneSwap (die chan lane : Nat)
  /-- LANE_SWAP_RESUME (R454): The channel accepts accesses again after the swap. -/
  | laneSwapResume (die chan : Nat)
  /-- SCRUB_VISIT (R456): Every 1,700,000 ticks, the scrubber reads a sector and writes back corrected codewords unless the sector was written meanwhile. -/
  | scrubVisit (mem chan : Nat)
  /-- PPS_EDGE (R461): At a 1 PPS edge, the MGC latches a pair of PCYC and PTP time. -/
  | ppsEdge
  /-- PTPTOD (R461): A time-of-day message written over the sideband disciplines the MGC's PTP time. -/
  | ptptod (sec ns : Nat)
  /-- THERMAL_SAMPLE (R464): Every 34,000 ticks, the MGC samples the temperatures and changes die thermal states, subject to the dwell. -/
  | thermalSample (readings : List Nat)
  /-- POWER_ON (R467): Power-on runs bring-up steps S0 to S11 with the methods the boot record gives. -/
  | powerOn (fails : List Nat)
  /-- RESTART (R472): Writing 0x5A to the RESTART register shuts the package down and restarts it at S0. -/
  | restart (v : Byte)
  /-- CFGWR (R473): Takes one byte of a configuration block and, at the 1,024th byte, checks the block and commits it to flash. -/
  | cfgwr (b : Byte)
  /-- CFGSTAT (R473): A write to CFGSTAT discards a partly written block and sets STATE and COUNT to 0. -/
  | cfgstat (v : BitVec 32)
  /-- PROGRAM_LOAD (R67): The loading path writes a program image, pads it and raises IMLIM. -/
  | programLoad (m : ImemId) (addr : Nat) (ws : List Word)
  /-- CONTEXT_LOAD (R253): The loading path starts a control context at an entry with reset registers. -/
  | contextLoad (lc : Nat) (k : Ctx) (entry : Nat) (g1 : DWord)
  /-- HOST_CARD_WINDOW_WRITE (R400): A host write into the card-store window writes a card slot, or is dropped with HOSTERR.CARD set. -/
  | hostCardWindowWrite (off : Nat) (data : List Byte)
  /-- HOST_APERTURE_READ (R402): A host read through BAR2 is translated afresh and returns the data, or all ones on failure. -/
  | hostApertureRead (off len : Nat)
  /-- HOST_APERTURE_WRITE (R402): A host write through BAR2 is translated and performed at SYS scope, joining on lattice pages. -/
  | hostApertureWrite (off : Nat) (data : List Byte)
  /-- HOST_ATOMIC_FETCHADD (R402): A PCIe FetchAdd is executed as AMO ADD at the home. -/
  | hostAtomicFetchadd (off size : Nat) (b : DWord)
  /-- HOST_ATOMIC_SWAP (R402): A PCIe Swap is executed as AMO SWAP at the home. -/
  | hostAtomicSwap (off size : Nat) (b : DWord)
  /-- HOST_ATOMIC_CAS (R402): A PCIe CAS is executed as AMO CAS at the home. -/
  | hostAtomicCas (off size : Nat) (cmp b : DWord)
  /-- WRITE_PERFORMED (R130): An accepted store, AMO write or join is performed at its home and becomes visible at its page's scope, freeing its retirement tracker entry. -/
  | writePerformed (pos : Nat)
  /-- FLIT_BOUNDARY_ARBITRATION (R408): At each flit boundary, a seam link direction chooses which VC sends the next flit, by the slot of the 8-flit frame. -/
  | flitBoundaryArbitration (link : Nat) (ready : BitVec 3) (payload : List Byte)
  /-- PRESENT_PACKAGES_CHANGE (R388): The set of packages present in the load-store domain changes, so ranks are recomputed at the next outer cycle start and dirty marks are widened. -/
  | presentPackagesChange (routes : List (Nat × List Nat))
  /-- TE_STREAM_START (R356): The loading path starts the TE stream on behalf of a control core, which fixes the root it translates through. -/
  | teStreamStart (lc entry : Nat) (g1 : DWord)
  deriving DecidableEq, Repr, Inhabited

end Sys2Proof
end

