-- ==== Sys2Proof/WellFormed.lean ====
section
/-!
DEFINITION. Which instructions are well formed: the limits that the spec sets on fields beyond the layout of the
word (R60, R103, R141, R197, R212, R222, R225, R236), and, for the rows without a word, that their operands name something that exists
(R4 to R6, R252, R319, R376, R412). An ill-formed word raises ILLEGAL; an ill-formed event cannot happen.
-/

namespace Sys2Proof

/-- A core's global index (R6). -/
def okCore (c : Nat) : Bool := decide (c < 32)

/-- A control core's number (R4). -/
def okLc (i : Nat) : Bool := decide (i < 18)

/-- A compute die's number (R5). -/
def okDie (d : Nat) : Bool := decide (d < 8)

/-- A channel of a memory: 0..7 the HBM of a die, 8 LPDDR (R378). -/
def okChan (m c : Nat) : Bool := decide (m < 9) && decide (c < 32)

/-- A unit that exists. -/
def okUnit : UnitId → Bool
  | .eng _ c => okCore c
  | .nx d => okDie d
  | .te => true
  | .ctx i _ => okLc i

/-- An instruction memory that exists. -/
def okImem : ImemId → Bool
  | .eng _ c => okCore c
  | .nx d => okDie d
  | .te => true
  | .lc i => okLc i

/-- The bytes of an instruction memory (R4, R5, R67). -/
def imemSize : ImemId → Nat
  | .lc _ => 262144
  | _ => 131072

/-- A space and the handle field beside it (R222, R225): a space below the limit, the field 0 unless the space is 0. -/
def okPlace (limit : Nat) (space : BitVec 2) (h : BitVec 4) : Bool :=
  decide (space.toNat < limit) && (decide (space = 0) || decide (h = 0))

/-- The place of an NX operand (R236): with S = 1 the handle field is 0. -/
def okSide (s : BitVec 1) (h : BitVec 4) : Bool := decide (s = 0) || decide (h = 0)

/-- An element size (R212). -/
def okElem (e : BitVec 2) : Bool := decide (e.toNat < 3)

/-- R60, R103, R141, R197, R212, R222, R225, R236, and the ranges of the event rows' operands. The end of LOOP and LOOPI is
checked as a prefix extends it (R58), by their meanings. -/
def wellFormed : Instr → Bool
  | .leave _ s m => decide (s = 1) || decide (m = 0)
  | .tkwait _ _ e => decide (e.toNat < 6)
  | .tksig _ e => decide (e.toNat < 6)
  | .drain p => decide (p.toNat < 6)
  | .fence _ p => decide (p.toNat < 3)
  | .amo _ _ _ _ _ z => decide (2 ≤ z.toNat)
  | .vshl _ _ _ b i n => if i = 1 then decide (b = 0) else decide (n = 0)
  | .vshr _ _ _ b i _ n => if i = 1 then decide (b = 0) else decide (n = 0)
  | .vldh _ _ _ _ e _ => okElem e
  | .vsth _ _ _ _ e _ => okElem e
  | .vgth _ _ _ e => okElem e
  | .vsct _ _ _ e => okElem e
  | .cpy _ p h _ q j _ => okPlace 3 p h && okPlace 2 q j
  | .cpy3 _ p h _ q j _ => okPlace 3 p h && okPlace 2 q j
  | .cfill _ p h _ _ => okPlace 3 p h
  | .crmt _ _ q j _ => okPlace 2 q j
  | .nsend _ h _ _ s => okSide s h
  | .nrecv _ h _ _ _ s => okSide s h
  | .nmatch _ h _ _ _ s => okSide s h
  | .nred _ h _ _ s o => okSide s h && decide (o.toNat < 7)
  | .lockGrant c b i => okCore c && decide (b < 32) && decide (i < 64)
  | .lwaitTimeout u => okUnit u
  | .mxOccupancyEnd c => okCore c
  | .vlLoadFill c p => okCore c && decide (p < 16)
  | .vlStorePerform c => okCore c
  | .cxCommandFinish c => okCore c
  | .nrouteFillJoin d => okDie d
  | .nxHeaderArrival d h => okDie d && decide (h.pkg < 64) && okDie h.die && decide (h.tag < 2 ^ 32)
  | .nxHeaderRetry d _ => okDie d
  | .nxDelivery d _ => okDie d
  | .nsendAck d _ => okDie d
  | .migrationSectorCopy m => decide (m < 4)
  | .walkComplete u _ => okUnit u
  | .walkLockRetry u _ => okUnit u
  | .streamTransferFinish i p => okLc i && decide (p < 64)
  | .cardReady i p => okLc i && decide (p < 64)
  | .queueIssue c => okCore c
  | .jobStart c => okCore c
  | .jobComplete c _ => okCore c
  | .completionEntryAppend c => okCore c
  | .switchPointRelease c => okCore c
  | .permitBoundary d => okDie d
  | .permitRefill d => okDie d
  | .forcedDrop c => okCore c
  | .forcedDropLevelTake c => okCore c
  | .profileSample c p => okCore c && decide (p < 2 ^ 16)
  | .preemptionDecision c => okCore c
  | .cutStopPointsReached c => okCore c
  | .cutSave c => okCore c
  | .kernelWithdrawal i p => okLc i && decide (p < 64)
  | .reportedCauseDelivery i _ => okLc i
  | .holdNoticePost u => okUnit u
  | .tileDecision s _ => decide (s < 64)
  | .tileDecode d => decide (d < 4)
  | .operatorEnd s => decide (s < 64)
  | .operatorDeadline s => decide (s < 64)
  | .seamFlitReceive l f => decide (l < 18) && decide (f.length = 256)
  | .seamReplay r => decide (r.1 < 18) && r.2.all fun x => decide (x.1 < 64)
  | .flitBoundaryArbitration l _ p => decide (l < 18) && decide (p.length = 240)
  | .hbmTransferRetry d c _ _ _ => okDie d && decide (c < 32)
  | .hbmWriteReattempt d c _ => okDie d && decide (c < 32)
  | .laneSwap d c l => okDie d && decide (c < 32) && decide (l < 64)
  | .laneSwapResume d c => okDie d && decide (c < 32)
  | .scrubVisit m c => okChan m c
  | .ptptod _ ns => decide (ns < 1000000000)
  | .thermalSample rs => decide (rs.length = 26)
  | .programLoad m a ws => okImem m && decide (a % 4 = 0) && decide (a + 4 * ws.length ≤ imemSize m)
  | .contextLoad i _ e _ => okLc i && decide (e % 4 = 0)
  | .hostCardWindowWrite off d => decide (off + d.length ≤ 0x800000)
  | .hostApertureRead off len => decide (off + len ≤ 0x1000000000)
  | .hostApertureWrite off d => decide (off + d.length ≤ 0x1000000000)
  | .hostAtomicFetchadd off _ _ => decide (off < 0x1000000000)
  | .hostAtomicSwap off _ _ => decide (off < 0x1000000000)
  | .hostAtomicCas off _ _ _ => decide (off < 0x1000000000)
  | .presentPackagesChange rs => rs.all fun r => decide (r.1 < 64)
  | .teStreamStart i e _ => okLc i && decide (e % 4 = 0)
  | _ => true

end Sys2Proof
end

