-- ==== Sys2Proof/Decode.lean ====
section
/-!
DEFINITION. Decoding and encoding of instruction words (spec/02_words_registers_assembly.md R56 to R65;
the private layouts of R170, R189, R212, R225, R236, R245, R255). Decoding is total: a word that no layout
assigns is refused by name. The prefix word and the all-zero word are told apart before (R60 to R63): see
`classify`. The encoder stands after the decoder.
-/

namespace Sys2Proof

/-- Why a word is no instruction (R60, R64): the opcode is not assigned, or a res0 field is nonzero. Either
raises ILLEGAL where the word is executed. -/
inductive DecodeReject where
  | unassigned (op : Nat)
  | res0Nonzero (w : Word)
  | illFormed (w : Word)
  deriving DecidableEq, Repr

/-- The field of `n` bits that stands at bit `lo` of the word (R15). -/
def fld (w : Word) (lo n : Nat) : BitVec n := w.extractLsb' lo n

/-- The instruction, unless a bit of the mask (the res0 bits of its layout) is set (R18). -/
def res0 (w mask : Word) (i : Instr) : Except DecodeReject Instr :=
  if w &&& mask = 0 then .ok i else .error (.res0Nonzero w)

/-- The shared subset (R57 to R59): opcode in bits 30:24, all of bits 31:24 matched here. -/
def opShared (w : Word) (op : Nat) : Except DecodeReject Instr :=
  match op with
  | 0x01 => res0 w 0x000001FF (.add (fld w 19 5) (fld w 14 5) (fld w 9 5))
  | 0x02 => res0 w 0x000001FF (.sub (fld w 19 5) (fld w 14 5) (fld w 9 5))
  | 0x03 => res0 w 0x000001FF (.mul (fld w 19 5) (fld w 14 5) (fld w 9 5))
  | 0x04 => res0 w 0x000001FF (.mulh (fld w 19 5) (fld w 14 5) (fld w 9 5))
  | 0x05 => res0 w 0x000001FF (.mulhu (fld w 19 5) (fld w 14 5) (fld w 9 5))
  | 0x06 => res0 w 0x000001FF (.div (fld w 19 5) (fld w 14 5) (fld w 9 5))
  | 0x07 => res0 w 0x000001FF (.divu (fld w 19 5) (fld w 14 5) (fld w 9 5))
  | 0x08 => res0 w 0x000001FF (.rem (fld w 19 5) (fld w 14 5) (fld w 9 5))
  | 0x09 => res0 w 0x000001FF (.remu (fld w 19 5) (fld w 14 5) (fld w 9 5))
  | 0x0A => res0 w 0x000001FF (.and (fld w 19 5) (fld w 14 5) (fld w 9 5))
  | 0x0B => res0 w 0x000001FF (.or (fld w 19 5) (fld w 14 5) (fld w 9 5))
  | 0x0C => res0 w 0x000001FF (.xor (fld w 19 5) (fld w 14 5) (fld w 9 5))
  | 0x0D => res0 w 0x000001FF (.andn (fld w 19 5) (fld w 14 5) (fld w 9 5))
  | 0x0E => res0 w 0x000001FF (.shl (fld w 19 5) (fld w 14 5) (fld w 9 5))
  | 0x0F => res0 w 0x000001FF (.shr (fld w 19 5) (fld w 14 5) (fld w 9 5))
  | 0x10 => res0 w 0x000001FF (.sra (fld w 19 5) (fld w 14 5) (fld w 9 5))
  | 0x11 => res0 w 0x000001FF (.rol (fld w 19 5) (fld w 14 5) (fld w 9 5))
  | 0x12 => res0 w 0x000001FF (.slt (fld w 19 5) (fld w 14 5) (fld w 9 5))
  | 0x13 => res0 w 0x000001FF (.sltu (fld w 19 5) (fld w 14 5) (fld w 9 5))
  | 0x14 => res0 w 0x000001FF (.seq (fld w 19 5) (fld w 14 5) (fld w 9 5))
  | 0x15 => res0 w 0x000001FF (.min (fld w 19 5) (fld w 14 5) (fld w 9 5))
  | 0x16 => res0 w 0x000001FF (.max (fld w 19 5) (fld w 14 5) (fld w 9 5))
  | 0x17 => res0 w 0x000001FF (.minu (fld w 19 5) (fld w 14 5) (fld w 9 5))
  | 0x18 => res0 w 0x000001FF (.maxu (fld w 19 5) (fld w 14 5) (fld w 9 5))
  | 0x19 => res0 w 0x00003FFF (.clz (fld w 19 5) (fld w 14 5))
  | 0x1A => res0 w 0x00003FFF (.popc (fld w 19 5) (fld w 14 5))
  | 0x1B => res0 w 0x000001F8 (.idx (fld w 19 5) (fld w 14 5) (fld w 9 5) (fld w 0 3))
  | 0x1C => res0 w 0x000001C0 (.extu (fld w 19 5) (fld w 14 5) (fld w 9 5) (fld w 0 6))
  | 0x1D => res0 w 0x00003FC0 (.sext (fld w 19 5) (fld w 14 5) (fld w 0 6))
  | 0x1E => res0 w 0x000001FF (.cmovnz (fld w 19 5) (fld w 14 5) (fld w 9 5))
  | 0x20 => res0 w 0x00000000 (.addi (fld w 19 5) (fld w 14 5) (fld w 0 14))
  | 0x21 => res0 w 0x00000000 (.andi (fld w 19 5) (fld w 14 5) (fld w 0 14))
  | 0x22 => res0 w 0x00000000 (.ori (fld w 19 5) (fld w 14 5) (fld w 0 14))
  | 0x23 => res0 w 0x00000000 (.xori (fld w 19 5) (fld w 14 5) (fld w 0 14))
  | 0x24 => res0 w 0x00003FC0 (.shli (fld w 19 5) (fld w 14 5) (fld w 0 6))
  | 0x25 => res0 w 0x00003FC0 (.shri (fld w 19 5) (fld w 14 5) (fld w 0 6))
  | 0x26 => res0 w 0x00003FC0 (.srai (fld w 19 5) (fld w 14 5) (fld w 0 6))
  | 0x27 => res0 w 0x00000000 (.slti (fld w 19 5) (fld w 14 5) (fld w 0 14))
  | 0x28 => res0 w 0x00000000 (.sltiu (fld w 19 5) (fld w 14 5) (fld w 0 14))
  | 0x29 => res0 w 0x00000000 (.muli (fld w 19 5) (fld w 14 5) (fld w 0 14))
  | 0x2A => res0 w 0x00000000 (.li (fld w 19 5) (fld w 0 19))
  | 0x2B => res0 w 0x00000000 (.lui (fld w 19 5) (fld w 0 19))
  | 0x2C => res0 w 0x00000000 (.auipc (fld w 19 5) (fld w 0 19))
  | 0x30 => res0 w 0x00000000 (.beq (fld w 19 5) (fld w 14 5) (fld w 0 14))
  | 0x31 => res0 w 0x00000000 (.bne (fld w 19 5) (fld w 14 5) (fld w 0 14))
  | 0x32 => res0 w 0x00000000 (.blt (fld w 19 5) (fld w 14 5) (fld w 0 14))
  | 0x33 => res0 w 0x00000000 (.bge (fld w 19 5) (fld w 14 5) (fld w 0 14))
  | 0x34 => res0 w 0x00000000 (.bltu (fld w 19 5) (fld w 14 5) (fld w 0 14))
  | 0x35 => res0 w 0x00000000 (.bgeu (fld w 19 5) (fld w 14 5) (fld w 0 14))
  | 0x38 => res0 w 0x00000000 (.j (fld w 0 24))
  | 0x39 => res0 w 0x00000000 (.call (fld w 0 24))
  | 0x3A => res0 w 0x00003FFF (.jr (fld w 19 5) (fld w 14 5))
  | 0x3C => res0 w 0x00000000 (.loop (fld w 22 2) (fld w 17 5) (fld w 0 17))
  | 0x3D => res0 w 0x00000000 (.loopi (fld w 22 2) (fld w 10 12) (fld w 0 10))
  | 0x3E => res0 w 0x0000FFFF (.leave (fld w 22 2) (fld w 21 1) (fld w 16 5))
  | 0x40 => res0 w 0x0007FFF0 (.tkwait (fld w 19 5) (fld w 3 1) (fld w 0 3))
  | 0x41 => res0 w 0x00FFFFF0 (.tksig (fld w 3 1) (fld w 0 3))
  | 0x42 => res0 w 0x00FFFF00 (.rdv (fld w 0 8))
  | 0x43 => res0 w 0x00FFFF00 (.gfence (fld w 0 8))
  | 0x44 => res0 w 0x00FFFF00 (.swpt (fld w 0 8))
  | 0x45 => res0 w 0x00000000 (.ppoint (fld w 0 24))
  | 0x48 => res0 w 0x00FFFF00 (.trap (fld w 0 8))
  | 0x49 => res0 w 0x00FFFFFF .eret
  | 0x4A => res0 w 0x0007C000 (.mfs (fld w 19 5) (fld w 0 14))
  | 0x4B => res0 w 0x00F80000 (.mts (fld w 14 5) (fld w 0 14))
  | 0x4C => res0 w 0x0007FFFF (.cyc (fld w 19 5))
  | 0x4D => res0 w 0x00FFFFFF .halt
  | 0x4E => res0 w 0x00FFFFFF .nop
  | 0x50 => res0 w 0x00F803FF (.trans (fld w 15 4) (fld w 10 5))
  | 0x51 => res0 w 0x00F87FFF (.hrel (fld w 15 4))
  | 0x52 => res0 w 0x00007FFF (.hchk (fld w 19 5) (fld w 15 4))
  | 0x53 => res0 w 0x00000000 (.ld (fld w 19 5) (fld w 15 4) (fld w 10 5) (fld w 8 2) (fld w 0 8))
  | 0x54 => res0 w 0x00000000 (.st (fld w 19 5) (fld w 15 4) (fld w 10 5) (fld w 8 2) (fld w 0 8))
  | 0x55 => res0 w 0x00000000 (.lda (fld w 19 5) (fld w 15 4) (fld w 10 5) (fld w 8 2) (fld w 0 8))
  | 0x56 => res0 w 0x00000000 (.stl (fld w 19 5) (fld w 15 4) (fld w 10 5) (fld w 8 2) (fld w 0 8))
  | 0x57 => res0 w 0x00000000 (.ldro (fld w 19 5) (fld w 15 4) (fld w 10 5) (fld w 8 2) (fld w 0 8))
  | 0x58 => res0 w 0x00000000 (.ldlk (fld w 19 5) (fld w 15 4) (fld w 10 5) (fld w 8 2) (fld w 0 8))
  | 0x59 => res0 w 0x00000000 (.stul (fld w 19 5) (fld w 15 4) (fld w 10 5) (fld w 8 2) (fld w 0 8))
  | 0x5A => res0 w 0x00000000 (.amo (fld w 19 5) (fld w 15 4) (fld w 10 5) (fld w 5 5) (fld w 2 3) (fld w 0 2))
  | 0x5B => res0 w 0x00003FFF (.lookup (fld w 19 5) (fld w 14 5))
  | 0x5C => res0 w 0x00F801FF (.tagset (fld w 14 5) (fld w 9 5))
  | 0x5D => res0 w 0x00F83FFF (.tagclr (fld w 14 5))
  | 0x5E => res0 w 0x00FFFFF8 (.drain (fld w 0 3))
  | 0x5F => res0 w 0x00F87FE3 (.fence (fld w 15 4) (fld w 2 3))
  | 0x60 => res0 w 0x00F8001C (.ljoin (fld w 15 4) (fld w 10 5) (fld w 5 5) (fld w 0 2))
  | 0x61 => res0 w 0x0000001C (.lwait (fld w 19 5) (fld w 15 4) (fld w 10 5) (fld w 5 5) (fld w 0 2))
  | 0x62 => res0 w 0x0007FFFE (.winfo (fld w 19 5) (fld w 0 1))
  | 0x63 => res0 w 0x0000001F (.trd (fld w 19 5) (fld w 15 4) (fld w 10 5) (fld w 5 5))
  | op => .error (.unassigned op)

/-- The same by the opcode field of the word. -/
def decodeShared (w : Word) : Except DecodeReject Instr := opShared w (fld w 24 8).toNat

/-- A private word of the MX half (R170): op6 in bits 30:25 (R64). -/
def opMx (w : Word) (op : Nat) : Except DecodeReject Instr :=
  match op with
  | 0x00 => res0 w 0x00000000 (.mma (fld w 22 3) (fld w 18 4) (fld w 14 4) (fld w 13 1) (fld w 2 11) (fld w 0 2))
  | 0x01 => res0 w 0x00000000 (.mmas (fld w 22 3) (fld w 18 4) (fld w 14 4) (fld w 13 1) (fld w 2 11) (fld w 0 2))
  | 0x02 => res0 w 0x003FC002 (.mzero (fld w 22 3) (fld w 13 1) (fld w 2 11) (fld w 0 1))
  | 0x03 => res0 w 0x000001FF (.mpi (fld w 22 3) (fld w 17 5) (fld w 13 4) (fld w 9 4))
  | 0x04 => res0 w 0x0003C000 (.mrnd (fld w 22 3) (fld w 18 4) (fld w 13 1) (fld w 2 11) (fld w 0 2))
  | 0x05 => res0 w 0x003FC003 (.mnorm (fld w 22 3) (fld w 13 1) (fld w 2 11))
  | 0x06 => res0 w 0x0001C003 (.msave (fld w 22 3) (fld w 17 5) (fld w 13 1) (fld w 2 11))
  | 0x07 => res0 w 0x0001C003 (.mload (fld w 22 3) (fld w 17 5) (fld w 13 1) (fld w 2 11))
  | 0x08 => res0 w 0x000000FF (.mtd (fld w 22 3) (fld w 18 4) (fld w 13 5) (fld w 8 5))
  | 0x09 => res0 w 0x0001FFFE (.mstb (fld w 22 3) (fld w 17 5) (fld w 0 1))
  | 0x0A => res0 w 0x0001E003 (.mtbl (fld w 22 3) (fld w 17 5) (fld w 2 11))
  | 0x0B => res0 w 0x00000003 (.mxpt (fld w 22 3) (fld w 18 4) (fld w 14 4) (fld w 13 1) (fld w 2 11))
  | op => .error (.unassigned op)

/-- The same by the opcode field of the word. -/
def decodeMx (w : Word) : Except DecodeReject Instr := opMx w (fld w 25 6).toNat

/-- A private word of the VE half (R189): op6 in bits 30:25 (R64). -/
def opVe (w : Word) (op : Nat) : Except DecodeReject Instr :=
  match op with
  | 0x00 => res0 w 0x0000007C (.vadd (fld w 22 3) (fld w 17 5) (fld w 12 5) (fld w 7 5) (fld w 1 1) (fld w 0 1))
  | 0x01 => res0 w 0x0000007C (.vsub (fld w 22 3) (fld w 17 5) (fld w 12 5) (fld w 7 5) (fld w 1 1) (fld w 0 1))
  | 0x02 => res0 w 0x00000078 (.vmul (fld w 22 3) (fld w 17 5) (fld w 12 5) (fld w 7 5) (fld w 2 1) (fld w 1 1) (fld w 0 1))
  | 0x03 => res0 w 0x0000007C (.vmad (fld w 22 3) (fld w 17 5) (fld w 12 5) (fld w 7 5) (fld w 1 1) (fld w 0 1))
  | 0x04 => res0 w 0x0000007D (.vmin (fld w 22 3) (fld w 17 5) (fld w 12 5) (fld w 7 5) (fld w 1 1))
  | 0x05 => res0 w 0x0000007D (.vmax (fld w 22 3) (fld w 17 5) (fld w 12 5) (fld w 7 5) (fld w 1 1))
  | 0x06 => res0 w 0x0000007F (.vand (fld w 22 3) (fld w 17 5) (fld w 12 5) (fld w 7 5))
  | 0x07 => res0 w 0x0000007F (.vor (fld w 22 3) (fld w 17 5) (fld w 12 5) (fld w 7 5))
  | 0x08 => res0 w 0x0000007F (.vxor (fld w 22 3) (fld w 17 5) (fld w 12 5) (fld w 7 5))
  | 0x09 => res0 w 0x00000020 (.vshl (fld w 22 3) (fld w 17 5) (fld w 12 5) (fld w 7 5) (fld w 6 1) (fld w 0 5))
  | 0x0A => res0 w 0x00000000 (.vshr (fld w 22 3) (fld w 17 5) (fld w 12 5) (fld w 7 5) (fld w 6 1) (fld w 5 1) (fld w 0 5))
  | 0x0B => res0 w 0x00000FFE (.vabs (fld w 22 3) (fld w 17 5) (fld w 12 5) (fld w 0 1))
  | 0x10 => res0 w 0x0000007F (.vfadd (fld w 22 3) (fld w 17 5) (fld w 12 5) (fld w 7 5))
  | 0x11 => res0 w 0x0000007F (.vfsub (fld w 22 3) (fld w 17 5) (fld w 12 5) (fld w 7 5))
  | 0x12 => res0 w 0x0000007F (.vfmul (fld w 22 3) (fld w 17 5) (fld w 12 5) (fld w 7 5))
  | 0x13 => res0 w 0x0000007C (.vfma (fld w 22 3) (fld w 17 5) (fld w 12 5) (fld w 7 5) (fld w 1 1) (fld w 0 1))
  | 0x14 => res0 w 0x0000007F (.vfmax (fld w 22 3) (fld w 17 5) (fld w 12 5) (fld w 7 5))
  | 0x15 => res0 w 0x0000007F (.vfmin (fld w 22 3) (fld w 17 5) (fld w 12 5) (fld w 7 5))
  | 0x16 => res0 w 0x00000FF0 (.vsfn (fld w 22 3) (fld w 17 5) (fld w 12 5) (fld w 0 4))
  | 0x18 => res0 w 0x00000FC0 (.vcvt (fld w 22 3) (fld w 17 5) (fld w 12 5) (fld w 4 2) (fld w 0 4))
  | 0x19 => res0 w 0x00000070 (.vqnt (fld w 22 3) (fld w 17 5) (fld w 12 5) (fld w 7 5) (fld w 2 2) (fld w 0 2))
  | 0x1A => res0 w 0x0000007C (.vdq (fld w 22 3) (fld w 17 5) (fld w 12 5) (fld w 7 5) (fld w 0 2))
  | 0x1B => res0 w 0x00000FF8 (.vred (fld w 22 3) (fld w 17 5) (fld w 12 5) (fld w 0 3))
  | 0x1C => res0 w 0x0000007E (.vshuf (fld w 22 3) (fld w 17 5) (fld w 12 5) (fld w 7 5) (fld w 0 1))
  | 0x1D => res0 w 0x0000007F (.vsel (fld w 22 3) (fld w 17 5) (fld w 12 5) (fld w 7 5))
  | 0x1E => res0 w 0x00000070 (.vcmp (fld w 22 3) (fld w 17 5) (fld w 12 5) (fld w 7 5) (fld w 3 1) (fld w 0 3))
  | 0x1F => res0 w 0x00010000 (.vimm (fld w 22 3) (fld w 17 5) (fld w 0 16))
  | 0x20 => res0 w 0x003E0FFF (.vmpush (fld w 22 3) (fld w 12 5))
  | 0x21 => res0 w 0x003FFFFF (.vminv (fld w 22 3))
  | 0x22 => res0 w 0x003FFFFF (.vmpop (fld w 22 3))
  | 0x23 => res0 w 0x00000000 (.vbmz (fld w 22 3) (fld w 0 22))
  | 0x24 => res0 w 0x0000007E (.vget (fld w 22 3) (fld w 17 5) (fld w 12 5) (fld w 7 5) (fld w 0 1))
  | 0x25 => res0 w 0x0000007F (.vput (fld w 22 3) (fld w 17 5) (fld w 12 5) (fld w 7 5))
  | 0x26 => res0 w 0x00000FFE (.vscan (fld w 22 3) (fld w 17 5) (fld w 12 5) (fld w 0 1))
  | 0x27 => res0 w 0x003FFF80 (.vcfg (fld w 22 3) (fld w 6 1) (fld w 4 2) (fld w 0 4))
  | op => .error (.unassigned op)

/-- The same by the opcode field of the word. -/
def decodeVe (w : Word) : Except DecodeReject Instr := opVe w (fld w 25 6).toNat

/-- A private word of the VL half (R212): op6 in bits 30:25 (R64). -/
def opVl (w : Word) (op : Nat) : Except DecodeReject Instr :=
  match op with
  | 0x00 => res0 w 0x00000000 (.vld (fld w 22 3) (fld w 18 4) (fld w 13 5) (fld w 0 13))
  | 0x01 => res0 w 0x00000000 (.vldh (fld w 22 3) (fld w 18 4) (fld w 13 5) (fld w 8 5) (fld w 6 2) (fld w 0 6))
  | 0x02 => res0 w 0x00000000 (.vst (fld w 22 3) (fld w 18 4) (fld w 13 5) (fld w 0 13))
  | 0x03 => res0 w 0x00000000 (.vsth (fld w 22 3) (fld w 18 4) (fld w 13 5) (fld w 8 5) (fld w 6 2) (fld w 0 6))
  | 0x04 => res0 w 0x000007FF (.vgth (fld w 22 3) (fld w 18 4) (fld w 13 5) (fld w 11 2))
  | 0x05 => res0 w 0x000007FF (.vsct (fld w 22 3) (fld w 18 4) (fld w 13 5) (fld w 11 2))
  | 0x06 => res0 w 0x000000FE (.vldt (fld w 22 3) (fld w 18 4) (fld w 13 5) (fld w 8 5) (fld w 0 1))
  | 0x07 => res0 w 0x003FFFFF (.vqsync (fld w 22 3))
  | op => .error (.unassigned op)

/-- The same by the opcode field of the word. -/
def decodeVl (w : Word) : Except DecodeReject Instr := opVl w (fld w 25 6).toNat

/-- A private word of the CX half (R225): op6 in bits 30:25 (R64). -/
def opCx (w : Word) (op : Nat) : Except DecodeReject Instr :=
  match op with
  | 0x00 => res0 w 0x00000000 (.cpy (fld w 22 3) (fld w 20 2) (fld w 16 4) (fld w 11 5) (fld w 9 2) (fld w 5 4) (fld w 0 5))
  | 0x01 => res0 w 0x00000000 (.cpy3 (fld w 22 3) (fld w 20 2) (fld w 16 4) (fld w 11 5) (fld w 9 2) (fld w 5 4) (fld w 0 5))
  | 0x02 => res0 w 0x0001FFFF (.cpyenc (fld w 22 3) (fld w 17 5))
  | 0x03 => res0 w 0x000007E0 (.cfill (fld w 22 3) (fld w 20 2) (fld w 16 4) (fld w 11 5) (fld w 0 5))
  | 0x04 => res0 w 0x003F0000 (.crmt (fld w 22 3) (fld w 11 5) (fld w 9 2) (fld w 5 4) (fld w 0 5))
  | 0x05 => res0 w 0x000000FF (.cfetch (fld w 22 3) (fld w 18 4) (fld w 13 5) (fld w 8 5))
  | 0x06 => res0 w 0x000000FE (.cevict (fld w 22 3) (fld w 18 4) (fld w 13 5) (fld w 8 5) (fld w 0 1))
  | op => .error (.unassigned op)

/-- The same by the opcode field of the word. -/
def decodeCx (w : Word) : Except DecodeReject Instr := opCx w (fld w 25 6).toNat

/-- A private word of the NX half (R236): op6 in bits 30:25 (R64). -/
def opNx (w : Word) (op : Nat) : Except DecodeReject Instr :=
  match op with
  | 0x00 => res0 w 0x000000FE (.nsend (fld w 22 3) (fld w 18 4) (fld w 13 5) (fld w 8 5) (fld w 0 1))
  | 0x01 => res0 w 0x00000006 (.nrecv (fld w 22 3) (fld w 18 4) (fld w 13 5) (fld w 8 5) (fld w 3 5) (fld w 0 1))
  | 0x02 => res0 w 0x00000006 (.nmatch (fld w 22 3) (fld w 18 4) (fld w 13 5) (fld w 8 5) (fld w 3 5) (fld w 0 1))
  | 0x03 => res0 w 0x000000E0 (.nred (fld w 22 3) (fld w 18 4) (fld w 13 5) (fld w 8 5) (fld w 4 1) (fld w 0 4))
  | 0x04 => res0 w 0x003FFFFF (.nbar (fld w 22 3))
  | 0x05 => res0 w 0x00000FFF (.nroute (fld w 22 3) (fld w 17 5) (fld w 12 5))
  | 0x06 => res0 w 0x0001FFFF (.npend (fld w 22 3) (fld w 17 5))
  | op => .error (.unassigned op)

/-- The same by the opcode field of the word. -/
def decodeNx (w : Word) : Except DecodeReject Instr := opNx w (fld w 25 6).toNat

/-- A private word of the TE half (R245): op6 in bits 30:25 (R64). -/
def opTe (w : Word) (op : Nat) : Except DecodeReject Instr :=
  match op with
  | 0x00 => res0 w 0x01C0000F (.tenc (fld w 18 4) (fld w 13 5) (fld w 9 4) (fld w 4 5))
  | 0x01 => res0 w 0x01C0000F (.tdec (fld w 18 4) (fld w 13 5) (fld w 9 4) (fld w 4 5))
  | 0x02 => res0 w 0x01C1FFFC (.tstat (fld w 17 5) (fld w 0 2))
  | op => .error (.unassigned op)

/-- The same by the opcode field of the word. -/
def decodeTe (w : Word) : Except DecodeReject Instr := opTe w (fld w 25 6).toNat

/-- A private word of the LC half (R255): op6 in bits 30:25 (R64). -/
def opLc (w : Word) (op : Nat) : Except DecodeReject Instr :=
  match op with
  | 0x00 => res0 w 0x01FE007F (.jpost (fld w 12 5) (fld w 7 5))
  | 0x01 => res0 w 0x01C000FF (.jprep (fld w 18 4) (fld w 13 5) (fld w 8 5))
  | 0x02 => res0 w 0x01C01F07 (.sxfer (fld w 18 4) (fld w 13 5) (fld w 3 5))
  | 0x03 => res0 w 0x01C0007F (.krun (fld w 17 5) (fld w 12 5) (fld w 7 5))
  | 0x04 => res0 w 0x01C00FFF (.sbwait (fld w 17 5) (fld w 12 5))
  | 0x05 => res0 w 0x01FE0FFF (.rpush (fld w 12 5))
  | 0x06 => res0 w 0x01C1FFFF (.rpop (fld w 17 5))
  | 0x07 => res0 w 0x01C01FE0 (.ovly (fld w 18 4) (fld w 13 5) (fld w 0 5))
  | 0x08 => res0 w 0x01C000FF (.codset (fld w 18 4) (fld w 13 5) (fld w 8 5))
  | 0x09 => res0 w 0x01C00FFF (.cmm (fld w 17 5) (fld w 12 5))
  | 0x0A => res0 w 0x01C00FFF (.cdwait (fld w 17 5) (fld w 12 5))
  | 0x0B => res0 w 0x01C01F07 (.watch (fld w 18 4) (fld w 13 5) (fld w 3 5))
  | 0x0C => res0 w 0x01FE0FFF (.unwatch (fld w 12 5))
  | 0x0D => res0 w 0x01C01F07 (.lxset (fld w 18 4) (fld w 13 5) (fld w 3 5))
  | 0x0E => res0 w 0x01C000FF (.layset (fld w 18 4) (fld w 13 5) (fld w 8 5))
  | 0x0F => res0 w 0x01C0007F (.ptoken (fld w 17 5) (fld w 12 5) (fld w 7 5))
  | op => .error (.unassigned op)

/-- The same by the opcode field of the word. -/
def decodeLc (w : Word) : Except DecodeReject Instr := opLc w (fld w 25 6).toNat

/-- A private word, decoded in the half of the executing engine (R56, R64). -/
def decodePrivate (h : Half) (w : Word) : Except DecodeReject Instr :=
  match h with
  | .cx => decodeCx w
  | .vl => decodeVl w
  | .ve => decodeVe w
  | .mx => decodeMx w
  | .nx => decodeNx w
  | .te => decodeTe w
  | .lc => decodeLc w

/-- The instruction that a word stands for in a half (R56): bit 31 tells the shared subset from the private
half of the engine whose instruction memory holds the word. -/
def decode (h : Half) (w : Word) : Except DecodeReject Instr :=
  if w.getLsbD 31 then decodePrivate h w else decodeShared w

/-- What a fetched word is (R60 to R62, R67): the all-zero word raises RUNOFF, a word of opcode 0x7F is a
prefix, any other is decoded. -/
inductive FetchWord where
  | zero
  | pfx (tmr : Bool) (kind : BitVec 3) (payload : BitVec 20)
  | instr (i : Instr)
  | bad (r : DecodeReject)
  deriving DecidableEq, Repr

/-- R60, R62, R67 (see FetchWord); a word whose fields break a limit raises ILLEGAL as an unassigned one does. -/
def classify (h : Half) (w : Word) : FetchWord :=
  if w = 0 then .zero
  else if (fld w 24 8).toNat = 0x7F then .pfx (w.getLsbD 23) (fld w 20 3) (fld w 0 20)
  else match decode h w with
    | .ok i => if wellFormed i then .instr i else .bad (.illFormed w)
    | .error r => .bad r

/-- The instruction that the decoder reads from the bits of an opcode-table row. The halves share their bit
patterns (R56), so the first half that assigns the word answers, in the order TE, LC, NX, VE, CX, MX, VL
(log entry 24). -/
def decodeTableWord (nbits w : Nat) : Option Instr :=
  if nbits = 32 ∧ w < 2 ^ 32 then
    let x : Word := BitVec.ofNat 32 w
    let try1 := fun (h : Half) (o : Option Instr) =>
      match o with
      | some i => some i
      | none => match decode h x with
        | .ok i => some i
        | .error _ => none
    if x = 0 then none
    else try1 .vl (try1 .mx (try1 .cx (try1 .ve (try1 .nx (try1 .lc (try1 .te none))))))
  else none

/-- A field's contribution to the word: its value at bit `lo`. -/
def sh {n : Nat} (x : BitVec n) (lo : Nat) : Nat := x.toNat * 2 ^ lo

/-- The word with the opcode bits `base` and the fields given. -/
def enc (base : Nat) (fs : List Nat) : Option Word := some (BitVec.ofNat 32 (base + fs.sum))

/-- The word of an instruction, written from the encoding tables; `none` for a row that has no word. -/
def encode : Instr → Option Word
  | .add d a b => enc 0x01000000 [sh d 19, sh a 14, sh b 9]
  | .sub d a b => enc 0x02000000 [sh d 19, sh a 14, sh b 9]
  | .mul d a b => enc 0x03000000 [sh d 19, sh a 14, sh b 9]
  | .mulh d a b => enc 0x04000000 [sh d 19, sh a 14, sh b 9]
  | .mulhu d a b => enc 0x05000000 [sh d 19, sh a 14, sh b 9]
  | .div d a b => enc 0x06000000 [sh d 19, sh a 14, sh b 9]
  | .divu d a b => enc 0x07000000 [sh d 19, sh a 14, sh b 9]
  | .rem d a b => enc 0x08000000 [sh d 19, sh a 14, sh b 9]
  | .remu d a b => enc 0x09000000 [sh d 19, sh a 14, sh b 9]
  | .and d a b => enc 0x0A000000 [sh d 19, sh a 14, sh b 9]
  | .or d a b => enc 0x0B000000 [sh d 19, sh a 14, sh b 9]
  | .xor d a b => enc 0x0C000000 [sh d 19, sh a 14, sh b 9]
  | .andn d a b => enc 0x0D000000 [sh d 19, sh a 14, sh b 9]
  | .shl d a b => enc 0x0E000000 [sh d 19, sh a 14, sh b 9]
  | .shr d a b => enc 0x0F000000 [sh d 19, sh a 14, sh b 9]
  | .sra d a b => enc 0x10000000 [sh d 19, sh a 14, sh b 9]
  | .rol d a b => enc 0x11000000 [sh d 19, sh a 14, sh b 9]
  | .slt d a b => enc 0x12000000 [sh d 19, sh a 14, sh b 9]
  | .sltu d a b => enc 0x13000000 [sh d 19, sh a 14, sh b 9]
  | .seq d a b => enc 0x14000000 [sh d 19, sh a 14, sh b 9]
  | .min d a b => enc 0x15000000 [sh d 19, sh a 14, sh b 9]
  | .max d a b => enc 0x16000000 [sh d 19, sh a 14, sh b 9]
  | .minu d a b => enc 0x17000000 [sh d 19, sh a 14, sh b 9]
  | .maxu d a b => enc 0x18000000 [sh d 19, sh a 14, sh b 9]
  | .clz d a => enc 0x19000000 [sh d 19, sh a 14]
  | .popc d a => enc 0x1A000000 [sh d 19, sh a 14]
  | .idx d a b s => enc 0x1B000000 [sh d 19, sh a 14, sh b 9, sh s 0]
  | .extu d a b w => enc 0x1C000000 [sh d 19, sh a 14, sh b 9, sh w 0]
  | .sext d a n => enc 0x1D000000 [sh d 19, sh a 14, sh n 0]
  | .cmovnz d a b => enc 0x1E000000 [sh d 19, sh a 14, sh b 9]
  | .addi d a i => enc 0x20000000 [sh d 19, sh a 14, sh i 0]
  | .andi d a i => enc 0x21000000 [sh d 19, sh a 14, sh i 0]
  | .ori d a i => enc 0x22000000 [sh d 19, sh a 14, sh i 0]
  | .xori d a i => enc 0x23000000 [sh d 19, sh a 14, sh i 0]
  | .shli d a n => enc 0x24000000 [sh d 19, sh a 14, sh n 0]
  | .shri d a n => enc 0x25000000 [sh d 19, sh a 14, sh n 0]
  | .srai d a n => enc 0x26000000 [sh d 19, sh a 14, sh n 0]
  | .slti d a i => enc 0x27000000 [sh d 19, sh a 14, sh i 0]
  | .sltiu d a i => enc 0x28000000 [sh d 19, sh a 14, sh i 0]
  | .muli d a i => enc 0x29000000 [sh d 19, sh a 14, sh i 0]
  | .li d i => enc 0x2A000000 [sh d 19, sh i 0]
  | .lui d i => enc 0x2B000000 [sh d 19, sh i 0]
  | .auipc d i => enc 0x2C000000 [sh d 19, sh i 0]
  | .beq a b o => enc 0x30000000 [sh a 19, sh b 14, sh o 0]
  | .bne a b o => enc 0x31000000 [sh a 19, sh b 14, sh o 0]
  | .blt a b o => enc 0x32000000 [sh a 19, sh b 14, sh o 0]
  | .bge a b o => enc 0x33000000 [sh a 19, sh b 14, sh o 0]
  | .bltu a b o => enc 0x34000000 [sh a 19, sh b 14, sh o 0]
  | .bgeu a b o => enc 0x35000000 [sh a 19, sh b 14, sh o 0]
  | .j o => enc 0x38000000 [sh o 0]
  | .call o => enc 0x39000000 [sh o 0]
  | .jr d a => enc 0x3A000000 [sh d 19, sh a 14]
  | .loop l a e => enc 0x3C000000 [sh l 22, sh a 17, sh e 0]
  | .loopi l c e => enc 0x3D000000 [sh l 22, sh c 10, sh e 0]
  | .leave l s m => enc 0x3E000000 [sh l 22, sh s 21, sh m 16]
  | .tkwait d c e => enc 0x40000000 [sh d 19, sh c 3, sh e 0]
  | .tksig c e => enc 0x41000000 [sh c 3, sh e 0]
  | .rdv n => enc 0x42000000 [sh n 0]
  | .gfence n => enc 0x43000000 [sh n 0]
  | .swpt n => enc 0x44000000 [sh n 0]
  | .ppoint m => enc 0x45000000 [sh m 0]
  | .trap c => enc 0x48000000 [sh c 0]
  | .eret => enc 0x49000000 []
  | .mfs d i => enc 0x4A000000 [sh d 19, sh i 0]
  | .mts a i => enc 0x4B000000 [sh a 14, sh i 0]
  | .cyc d => enc 0x4C000000 [sh d 19]
  | .halt => enc 0x4D000000 []
  | .nop => enc 0x4E000000 []
  | .trans h a => enc 0x50000000 [sh h 15, sh a 10]
  | .hrel h => enc 0x51000000 [sh h 15]
  | .hchk d h => enc 0x52000000 [sh d 19, sh h 15]
  | .ld d h a z o => enc 0x53000000 [sh d 19, sh h 15, sh a 10, sh z 8, sh o 0]
  | .st s h a z o => enc 0x54000000 [sh s 19, sh h 15, sh a 10, sh z 8, sh o 0]
  | .lda d h a z o => enc 0x55000000 [sh d 19, sh h 15, sh a 10, sh z 8, sh o 0]
  | .stl s h a z o => enc 0x56000000 [sh s 19, sh h 15, sh a 10, sh z 8, sh o 0]
  | .ldro d h a z o => enc 0x57000000 [sh d 19, sh h 15, sh a 10, sh z 8, sh o 0]
  | .ldlk d h a z o => enc 0x58000000 [sh d 19, sh h 15, sh a 10, sh z 8, sh o 0]
  | .lockGrant _ _ _ => none
  | .stul s h a z o => enc 0x59000000 [sh s 19, sh h 15, sh a 10, sh z 8, sh o 0]
  | .amo d h a b p z => enc 0x5A000000 [sh d 19, sh h 15, sh a 10, sh b 5, sh p 2, sh z 0]
  | .lookup d a => enc 0x5B000000 [sh d 19, sh a 14]
  | .tagset a b => enc 0x5C000000 [sh a 14, sh b 9]
  | .tagclr a => enc 0x5D000000 [sh a 14]
  | .drain p => enc 0x5E000000 [sh p 0]
  | .fence h p => enc 0x5F000000 [sh h 15, sh p 2]
  | .ljoin h a b z => enc 0x60000000 [sh h 15, sh a 10, sh b 5, sh z 0]
  | .lwait d h a b z => enc 0x61000000 [sh d 19, sh h 15, sh a 10, sh b 5, sh z 0]
  | .lwaitTimeout _ => none
  | .winfo d f => enc 0x62000000 [sh d 19, sh f 0]
  | .trd d h a b => enc 0x63000000 [sh d 19, sh h 15, sh a 10, sh b 5]
  | .mma tk a b c s f => enc 0x80000000 [sh tk 22, sh a 18, sh b 14, sh c 13, sh s 2, sh f 0]
  | .mmas tk a b c s f => enc 0x82000000 [sh tk 22, sh a 18, sh b 14, sh c 13, sh s 2, sh f 0]
  | .mzero tk c s m => enc 0x84000000 [sh tk 22, sh c 13, sh s 2, sh m 0]
  | .mpi tk a t u => enc 0x86000000 [sh tk 22, sh a 17, sh t 13, sh u 9]
  | .mrnd tk t c s r => enc 0x88000000 [sh tk 22, sh t 18, sh c 13, sh s 2, sh r 0]
  | .mnorm tk c s => enc 0x8A000000 [sh tk 22, sh c 13, sh s 2]
  | .msave tk a c s => enc 0x8C000000 [sh tk 22, sh a 17, sh c 13, sh s 2]
  | .mload tk a c s => enc 0x8E000000 [sh tk 22, sh a 17, sh c 13, sh s 2]
  | .mtd tk t a b => enc 0x90000000 [sh tk 22, sh t 18, sh a 13, sh b 8]
  | .mstb tk a f => enc 0x92000000 [sh tk 22, sh a 17, sh f 0]
  | .mtbl tk a s => enc 0x94000000 [sh tk 22, sh a 17, sh s 2]
  | .mxpt tk t g c s => enc 0x96000000 [sh tk 22, sh t 18, sh g 14, sh c 13, sh s 2]
  | .mxOccupancyEnd _ => none
  | .vadd tk d a b u s => enc 0x80000000 [sh tk 22, sh d 17, sh a 12, sh b 7, sh u 1, sh s 0]
  | .vsub tk d a b u s => enc 0x82000000 [sh tk 22, sh d 17, sh a 12, sh b 7, sh u 1, sh s 0]
  | .vmul tk d a b h u s => enc 0x84000000 [sh tk 22, sh d 17, sh a 12, sh b 7, sh h 2, sh u 1, sh s 0]
  | .vmad tk d a b u s => enc 0x86000000 [sh tk 22, sh d 17, sh a 12, sh b 7, sh u 1, sh s 0]
  | .vmin tk d a b u => enc 0x88000000 [sh tk 22, sh d 17, sh a 12, sh b 7, sh u 1]
  | .vmax tk d a b u => enc 0x8A000000 [sh tk 22, sh d 17, sh a 12, sh b 7, sh u 1]
  | .vand tk d a b => enc 0x8C000000 [sh tk 22, sh d 17, sh a 12, sh b 7]
  | .vor tk d a b => enc 0x8E000000 [sh tk 22, sh d 17, sh a 12, sh b 7]
  | .vxor tk d a b => enc 0x90000000 [sh tk 22, sh d 17, sh a 12, sh b 7]
  | .vshl tk d a b i n => enc 0x92000000 [sh tk 22, sh d 17, sh a 12, sh b 7, sh i 6, sh n 0]
  | .vshr tk d a b i u n => enc 0x94000000 [sh tk 22, sh d 17, sh a 12, sh b 7, sh i 6, sh u 5, sh n 0]
  | .vabs tk d a s => enc 0x96000000 [sh tk 22, sh d 17, sh a 12, sh s 0]
  | .vfadd tk d a b => enc 0xA0000000 [sh tk 22, sh d 17, sh a 12, sh b 7]
  | .vfsub tk d a b => enc 0xA2000000 [sh tk 22, sh d 17, sh a 12, sh b 7]
  | .vfmul tk d a b => enc 0xA4000000 [sh tk 22, sh d 17, sh a 12, sh b 7]
  | .vfma tk d a b na n => enc 0xA6000000 [sh tk 22, sh d 17, sh a 12, sh b 7, sh na 1, sh n 0]
  | .vfmax tk d a b => enc 0xA8000000 [sh tk 22, sh d 17, sh a 12, sh b 7]
  | .vfmin tk d a b => enc 0xAA000000 [sh tk 22, sh d 17, sh a 12, sh b 7]
  | .vsfn tk d a f => enc 0xAC000000 [sh tk 22, sh d 17, sh a 12, sh f 0]
  | .vcvt tk d a p s => enc 0xB0000000 [sh tk 22, sh d 17, sh a 12, sh p 4, sh s 0]
  | .vqnt tk d a b m p => enc 0xB2000000 [sh tk 22, sh d 17, sh a 12, sh b 7, sh m 2, sh p 0]
  | .vdq tk d a b p => enc 0xB4000000 [sh tk 22, sh d 17, sh a 12, sh b 7, sh p 0]
  | .vred tk d a o => enc 0xB6000000 [sh tk 22, sh d 17, sh a 12, sh o 0]
  | .vshuf tk d a b z => enc 0xB8000000 [sh tk 22, sh d 17, sh a 12, sh b 7, sh z 0]
  | .vsel tk d a b => enc 0xBA000000 [sh tk 22, sh d 17, sh a 12, sh b 7]
  | .vcmp tk d a b u c => enc 0xBC000000 [sh tk 22, sh d 17, sh a 12, sh b 7, sh u 3, sh c 0]
  | .vimm tk d i => enc 0xBE000000 [sh tk 22, sh d 17, sh i 0]
  | .vmpush tk a => enc 0xC0000000 [sh tk 22, sh a 12]
  | .vminv tk => enc 0xC2000000 [sh tk 22]
  | .vmpop tk => enc 0xC4000000 [sh tk 22]
  | .vbmz tk o => enc 0xC6000000 [sh tk 22, sh o 0]
  | .vget tk d a b s => enc 0xC8000000 [sh tk 22, sh d 17, sh a 12, sh b 7, sh s 0]
  | .vput tk d a b => enc 0xCA000000 [sh tk 22, sh d 17, sh a 12, sh b 7]
  | .vscan tk d a x => enc 0xCC000000 [sh tk 22, sh d 17, sh a 12, sh x 0]
  | .vcfg tk c r t => enc 0xCE000000 [sh tk 22, sh c 6, sh r 4, sh t 0]
  | .vld tk h a o => enc 0x80000000 [sh tk 22, sh h 18, sh a 13, sh o 0]
  | .vldh tk h a b e c => enc 0x82000000 [sh tk 22, sh h 18, sh a 13, sh b 8, sh e 6, sh c 0]
  | .vst tk h a o => enc 0x84000000 [sh tk 22, sh h 18, sh a 13, sh o 0]
  | .vsth tk h a b e c => enc 0x86000000 [sh tk 22, sh h 18, sh a 13, sh b 8, sh e 6, sh c 0]
  | .vgth tk h a e => enc 0x88000000 [sh tk 22, sh h 18, sh a 13, sh e 11]
  | .vsct tk h a e => enc 0x8A000000 [sh tk 22, sh h 18, sh a 13, sh e 11]
  | .vldt tk h a b s => enc 0x8C000000 [sh tk 22, sh h 18, sh a 13, sh b 8, sh s 0]
  | .vqsync tk => enc 0x8E000000 [sh tk 22]
  | .vlLoadFill _ _ => none
  | .vlStorePerform _ => none
  | .cpy tk p h a q j b => enc 0x80000000 [sh tk 22, sh p 20, sh h 16, sh a 11, sh q 9, sh j 5, sh b 0]
  | .cpy3 tk p h a q j b => enc 0x82000000 [sh tk 22, sh p 20, sh h 16, sh a 11, sh q 9, sh j 5, sh b 0]
  | .cpyenc tk a => enc 0x84000000 [sh tk 22, sh a 17]
  | .cfill tk p h a b => enc 0x86000000 [sh tk 22, sh p 20, sh h 16, sh a 11, sh b 0]
  | .crmt tk a q j b => enc 0x88000000 [sh tk 22, sh a 11, sh q 9, sh j 5, sh b 0]
  | .cfetch tk h a b => enc 0x8A000000 [sh tk 22, sh h 18, sh a 13, sh b 8]
  | .cevict tk h a b keep => enc 0x8C000000 [sh tk 22, sh h 18, sh a 13, sh b 8, sh keep 0]
  | .cxCommandFinish _ => none
  | .nsend tk h a b s => enc 0x80000000 [sh tk 22, sh h 18, sh a 13, sh b 8, sh s 0]
  | .nrecv tk h a b d s => enc 0x82000000 [sh tk 22, sh h 18, sh a 13, sh b 8, sh d 3, sh s 0]
  | .nmatch tk h a b c s => enc 0x84000000 [sh tk 22, sh h 18, sh a 13, sh b 8, sh c 3, sh s 0]
  | .nred tk h a b s o => enc 0x86000000 [sh tk 22, sh h 18, sh a 13, sh b 8, sh s 4, sh o 0]
  | .nbar tk => enc 0x88000000 [sh tk 22]
  | .nbarRelease _ => none
  | .nroute tk d a => enc 0x8A000000 [sh tk 22, sh d 17, sh a 12]
  | .nrouteFillJoin _ => none
  | .npend tk d => enc 0x8C000000 [sh tk 22, sh d 17]
  | .nxHeaderArrival _ _ => none
  | .nxHeaderRetry _ _ => none
  | .nxDelivery _ _ => none
  | .nsendAck _ _ => none
  | .tenc h a j b => enc 0x80000000 [sh h 18, sh a 13, sh j 9, sh b 4]
  | .tdec h a j b => enc 0x82000000 [sh h 18, sh a 13, sh j 9, sh b 4]
  | .tstat d f => enc 0x84000000 [sh d 17, sh f 0]
  | .jpost a b => enc 0x80000000 [sh a 12, sh b 7]
  | .jprep h a b => enc 0x82000000 [sh h 18, sh a 13, sh b 8]
  | .sxfer h a d => enc 0x84000000 [sh h 18, sh a 13, sh d 3]
  | .krun d a b => enc 0x86000000 [sh d 17, sh a 12, sh b 7]
  | .sbwait d a => enc 0x88000000 [sh d 17, sh a 12]
  | .rpush a => enc 0x8A000000 [sh a 12]
  | .rpop d => enc 0x8C000000 [sh d 17]
  | .ovly h a m => enc 0x8E000000 [sh h 18, sh a 13, sh m 0]
  | .codset h a b => enc 0x90000000 [sh h 18, sh a 13, sh b 8]
  | .cmm d a => enc 0x92000000 [sh d 17, sh a 12]
  | .cdwait d a => enc 0x94000000 [sh d 17, sh a 12]
  | .watch h a d => enc 0x96000000 [sh h 18, sh a 13, sh d 3]
  | .unwatch a => enc 0x98000000 [sh a 12]
  | .lxset h a d => enc 0x9A000000 [sh h 18, sh a 13, sh d 3]
  | .layset h a b => enc 0x9C000000 [sh h 18, sh a 13, sh b 8]
  | .ptoken d a b => enc 0x9E000000 [sh d 17, sh a 12, sh b 7]
  | .jqpush _ _ => none
  | .done _ _ => none
  | .faultq _ => none
  | .resumeRetry _ => none
  | .resumeHandler _ => none
  | .abort _ => none
  | .inval _ => none
  | .invalidationComplete _ => none
  | .migcmdStart _ => none
  | .migcmdEnd _ => none
  | .migrationSectorCopy _ => none
  | .bncq _ => none
  | .bncdone _ => none
  | .bounceDelivery _ => none
  | .hostirq _ => none
  | .registerWrite _ _ _ => none
  | .walkComplete _ _ => none
  | .walkLockRetry _ _ => none
  | .streamTransferFinish _ _ => none
  | .cardReady _ _ => none
  | .queueIssue _ => none
  | .jobStart _ => none
  | .jobComplete _ _ => none
  | .completionEntryAppend _ => none
  | .rdvRelease _ _ => none
  | .switchPointRelease _ => none
  | .ppcReallotment _ => none
  | .permitBoundary _ => none
  | .permitRefill _ => none
  | .forcedDrop _ => none
  | .forcedDropLevelTake _ => none
  | .profileSample _ _ => none
  | .purseEarn => none
  | .preemptionDecision _ => none
  | .cutStopPointsReached _ => none
  | .cutSave _ => none
  | .kernelWithdrawal _ _ => none
  | .deadlineMissReport _ => none
  | .reportedCauseDelivery _ _ => none
  | .holdNoticePost _ => none
  | .watchTrigger => none
  | .rateWindowStart => none
  | .exchangeRoundStart => none
  | .exchangeLineJoin _ => none
  | .outerExchangeRound _ => none
  | .codedPost _ _ => none
  | .tileDecision _ _ => none
  | .tileDecode _ => none
  | .operatorEnd _ => none
  | .operatorDeadline _ => none
  | .seamFlitReceive _ _ => none
  | .seamReplay _ => none
  | .hbmTransferRetry _ _ _ _ _ => none
  | .hbmWriteReattempt _ _ _ => none
  | .laneSwap _ _ _ => none
  | .laneSwapResume _ _ => none
  | .scrubVisit _ _ => none
  | .ppsEdge => none
  | .ptptod _ _ => none
  | .thermalSample _ => none
  | .powerOn _ => none
  | .restart _ => none
  | .cfgwr _ => none
  | .cfgstat _ => none
  | .programLoad _ _ _ => none
  | .contextLoad _ _ _ _ => none
  | .hostCardWindowWrite _ _ => none
  | .hostApertureRead _ _ => none
  | .hostApertureWrite _ _ => none
  | .hostAtomicFetchadd _ _ _ => none
  | .hostAtomicSwap _ _ _ => none
  | .hostAtomicCas _ _ _ _ => none
  | .writePerformed _ => none
  | .flitBoundaryArbitration _ _ _ => none
  | .presentPackagesChange _ => none
  | .teStreamStart _ _ _ => none

/-- The half in which a word row is decoded; a shared word is decoded alike in every half, and the CX half
stands for it here. -/
def halfOf : Instr → Half
  | .jpost .. => .lc
  | .jprep .. => .lc
  | .sxfer .. => .lc
  | .krun .. => .lc
  | .sbwait .. => .lc
  | .rpush .. => .lc
  | .rpop .. => .lc
  | .ovly .. => .lc
  | .codset .. => .lc
  | .cmm .. => .lc
  | .cdwait .. => .lc
  | .watch .. => .lc
  | .unwatch .. => .lc
  | .lxset .. => .lc
  | .layset .. => .lc
  | .ptoken .. => .lc
  | .mma .. => .mx
  | .mmas .. => .mx
  | .mzero .. => .mx
  | .mpi .. => .mx
  | .mrnd .. => .mx
  | .mnorm .. => .mx
  | .msave .. => .mx
  | .mload .. => .mx
  | .mtd .. => .mx
  | .mstb .. => .mx
  | .mtbl .. => .mx
  | .mxpt .. => .mx
  | .vadd .. => .ve
  | .vsub .. => .ve
  | .vmul .. => .ve
  | .vmad .. => .ve
  | .vmin .. => .ve
  | .vmax .. => .ve
  | .vand .. => .ve
  | .vor .. => .ve
  | .vxor .. => .ve
  | .vshl .. => .ve
  | .vshr .. => .ve
  | .vabs .. => .ve
  | .vfadd .. => .ve
  | .vfsub .. => .ve
  | .vfmul .. => .ve
  | .vfma .. => .ve
  | .vfmax .. => .ve
  | .vfmin .. => .ve
  | .vsfn .. => .ve
  | .vcvt .. => .ve
  | .vqnt .. => .ve
  | .vdq .. => .ve
  | .vred .. => .ve
  | .vshuf .. => .ve
  | .vsel .. => .ve
  | .vcmp .. => .ve
  | .vimm .. => .ve
  | .vmpush .. => .ve
  | .vminv .. => .ve
  | .vmpop .. => .ve
  | .vbmz .. => .ve
  | .vget .. => .ve
  | .vput .. => .ve
  | .vscan .. => .ve
  | .vcfg .. => .ve
  | .vld .. => .vl
  | .vldh .. => .vl
  | .vst .. => .vl
  | .vsth .. => .vl
  | .vgth .. => .vl
  | .vsct .. => .vl
  | .vldt .. => .vl
  | .vqsync .. => .vl
  | .nsend .. => .nx
  | .nrecv .. => .nx
  | .nmatch .. => .nx
  | .nred .. => .nx
  | .nbar .. => .nx
  | .nroute .. => .nx
  | .npend .. => .nx
  | .tenc .. => .te
  | .tdec .. => .te
  | .tstat .. => .te
  | _ => .cx

end Sys2Proof
end

