-- ==== Sys2Proof/Config.lean ====
section
/-!
DEFINITION. What one device fixes and the free values: constants without a body, so that nothing in Lean can
evaluate them and a statement that holds, holds whatever they are. Each is applied to a counter that the state
holds (State.fresh) or to the seed it drew from it. The choices of order (which agent moves next) are `schedule`.
-/

namespace Sys2Proof

/-- What of a request differs from the lining core's (R273). -/
inductive LiningPart where
  | kind | address | data
  deriving DecidableEq, Repr, Inhabited

/-- Events of the physical world that no instruction and no row of the opcode table stands for. -/
inductive Upset where
  /-- symbols of the 32-byte codeword at a physical address of an HBM or LPDDR array go wrong (R449). -/
  | array (pa : Nat) (symbols : BitVec 32)
  /-- three or more symbols of a codeword go wrong so that it is taken for another, one symbol off (R449): its bytes read as these, and
  that symbol is found wrong. -/
  | miscorrect (pa : Nat) (bytes : List Byte) (symbol : BitVec 5)
  /-- bits of a 64-bit word of an SRAM go wrong (R452): a scratchpad's, or one that the model numbers in kind 3 (log entry 15). -/
  | sram (pa : Nat) (bits : BitVec 64)
  /-- the next triple-issued word of a unit meets an upset, in its outcomes or (`data`) in the data that a load returns: one
  copy differs, or all three do (R121, R122). -/
  | tmr (u : UnitId) (data split : Bool)
  /-- the next request of a context differs from its lining core's, in what EINFO names (R273). -/
  | lining (lc : Nat) (k : Ctx) (what : LiningPart)
  deriving DecidableEq, Repr, Inhabited

/-- What comes to the package from outside it, or happens in it at a time that no rule states, and has no row of the opcode table. -/
inductive Outside where
  /-- an agent of another package writes bytes through a page of a HASH and a scope, as a release or not (R131, R298, R407): at homes of any package
  of the domain. -/
  | write (pkg : Nat) (cells : List (Nat × Byte)) (hash scope : Nat) (release : Bool)
  /-- an agent of another package makes an AMO at a home of any package (R141, R244): operation, bytes, operand, expected value. -/
  | amo (pkg op n pa : Nat) (b e : DWord) (hash scope : Nat)
  /-- another package's CRMT joins cells of a lattice page at site 8 here (R232): the address of the first, its type. -/
  | join (pkg ltype pa scope : Nat) (bytes : List Byte)
  /-- the root of a control core of another package is set (R356). -/
  | farRoot (pkg lc : Nat) (root : DWord)
  /-- a layout record of another package is set (R365). -/
  | farLayout (pkg ix : Nat) (ws : List Word)
  /-- a core of another package is gated or ungated (R411). -/
  | farGate (pkg core : Nat) (gated : Bool)
  /-- a die of another package is mapped out, or not (R467). -/
  | farMapped (pkg die : Nat) (out : Bool)
  /-- the PPC gates a core (R309, R411). -/
  | gate (core : Nat)
  /-- the host reads the card-store window (R400). -/
  | windowRead (off len : Nat)
  /-- the board reads a sideband register (R472): offset, bytes. -/
  | sidebandRead (off len : Nat)
  /-- the MGC has written a configuration block to flash (R473). -/
  | flashWritten
  /-- a firmware image is placed in management flash (R468). -/
  | firmImage (lc : Nat) (words : List Word) (starts : List (Ctx × Nat × DWord))
  deriving DecidableEq, Repr, Inhabited

/-- What may happen next. -/
inductive Move where
  /-- a stream or context fetches and executes at its PC. -/
  | unit (u : UnitId)
  /-- a row of the opcode table that has no word happens. -/
  | event (i : Instr)
  /-- time advances by a tenth of a PCYC tick. -/
  | tick
  /-- the physical world disturbs a memory or a core. -/
  | upset (x : Upset)
  /-- something comes from outside the package. -/
  | outside (x : Outside)
  deriving DecidableEq, Repr, Inhabited

namespace Config

/-- Which move comes next where the state lists none (log entry 6). -/
opaque schedule : Nat → Move

/-- A 64-bit value that the spec leaves open (log entries 4, 5, 11, 14). -/
opaque freeWord : Nat → DWord

/-- A byte that the spec leaves open (log entries 5, 13). -/
opaque freeByte : Nat → Nat → Byte

/-- A choice between two outcomes that the spec allows (log entry 12). -/
opaque freeBool : Nat → Bool

/-- A vector register's undefined contents (R71, log entry 4): seed and register number. -/
opaque freeVec : Nat → Nat → VWord

/-- A tile descriptor's undefined contents (R72, log entry 4): seed and descriptor number. -/
opaque freeTile : Nat → Nat → BitVec 128

/-- W of an element whose exact sum does not fit its 576 bits (R39, log entry 25): the sum. -/
opaque wideAcc : Int → BitVec 576

/-- The undefined lowest-shift mark of an accumulator buffer (R158, log entry 4): seed and buffer. -/
opaque freeMark : Nat → Bool → Option Nat

/-- A register's undefined contents (R354, log entry 5): seed and register number. -/
opaque freeReg : Nat → Nat → DWord

/-- A special function whose value the interval arithmetic could not decide (R199): function code and operand. -/
opaque freeSfn : Nat → Nat → Nat

/-- A number the spec leaves open (log entries 14, 19). -/
opaque freeNat : Nat → Nat

/-- Which of its copies of an entry the walker uses at a time (R364, log entry 64): time and the entry's address. -/
opaque walkerCopy : Nat → Nat → Nat

/-- The VA by which a bounce record names a byte of a core's scratchpad (R344, log entry 29): the core and the offset. -/
opaque padVa : Nat → Nat → Nat

/-- Where a die's bounce buffer is mapped for the firmware's contexts (R317, R375, log entry 66): a VA, by the die. -/
opaque bounceVa : Nat → Nat

/-- The doublewords of the boot record's PARAMS (R469), whose format the spec does not state (log entry 17): saved swaps and training
parameters, and the place. -/
opaque paramsWord : List ((Nat × Nat) × List (Nat × Nat)) → List (Nat × DWord) → Nat → DWord

/-- The flit credits that a seam link holds of a VC once it is trained: the spec states no number (log entry 20). -/
opaque linkCredits : Nat → Nat

/-- Reset value of the port SAVEBASE, from management flash (R338, R470; log entry 17). -/
def saveBase : DWord := 0

/-- Reset value of the port SAVESLOTS (R338, R470; log entry 17): the least the port accepts. -/
def saveSlots : Nat := 54

/-- Reset value of the port ERRBASE (R459, R470; log entry 17). -/
def errBase : DWord := 0

/-- The package number that the factory image gives (R407, R470; log entry 17). -/
def pkgNo : Nat := 0

end Config
end Sys2Proof
end

