-- ==== Sys2Proof/Machine/Bits.lean ====
section
/-!
DEFINITION. Bit fields, sign extension and byte order (spec/00_scope.md R14 to R16,
spec/02_words_registers_assembly.md R83, R84).
-/

namespace Sys2Proof.Machine

/-- x<hi:lo> of a number (R15). -/
def bits (x hi lo : Nat) : Nat := x / 2 ^ lo % 2 ^ (hi + 1 - lo)

/-- x<n> of a number. -/
def bit (x n : Nat) : Bool := x / 2 ^ n % 2 == 1

/-- x<hi:lo> of a register, as a number. -/
def dbits (x : DWord) (hi lo : Nat) : Nat := bits x.toNat hi lo

/-- A number as a 64-bit register value (taken modulo 2^64). -/
def dw (n : Nat) : DWord := BitVec.ofNat 64 n

/-- An integer as a 64-bit register value (taken modulo 2^64). -/
def dwi (n : Int) : DWord := BitVec.ofInt 64 n

/-- Sext(x, n) of R84: bits n − 1 to 0 read as a two's-complement integer. -/
def sextInt (x n : Nat) : Int :=
  let y := x % 2 ^ n
  if n = 0 then 0 else if y < 2 ^ (n - 1) then (y : Int) else (y : Int) - (2 ^ n : Nat)

/-- The bits of an integer in n-bit two's complement. -/
def unsignedOf (x : Int) (n : Nat) : Nat := (x % (2 ^ n : Nat)).toNat

/-- A truth value as a number. -/
def b2n (b : Bool) : Nat := if b then 1 else 0

/-- ⌈a / b⌉. -/
def ceilDiv (a b : Nat) : Nat := if b = 0 then 0 else (a + b - 1) / b

/-- The number that bytes stand for, least significant first (R14). -/
def leNat : List Byte → Nat
  | [] => 0
  | b :: bs => b.toNat + 256 * leNat bs

/-- The n bytes of a number, least significant first (R14). -/
def leBytes : Nat → Nat → List Byte
  | 0, _ => []
  | n + 1, x => BitVec.ofNat 8 x :: leBytes n (x / 256)

/-- The i-th 32-bit word of a record's bytes. -/
def wordAt (bs : List Byte) (i : Nat) : Nat := leNat ((bs.drop (4 * i)).take 4)

/-- The 32-bit words of a record's bytes. -/
def wordsOf (bs : List Byte) (n : Nat) : List Word :=
  (List.range n).map fun i => BitVec.ofNat 32 (wordAt bs i)

/-- Word i of a list of words, 0 beyond its end. -/
def wd (ws : List Word) (i : Nat) : Nat := (ws.getD i 0).toNat

/-- Words i and i + 1 as one 64-bit number. -/
def wd2 (ws : List Word) (i : Nat) : Nat := wd ws i + 2 ^ 32 * wd ws (i + 1)

/-- How many bits below bit n are set. -/
def popcount : Nat → Nat → Nat
  | 0, _ => 0
  | n + 1, x => b2n (bit x n) + popcount n x

/-- The positions below n of the set bits, ascending. -/
def setBits (n x : Nat) : List Nat := (List.range n).filter (bit x)

/-- Whether two byte ranges meet. -/
def meets (a n b m : Nat) : Bool := decide (a < b + m) && decide (b < a + n)

/-- The position of the first element that satisfies p. -/
def findIdx {α : Type} (p : α → Bool) : List α → Option Nat
  | [] => none
  | x :: xs => if p x then some 0 else (findIdx p xs).map (· + 1)

/-- An element put before the first that does not come before it. -/
def insertBy {α : Type} (le : α → α → Bool) (x : α) : List α → List α
  | [] => [x]
  | y :: ys => if le x y then x :: y :: ys else y :: insertBy le x ys

/-- A list in ascending order, equals in their given order. -/
def sortBy {α : Type} (le : α → α → Bool) : List α → List α
  | [] => []
  | x :: xs => insertBy le x (sortBy le xs)

/-- The least of a list by a measure, the first of equals. -/
def minBy {α : Type} (f : α → Nat) : List α → Option α
  | [] => none
  | x :: xs => match minBy f xs with
    | none => some x
    | some y => if f x ≤ f y then some x else some y

/-- CRC-32 of IEEE 802.3, one byte: 8 steps of the reflected polynomial. -/
def crcByte : Nat → Nat → Nat
  | 0, c => c
  | n + 1, c => crcByte n (if c % 2 = 1 then (c / 2) ^^^ 0xEDB88320 else c / 2)

/-- CRC-32 of IEEE 802.3 (R405, R471). -/
def crc32 (bs : List Byte) : Nat :=
  (bs.foldl (fun c b => crcByte 8 (c ^^^ b.toNat)) 0xFFFFFFFF) ^^^ 0xFFFFFFFF

end Sys2Proof.Machine
end

