-- ==== Sys2Proof/Machine/State.lean ====
section
/-!
DEFINITION. The state of a BX960 package, as plain data: every piece of state the spec gives the machine
(INVENTORY.md lists each with its rule), the ways a step can stop, and State.reset.
Numbers that the spec counts (slots, indices, ticks) are Nat; registers and bytes are bit vectors.
Time is `now`, in tenths of a PCYC tick, so that the engine edges of R164 fall on whole numbers.
-/

namespace Sys2Proof.Machine

/-- A sparse table: absent keys have the value the reader names. Keys do not repeat (set replaces). -/
abbrev Tab (κ α : Type) := List (κ × α)

/-- Physical memory in its canonical form (see Ops.lean): addresses strictly rising, no byte 0 listed. -/
abbrev Mem := List Host.Cell

/-! ### Causes and stops -/

/-- The cause codes of R80. -/
inductive Cause where
  | illegal | runoff | misalign | handleInvalid | handleRevoked | pageNotResident | tableNotResident
  | permission | nms | latticeType | runawayTrigger | scheduleMiss | scaleInvalid | headroom
  | promotionLimit | tokenOverflow | liningMismatch | tmrSplit | deadlineMiss | remoteGated
  | uncorrectable | decodeInconsistent | trellisWrite | maskStack | lockSelf | handleBound | format
  deriving DecidableEq, Repr, Inhabited

/-- Why the machine stops with a fault. -/
inductive Fault where
  /-- Raised by MIGRATION_SECTOR_COPY when a unit's MIGSRC or MIGDST names a frame where R360 puts no memory; R376 says
  nothing of it. Safe: nothing is concluded of what follows. -/
  | noSuchMemory (pa : Nat)
  deriving DecidableEq, Repr

/-- Why an instruction has no meaning. -/
inductive Refusal where
  /-- An instruction that the model does not cover, by its mnemonic; raised by Dispatch only. Safe. -/
  | notModelled (mnemonic : String)
  deriving DecidableEq, Repr

/-! ### Handles -/

/-- What a walk that ended in a leaf found (R126, R359): the page's VA, its size in bytes (as an exponent: 16, 26
or 36), its physical base and attributes, the layout record's 16 words when the leaf names one (R366), and the package that translated it (R380). -/
structure Page where
  va : Nat
  bits : Nat
  pa : Nat
  ltype : Nat
  watched : Bool
  trellis : Bool
  scope : Nat
  hash : Nat
  tier : Nat
  writable : Bool
  layout : Option (List Word)
  pkg : Nat
  deriving DecidableEq, Repr, Inhabited

/-- Where a pending walk stands (R361): the level next read, the node's PA, and the lock re-reads made. -/
structure Walk where
  level : Nat
  node : Nat
  retries : Nat
  due : Nat
  deriving DecidableEq, Repr, Inhabited

/-- The state of a handle (R70, R125, R126). -/
inductive HandleState where
  /-- the walk is running. -/
  | pending (w : Walk)
  /-- the walk ended in a leaf. -/
  | valid (p : Page)
  /-- the walk ended in a cause: cause, walk report (R363), page VA and its size exponent (R125). -/
  | walkfault (c : Cause) (report : DWord) (va : Nat) (bits : Nat)
  deriving DecidableEq, Repr, Inhabited

/-- A handle register that holds a handle: the root it was made through (R356), the VA translated, the state,
and whether an invalidation revoked it (R126). -/
structure Handle where
  root : Nat
  va : DWord
  state : HandleState
  revoked : Bool
  deriving DecidableEq, Repr, Inhabited

/-! ### Agents, and what is ordered before what (R296 to R303) -/

/-- Who makes accesses (R296): a stream of a job, or a context (job 0); a stream transfer (core, control core, id); a coded operator (slot);
another unit of this package; another package; the host. -/
inductive Agent where
  | unit (u : UnitId) (job : Nat)
  | xfer (core lc id : Nat)
  | coded (slot : Nat)
  | device
  | away (pkg : Nat)
  | host
  deriving DecidableEq, Repr, Inhabited

/-- What is ordered before a moment (R300): of an agent, its accesses before a place in the order of commands and accepted writes, for the
observers of a scope that a release gave (R299; none wider than their own pages': 0); of a byte, its writes before a place in the order
in which writes were performed. -/
structure Clock where
  upTo : Tab (Agent × Nat) Nat
  bytes : Tab Nat Nat
  deriving DecidableEq, Repr, Inhabited

/-- Nothing is ordered before. -/
def Clock.empty : Clock := ⟨[], []⟩

/-- What is known of a write when it is performed: who made it and its place in the order of commands and accepted writes, the HASH of the leaf
it was made through (none where it keeps the bytes' own), the scope of its page, the root and page it was checked under, the retirement tracker's core and job that held it
(R287), what is ordered before it, of a release the scope (R298), and whether its acceptance has advanced its sector's number (R455). -/
structure Writer where
  who : Agent := .device
  at_ : Nat := 0
  hash : Option Nat := none
  scope : Nat := 3
  page : Option (Nat × Nat) := none
  tracked : Option (Nat × Nat) := none
  clock : Clock := Clock.empty
  rel : Option Nat := none
  numbered : Bool := false
  deriving DecidableEq, Repr, Inhabited

/-- A performed write: its place in the order in which writes were performed, its writer, and the bytes it replaced. -/
structure Wrote where
  seq : Nat
  writer : Writer
  old : List (Nat × Byte)
  deriving DecidableEq, Repr, Inhabited

/-- What an agent's loads must see (R299 to R301): what is ordered before it, newest first, each from a place in the order of commands and
accepted writes on; and, of each byte, the place in the order of performed writes that its loads have reached. -/
structure View where
  log : List (Nat × Clock)
  seen : Tab Nat Nat
  deriving DecidableEq, Repr, Inhabited

/-- The view of an agent that has acquired nothing. -/
def View.reset : View := ⟨[], []⟩

/-- A piece of work whose end a hand-off names (R271): a job, an outbound stream transfer (control core, id), an inbound one, a kernel
(control core, card). -/
inductive Work where
  | job (n : Nat)
  | xfer (lc id : Nat)
  | inbound (lc id : Nat)
  | kernel (lc card : Nat)
  deriving DecidableEq, Repr, Inhabited

/-! ### Streams and contexts -/

/-- The prefixes that stand before the word being executed (R61 to R63). -/
structure Pfx where
  imm : Option (BitVec 20)
  stamp : Option (BitVec 20)
  tokens : Option (BitVec 10)
  gen : Option Byte
  tmr : Bool
  deriving DecidableEq, Repr, Inhabited

/-- No prefix. -/
def Pfx.nil : Pfx := ⟨none, none, none, none, false⟩

/-- A loop register: count, start, end (R69). -/
structure LoopReg where
  count : DWord
  start : DWord
  stop : DWord
  deriving DecidableEq, Repr, Inhabited

/-- The job loop (R276): count left, kernel entry, epilogue entry, whether it was entered, the completions of its end word
(R320), and whether the stream stands at a kernel-iteration boundary. -/
structure JobLoop where
  count : Nat
  kernel : DWord
  epilogue : DWord
  entered : Bool
  turns : Nat
  boundary : Bool
  deriving DecidableEq, Repr, Inhabited

/-- What a stream waits for at a meeting or stop point. -/
inductive Park where
  | rdv (n : Nat)
  | swpt (n : Nat)
  | nbar
  /-- a stop point of a cut (R345): the live bits it contributes; `ppoint` at a PPOINT, which it completes when it goes on. -/
  | stop (live : BitVec 24) (ppoint : Bool)
  deriving DecidableEq, Repr, Inhabited

/-- Whether a unit runs (R119, R336). -/
inductive RunState where
  | off
  | running
  | parked (p : Park)
  /-- held by a cause, with its save slot (R336). -/
  | held (slot : Nat)
  | halted
  deriving DecidableEq, Repr, Inhabited

/-- The command that the sequencer has reached and that has not finished issuing (R163, R278), with what it captured
(R117): its private word, tag, pop and push masks, and for a stamped command its tick and when it was reached. `started`: it
has begun its effect and goes on (R104). -/
structure Queued where
  addr : DWord
  word : Word
  delta : Nat
  tag : Byte
  pops : BitVec 5
  pushes : BitVec 5
  tick : Nat
  reached : Nat
  stamped : Bool
  started : Bool
  deriving DecidableEq, Repr, Inhabited

/-- A wait in progress (R84): when it began and, for LWAIT, the tick at which it times out (R151). -/
structure Waiting where
  since : Nat
  limit : Option Nat
  deriving DecidableEq, Repr, Inhabited

/-- A stream or a context. -/
structure Stream where
  run : RunState
  job : Option Nat
  core : Nat
  root : Nat
  pc : DWord
  a : DWord
  word : Word
  pfx : Pfx
  g : Vector DWord 32
  lp : Vector LoopReg 4
  jl : Option JobLoop
  h : Vector (Option Handle) 16
  ofl : Bool
  sat : Bool
  th : Bool
  cause : DWord
  epc : DWord
  einfo : DWord
  ecmd : DWord
  eword : DWord
  tp : Vector DWord 8
  vt : DWord
  wto : DWord
  gen : Byte
  cmdIndex : Nat
  queued : Option Queued
  waiting : Option Waiting
  left : List Byte
  rdvArrivals : Tab Nat Nat
  swptArrivals : Tab Nat Nat
  deriving DecidableEq, Repr, Inhabited

/-- A stream's registers at their reset values (R68 to R79, R275), not running. -/
def Stream.reset : Stream where
  run := .off
  job := none
  core := 0
  root := 0
  pc := 0
  a := 0
  word := 0
  pfx := Pfx.nil
  g := Vector.replicate 32 0
  lp := Vector.replicate 4 ⟨0, 0, 0⟩
  jl := none
  h := Vector.replicate 16 none
  ofl := false
  sat := false
  th := false
  cause := 0
  epc := 0
  einfo := 0
  ecmd := 0
  eword := 0
  tp := Vector.replicate 8 0
  vt := 0
  wto := 0
  gen := 0
  cmdIndex := 0
  queued := none
  waiting := none
  left := []
  rdvArrivals := []
  swptArrivals := []

/-! ### The engines of a core -/

/-- VE: v0 to v30 and the mask stack, newest first (R71). -/
structure VeState where
  v : Vector VWord 31
  masks : List (BitVec 256)
  deriving DecidableEq, Repr, Inhabited

/-- One element of an accumulator buffer: W, the inner accumulators of the ordinary (or low) and the high slice with
their counts and scale pairs (R36, R37, R176), or M, X, G in FA mode (R47). -/
structure Elem where
  w : BitVec 576
  i : Int
  count : Nat
  pair : Option (Nat × Nat)
  iHigh : Int
  countHigh : Nat
  pairHigh : Option (Nat × Nat)
  m : BitVec 64
  x : BitVec 16
  gd : BitVec 16
  deriving DecidableEq, Repr, Inhabited

/-- An element after zeroing (R40). -/
def Elem.zero : Elem := ⟨0, 0, 0, none, 0, 0, none, 0, 0, 0⟩

/-- What an element that is not listed holds: zero, or contents that the spec calls undefined (log entries 4 and 25), of one buffer or
the other. -/
inductive AccBase where
  | zero
  | undef (seed : Nat) (second : Bool)
  deriving DecidableEq, Repr, Inhabited

/-- A tile buffer of the accumulator store (R158); `elems` is keyed by 256·i + j; `final` is the time, in
tenths of a tick, from which the buffer is final (R165); `blocks` and `blocksHigh` count the K-blocks it has received since it was
zeroed (R39), those of CODED16's high slices apart. -/
structure Acc where
  fa : Bool
  cls : Nat
  bandA : Nat
  bandB : Nat
  mark : Option Nat
  base : AccBase
  elems : Tab Nat Elem
  final : Nat
  blocks : Nat
  blocksHigh : Nat
  deriving DecidableEq, Repr, Inhabited

/-- A buffer that is native, of class none and zero. -/
def Acc.reset : Acc := ⟨false, 0, 0, 0, none, .zero, [], 0, 0, 0⟩

/-- A command of MX that reads memory, with what it captured at its issue edge (R165, R171, R173). -/
inductive MxOp where
  /-- MMA or MMAS: the descriptors with their numbers, the buffer, PI, zero-first, the forced promotion, the slice (none: MMA). -/
  | multiply (a b : BitVec 128) (na nb : Nat) (buf : Bool) (pi : Nat) (zero force : Bool) (slice : Option Nat)
  /-- MTBL: the offset. -/
  | table (off : Nat)
  /-- MRND: the descriptor with its number, the buffer, the rounding mode. -/
  | round (t : BitVec 128) (nt : Nat) (buf : Bool) (rnd : Nat)
  /-- MLOAD: the offset, the header, the end of the occupancy. -/
  | load (off : Nat) (header : List Word) (stop : Nat)
  deriving DecidableEq, Repr, Inhabited

/-- A token (R277): 8-bit tag and void bit, and what its push released (R108). -/
structure Token where
  tag : Byte
  isVoid : Bool
  clock : Clock := Clock.empty
  deriving DecidableEq, Repr, Inhabited

/-- What a stamped command that has issued would leave if it were found to be at fault (R81, R165): its tick, the descriptor last checked,
the stream, descriptors and PI as it found them, and the tokens that it popped. -/
structure MxUndo where
  tick : Nat
  stream : Stream
  td : Vector (BitVec 128) 16
  pi : Nat
  popped : List (Endpoint × Token)
  deriving DecidableEq, Repr, Inhabited

/-- A stamped command whose occupancy runs (R165, R167): what it is, where it reads memory, with the 64-byte pieces of its operands as
they stood at the issue edge (veneer, offset ÷ 64), until it has settled which it sees (R168); the effects it holds until its end: the
buffer it names, its new contents, all bytes that it writes and those not yet written, TBL, the post of an image (tag, address), the
flags OFL and SAT; whether it moves an image (MLOAD, MSAVE: R295); what undoes it. -/
structure MxFlight where
  seq : Nat
  array : Bool
  stop : Nat
  job : Nat
  tag : Byte
  pushes : BitVec 5
  op : Option MxOp
  pieces : List ((Bool × Nat) × List Byte)
  buf : Option Bool
  acc : Option Acc
  writes : List (Nat × Byte)
  todo : List (Nat × Byte)
  tbl : Option (List Byte)
  post : Option (Nat × Nat)
  ofl : Bool
  sat : Bool
  image : Bool
  undo : MxUndo
  deriving DecidableEq, Repr, Inhabited

/-- MX of a core (R72, R156 to R167): descriptors, reference tick, PI, TBL, buffers, occupancies. -/
structure MxState where
  td : Vector (BitVec 128) 16
  tref : Nat
  pi : Nat
  tbl : List Byte
  acc0 : Acc
  acc1 : Acc
  flight : List MxFlight
  deriving DecidableEq, Repr, Inhabited

/-- A token queue, oldest first, the entries reserved by commands that have not pushed (R277) and the squash
buffer of void tokens that found it full (R104). -/
structure TokenQueue where
  toks : List Token
  reserved : Nat
  squash : List Token
  deriving DecidableEq, Repr, Inhabited

/-- An LQ entry (R184, R214): reserved until filled; the place of its command in the order of commands, its job, its data, the VA of
an uncorrectable piece; what it fetches, as (byte of the entry, physical address, VA) in elements of `es` bytes, with for VLDT the mode, the table
and the weights to decode; the root and page they were checked under, where there are any; its pushes, made by the entry that finishes
its command. -/
structure LqEntry where
  seq : Nat
  job : Nat
  filled : Bool
  data : VWord
  marked : Option Nat
  src : List (Nat × Nat × Nat)
  es : Nat
  decode : Option (Nat × Option (List Byte) × Nat)
  of : Option (Nat × Page)
  pushes : BitVec 5
  tag : Byte
  finishes : Bool
  deriving DecidableEq, Repr, Inhabited

/-- The push of a VL load command that has finished and has earlier accesses of its stream to release (R299). -/
structure VlPush where
  seq : Nat
  job : Nat
  pushes : BitVec 5
  tag : Byte
  deriving DecidableEq, Repr, Inhabited

/-- An SQ entry (R184): data and byte enables. -/
structure SqEntry where
  data : VWord
  en : BitVec 256
  deriving DecidableEq, Repr, Inhabited

/-- An SB entry (R184, R217): a store command with its checked addresses, `dst` pairs (byte of the SQ entry, physical
address) in the order they are written, in elements of `es` bytes; for VSCT the enables of its index entry; `data` once its SQ entry has been taken,
`dst` then holding what is not yet written and `span` the lowest and
highest byte of its tracker entry (R287); `mine` all that it writes of the core's scratchpad (R166); the handle register and lowest VA that a revocation names (R474). -/
structure SbEntry where
  seq : Nat
  job : Nat
  dst : List (Nat × Nat)
  es : Nat
  span : Option (Nat × Nat)
  mine : List (Bool × Nat × Nat)
  low : Nat
  en : BitVec 256
  data : Option VWord
  scope : Nat
  page : Nat
  root : Nat
  cmd : Nat
  revoked : Bool
  hash : Nat
  pushes : BitVec 5
  tag : Byte
  deriving DecidableEq, Repr, Inhabited

/-- Where a byte of a CX or NX command or of a transfer goes: physical memory or the core's veneer share. -/
inductive Dest where
  | mem (pa : Nat)
  | veneer (off : Nat)
  deriving DecidableEq, Repr, Inhabited

/-- How the bytes of a command are written: as they are, or joined cell by cell as cells of a lattice type at a
site (R229). -/
inductive WriteMode where
  | plain
  | join (ltype site : Nat)
  deriving DecidableEq, Repr, Inhabited

/-- The bytes that a command still has to write to one page, or to the core's own memories: under the page's attributes
(R229). -/
structure CxPart where
  dst : List (Dest × Byte)
  mode : WriteMode
  scope : Nat
  root : Nat
  page : Nat
  hash : Nat
  deriving DecidableEq, Repr, Inhabited

/-- A CX command that has completed and not finished (R223), with its staged bytes; the lowest and highest physical byte of its tracker
entry (R287); all that it writes of the core's own memories, as (veneer, offset, length) (R166); the control core and entry of the stream transfer of which it is a part (R235); whether the command after it has been issued;
the tag (set, tag, slot) that its finish makes valid, the slot whose ways it makes invalid. -/
structure CxFlight where
  seq : Nat
  job : Nat
  parts : List CxPart
  span : Option (Nat × Nat)
  mine : List (Bool × Nat × Nat)
  remote : Bool
  xfer : Option (Nat × Nat)
  passed : Bool
  tagWay : Option (Nat × Nat × Nat)
  evict : Option Nat
  pushes : BitVec 5
  tag : Byte
  deriving DecidableEq, Repr, Inhabited

/-- The state of a way of the tag table (R142). -/
inductive WayState where
  | filling
  | valid
  deriving DecidableEq, Repr, Inhabited

/-- A way that is not invalid; `by_` the CFETCH that fills or has filled it (its place in the order of commands), `clock` what its writes were, for
a LOOKUP to acquire (R292). -/
structure Way where
  set : Nat
  way : Nat
  tag : Nat
  slot : Nat
  state : WayState
  by_ : Nat
  clock : Option Clock
  deriving DecidableEq, Repr, Inhabited

/-- A lock bit that is taken (R137, R138): bank, bit, the stream that holds it and its job; `granted` between
LOCK_GRANT and the LDLK that was waiting; `leaving` once the stream has halted: the place in the order of accepted writes
before which its stores must drain (R140). -/
structure Lock where
  bank : Nat
  bit : Nat
  owner : UnitId
  job : Option Nat
  granted : Bool
  leaving : Option Nat
  deriving DecidableEq, Repr, Inhabited

/-- A forced drop in progress (R315): the forced tick, the level to take. -/
structure Drop where
  tick : Nat
  level : Nat
  deriving DecidableEq, Repr, Inhabited

/-- A compute core; `drops` its forced drops in progress, the oldest first (R314, R315). -/
structure Core where
  ve : VeState
  mx : MxState
  lq : List LqEntry
  sq : List SqEntry
  sb : List SbEntry
  vlPushes : List VlPush
  tokens : Tab (Endpoint × Endpoint) TokenQueue
  cx : List CxFlight
  ways : List Way
  locks : List Lock
  lockWaiters : List (Nat × Nat × UnitId)
  jobq : List Nat
  issueFrom : Nat
  posters : List (UnitId × Nat)
  done : List (Nat × DWord)
  doneWait : List (Nat × Nat × DWord)
  level : Nat
  grant : Nat
  fallFrom : Option Nat
  gated : Bool
  ungate : Bool
  drops : List Drop
  stretch : Option (Nat × Nat)
  railHold : Nat
  mxHold : Bool
  profileDue : Nat
  roFloor : Nat
  cut : Option Nat
  deriving DecidableEq, Repr, Inhabited

/-! ### Writes that are accepted and not performed -/

/-- What an accepted write does when it is performed. -/
inductive PendingKind where
  | store
  | join (ltype site : Nat) (cellPa : Nat) (operand : DWord)
  deriving DecidableEq, Repr, Inhabited

/-- An accepted write of the shared subset (R130): who made it, in which job, its bytes, whether it is a release,
and the lock (core, bank, bit) it frees when it is performed (R139). For a core's stream it is a retirement tracker entry (R287). -/
structure Pending where
  seq : Nat
  who : UnitId
  core : Option Nat
  job : Nat
  kind : PendingKind
  bytes : List (Nat × Byte)
  va : Nat
  isRelease : Bool
  frees : Option (Nat × Nat × Nat)
  scope : Nat
  root : Nat
  page : Nat
  hash : Nat
  deriving DecidableEq, Repr, Inhabited

/-! ### Control cores -/

/-- What the translation of a 64 KiB piece of a transfer's global range came to (R259, R374): its page; a page that is not resident,
whose records go to a die's bounce buffer; a cause with its walk report. -/
inductive Found where
  | page (p : Page)
  | away (die : Nat)
  | fault (c : Cause) (report : DWord)
  deriving DecidableEq, Repr, Inhabited

/-- A scoreboard entry (R260): a stream transfer or a submitted kernel; `order` is its place among commands (R146), `clock` what its
first read acquires (R271); `found` the translations of a transfer's pieces, by VA; `run` the runs that have passed through staging; `asked` whether the pager has been asked for
pieces that are not resident (R374); `supplied` the bytes that it wrote into read-request records (R375), by their VA. -/
structure ScbEntry where
  ix : Nat
  seq : Nat
  order : Nat
  clock : Clock
  owner : Ctx
  kernel : Option Nat
  core : Nat
  card : Nat
  outbound : Bool
  total : Nat
  record : List Word
  found : List (Nat × Found)
  run : Nat
  asked : Bool
  finished : Bool
  cause : Nat
  supplied : List (Nat × List Byte)
  deriving DecidableEq, Repr, Inhabited

/-- A reported cause owed to a context (R81): cause, EINFO, EWORD. -/
structure Owed where
  cause : Cause
  einfo : DWord
  eword : DWord
  deriving DecidableEq, Repr, Inhabited

/-- A control core LCi (R252 to R273). -/
structure Lc where
  ringLC : List (DWord × Clock)
  ringCS : List (DWord × Clock)
  ringSL : List (DWord × Clock)
  scb : List ScbEntry
  scbSeq : Nat
  purseL : Nat
  purseC : Nat
  purseS : Nat
  rootReg : DWord
  owedL : List Owed
  owedC : List Owed
  owedS : List Owed
  lining : Tab Ctx LiningPart
  deriving DecidableEq, Repr, Inhabited

/-! ### Cards and jobs -/

/-- The state of a card slot (R323). -/
inductive SlotState where
  | empty | prepared | waiting | ready | queued | running
  deriving DecidableEq, Repr, Inhabited

/-- A slot of the card store that is not empty and zero (R319, R323), with what its JPREP released (R257, R271). -/
structure CardSlot where
  words : List Word
  state : SlotState
  tokens : Nat
  clock : Clock
  deriving DecidableEq, Repr, Inhabited

/-- Where an instance of a job stands. -/
inductive InstState where
  | waiting | queued | running | halted | completed
  /-- checkpointed, with its save slot (R347). -/
  | saved (slot : Nat)
  deriving DecidableEq, Repr, Inhabited

/-- One instance of a job on one core (R321, R322). -/
structure Inst where
  core : Nat
  index : Nat
  state : InstState
  start : Nat
  coreRank : Nat
  dieRank : Nat
  deriving DecidableEq, Repr, Inhabited

/-- What released a job (R324). -/
inductive Origin where
  | post (lc : Nat) (k : Ctx)
  | krun (lc : Nat) (k : Ctx) (scb : Nat)
  | watch (entry : Nat) (lc : Nat) (k : Ctx)
  | nmatch (die : Nat)
  | coded (slot task : Nat)
  deriving DecidableEq, Repr, Inhabited

/-- A job spawned from a copy of a template (R394, R417): it does not use the card's slot. -/
def Origin.isCopy (o : Origin) : Bool :=
  match o with
  | .watch _ _ _ => true
  | .coded _ _ => true
  | _ => false

/-- How far a pre-emption has gone (R342 to R346). -/
inductive CutPhase where
  | drain
  | seeking
  | arrived (live : BitVec 24) (gen : Byte)
  | kill
  deriving DecidableEq, Repr, Inhabited

/-- A job (R319 to R331): a card's copy with its instances; `barred` once a transfer that it names has failed, so that it never
issues (R259), `clock` what the first instruction of each of its streams acquires (R271). -/
structure Job where
  card : Nat
  words : List Word
  origin : Origin
  root : Nat
  reserved : Bool
  deadline : Nat
  admitted : Nat
  est : Nat
  ready : Bool
  readyTick : Nat
  issued : Bool
  started : Bool
  effPrio : Nat
  insts : List Inst
  pend : Nat
  lastVa : DWord
  cause : Nat
  missed : Bool
  phase : Option CutPhase
  first : Bool
  cutSlot : Option Nat
  ending : Bool
  barred : Bool
  homeDie : Nat
  cellPage : Option Page
  clock : Clock
  deriving DecidableEq, Repr, Inhabited

/-! ### Dies -/

/-- A posted receiver of NX (R239 to R241): kind (0 NRECV, 1 NMATCH, 2 NRED), the poster's core and job, the peer word,
where its bytes go: root and VA of a buffer in a page, or an offset of the core's scratchpad; its lattice type; capacity,
bytes written, operation, card; the messages that matched it and are not delivered, the numbers of those delivered, for
NRECV and NRED the message that was, and what the deliveries released (R298). -/
structure Receiver where
  seq : Nat
  kind : Nat
  core : Nat
  job : Nat
  peer : DWord
  paged : Bool
  root : Nat
  base : Nat
  ltype : Nat
  cap : Nat
  filled : Nat
  op : Nat
  card : Nat
  matched : List NxHeader
  landed : List Nat
  done : Option NxHeader
  clock : Clock
  deriving DecidableEq, Repr, Inhabited

/-- A send that awaits its acknowledgement (R238): peer word, data, how far its header has come (0 on its way, 1 at the
destination, 2 refused, to be repeated at `due`, 3 delivered under the number `via`), tracker core, whether the send after it has been
issued (R223), pushes, and what the send releases (R298). -/
structure NxSend where
  seq : Nat
  len : Nat
  peer : DWord
  data : List Byte
  stage : Nat
  due : Nat
  via : Nat
  core : Nat
  job : Nat
  passed : Bool
  pushes : BitVec 5
  tag : Byte
  clock : Clock
  deriving DecidableEq, Repr, Inhabited

/-- An expert of an NROUTE that has not failed (R243): the page and the physical addresses of its counter's bytes, those of its fill cell, and
the root and the VA of its buffer. -/
structure Expert where
  counter : Page × List Nat
  fill : Page × List Nat
  buffer : Nat × Nat
  deriving DecidableEq, Repr, Inhabited

/-- An NROUTE that runs (R243, R244): its core, job and place among commands, with its root; the record's words, the token table and the expert map as they were read at issue, the next token and whether its second choice is next, whether
its claims met a gated core or a failed expert, tokens dropped; the experts claimed so far (none: failed), the highest
slot claimed at each plus 1, and the payloads not delivered, by expert, VA and bytes. -/
structure RouteRun where
  core : Nat
  job : Nat
  seq : Nat
  root : Nat
  words : List Word
  table : List Byte
  map : List Byte
  token : Nat
  second : Bool
  sawGated : Bool
  sawFailed : Bool
  dropped : Nat
  experts : Tab Nat (Option Expert)
  tops : Tab Nat Nat
  parts : List (Nat × Nat × List Byte)
  deriving DecidableEq, Repr, Inhabited

/-- Whose delivery bounced (R374): a CX command, a stream transfer of a control core, an NX delivery of a die, or a payload of
its NROUTE for an expert. -/
inductive BounceOwner where
  | cx (core seq : Nat)
  | xfer (lc ix : Nat)
  | nx (die seq : Nat)
  | route (die expert : Nat)
  deriving DecidableEq, Repr, Inhabited

/-- A bounce record that is not completed (R374, R375): kind (0 a write, 1 a read request), the notice's sequence, record
offset ÷ 64, the VA and root of its page, its length, and whose delivery it is. -/
structure Bounce where
  kind : Nat
  seq : Nat
  recNo : Nat
  va : Nat
  root : Nat
  len : Nat
  owner : BounceOwner
  deriving DecidableEq, Repr, Inhabited

/-- A delivery on its way to the bounce buffer of a die (R374). -/
structure ToBounce where
  kind : Nat
  die : Nat
  va : Nat
  root : Nat
  len : Nat
  data : List Byte
  owner : BounceOwner
  deriving DecidableEq, Repr, Inhabited

/-- A compute die's shared state. -/
structure Die where
  headers : List NxHeader
  receivers : List Receiver
  sends : List NxSend
  pendingBytes : Nat
  route : Option RouteRun
  bounces : List Bounce
  bounceSeq : Nat
  permits : Nat
  lastPaid : Nat
  denseSince : Bool
  profileCount : Nat
  thermal : Nat
  thermalChange : Option Nat
  temp : Nat
  power : Bool
  mappedOut : Bool
  deriving DecidableEq, Repr, Inhabited

/-! ### Package units -/

/-- An outstanding invalidation (R373): root, base VA, size exponent (56: every page), and the accesses it
waits for, by their sequence numbers. -/
structure Inval where
  root : Nat
  va : Nat
  bits : Nat
  upTo : Nat
  deriving DecidableEq, Repr, Inhabited

/-- A migration unit (R376, R377). -/
structure Migration where
  src : DWord
  dst : DWord
  big : Bool
  busy : Bool
  done : Bool
  cause : Nat
  cursor : Nat
  ending : Bool
  deriving DecidableEq, Repr, Inhabited

/-- A watch entry (R391, R392): owner, descriptor fields, translations (one for each 64 KiB piece of the range, none where it
is not compared, R396), armed, spawns, root. -/
structure Watch where
  lc : Nat
  ctx : Ctx
  root : Nat
  base : Nat
  len : Nat
  cond : Nat
  coal : Nat
  tgt : Nat
  fixed : Nat
  rate : Nat
  card : Nat
  mval : DWord
  scope : Nat
  pages : List (Nat × Option Page)
  armed : Bool
  spawns : Nat
  deriving DecidableEq, Repr, Inhabited

/-- A trigger on its way to the watch table (R393): the tick and the physical address of the write that raised it, entry,
trigger VA, home (kind 0 HBM, 1 LPDDR, 2 scratchpad; die; channel or core), and what the spawned job acquires (R308). -/
structure Trigger where
  tick : Nat
  pa : Nat
  entry : Nat
  va : Nat
  kind : Nat
  die : Nat
  chan : Nat
  clock : Clock
  deriving DecidableEq, Repr, Inhabited

/-- A round of an exchange schedule: least length and pairs of sites (R385). -/
structure Round where
  dur : Nat
  pairs : List (Nat × Nat)
  deriving DecidableEq, Repr, Inhabited

/-- A dirty mark (R381): the line's offset and type at a site, towards a partner. -/
structure Dirty where
  site : Nat
  o : Nat
  ltype : Nat
  sys : Bool
  partner : Nat
  deriving DecidableEq, Repr, Inhabited

/-- A snapshotted line on its way (R383), with what the joins that it holds released (R151), by their offset in the line. -/
structure Flying where
  src : Nat
  dst : Nat
  o : Nat
  ltype : Nat
  sys : Bool
  data : List Byte
  clocks : Tab (Nat × Agent × Nat) Clock
  deriving DecidableEq, Repr, Inhabited

/-- The lattice exchange controller (R383 to R388). -/
structure Exchange where
  sched : List Round
  next : Option (List Round)
  round : Nat
  start : Nat
  cycles : Nat
  dirty : List Dirty
  flying : List Flying
  outerRound : Nat
  outerStart : Nat
  outerCycles : Nat
  outerDirty : List (Nat × Nat × Nat)
  present : List Nat
  ranks : List Nat
  sent : List (Nat × LatLine)
  deriving DecidableEq, Repr, Inhabited

/-- A tile of a coded operator that has been written: its lo, and for each group its elements (R422); kept for the SXI8
blocks that span tiles (R424). -/
structure Solved where
  tile : Nat
  lo : Nat
  cs : List (List Int)
  deriving DecidableEq, Repr, Inhabited

/-- A post on its way to the dispatcher (R179, R420, R428): tag, its source (a job, or a package) by number, the posting core,
the image and its address. -/
structure Post where
  tag : Nat
  fromPkg : Bool
  source : Nat
  core : Nat
  pa : Nat
  image : List Byte
  deriving DecidableEq, Repr, Inhabited

/-- A decoder at work (R421 to R424): the operator's slot and the tile, the bytes of C at their VAs not yet written, and what the tile's
writing leaves: USED, OFL and SAT, and the posts of its export. -/
structure Decoder where
  slot : Nat
  tile : Nat
  todo : List (Nat × Byte)
  used : Nat
  ofl : Bool
  sat : Bool
  posts : List Post
  deriving DecidableEq, Repr, Inhabited

/-- A coded operator's slot (R412 to R427): its descriptor, the root, control core and context of its CMM, whether it runs, was
started, has ended, D and DEC, the pages translated, task and job pairs, returns as (task, tile) with their ticks, tiles decided with their
S, tiles decoded, tiles done with, the solved ones' values, USED, LOC and flags, the status word of its end, and what its CMM released (R271). -/
structure Coded where
  desc : List Word
  root : Nat
  lc : Nat
  ctx : Ctx
  running : Bool
  started : Bool
  ended : Bool
  deadline : Nat
  dec : Nat
  pages : List Page
  tasks : List (Nat × Nat)
  returns : Tab (Nat × Nat) Nat
  decided : List (Nat × List Nat)
  decoded : List Nat
  written : List Nat
  solved : List Solved
  used : Nat
  loc : Nat
  unloc : Bool
  sat : Bool
  ofl : Bool
  inexact : Bool
  status : DWord
  clock : Clock
  deriving DecidableEq, Repr, Inhabited

/-- A seam link (R405, R406, R408, R467): whether it is trained, the next sequence number sent, the last received in order, the sent flits
that are not acknowledged, replays of the oldest, credits by VC, those owed to the partner, the slot of the frame, the flits accepted. -/
structure Seam where
  up : Bool
  nextSeq : Nat
  lastRecv : Option Nat
  buffer : List (Nat × List Byte)
  replays : Nat
  credits : List Nat
  owed : List Nat
  slot : Nat
  received : List (List Byte)
  deriving DecidableEq, Repr, Inhabited

/-- A scrubber's visit between its read and its check (R456): the sector's number as it began, its tick, whether it is the second, the
codewords that it corrected. -/
structure Visit where
  seq : Nat
  began : Nat
  again : Bool
  words : List Nat
  deriving DecidableEq, Repr, Inhabited

/-- An HBM or LPDDR channel (R453 to R456): the ticks of its transfers that exceeded the limit, the writes that wait (tick,
256-byte block), free spares, swaps (lane, spare), whether it failed, since when it accepts nothing, the scrubber's next sector and tick,
with its visit, suppressed records. -/
structure Chan where
  exceeded : List Nat
  writeWait : List (Nat × Nat)
  spares : Nat
  swaps : List (Nat × Nat)
  failed : Bool
  closed : Option Nat
  scrubPos : Nat
  scrubDue : Nat
  visit : Option Visit
  supp : Nat
  deriving DecidableEq, Repr, Inhabited

/-- The firmware's ports (R330, R338, R371, R390, R459). -/
structure Ports where
  saveBase : DWord
  saveSlots : Nat
  drainLim : DWord
  killLim : DWord
  costDrain : DWord
  costCkpt : DWord
  costKill : DWord
  purseRate : DWord
  purseCap : DWord
  vmSel : Nat
  migSel : Nat
  cntSel : DWord
  xmSel : DWord
  wqSel : Nat
  wEntSel : Nat
  wQuota : Tab Nat Nat
  errBase : DWord
  deriving DecidableEq, Repr, Inhabited

/-- What a taken save slot holds of a unit (R347 to R354): KIND, UNIT as its header has it, the trap record's CAUSE word, whether its notice has
been posted, DOUBLE, the plain data that its regions stand for, and the slot's bytes as the device left them. A hold whose notice a full fault
queue delays is not `noticed` (R336). -/
structure Saved where
  slot : Nat
  kind : Nat
  unit : UnitId
  job : Option Nat
  card : Nat
  code : Nat
  cause : DWord
  noticed : Bool
  double : Bool
  ending : Bool
  live : BitVec 24
  gcut : Byte
  streams : List (UnitId × Stream)
  ve : Option VeState
  mx : Option MxState
  lq : List LqEntry
  sq : List SqEntry
  sb : List SbEntry
  tokens : Tab (Endpoint × Endpoint) TokenQueue
  ways : List Way
  pad : List (Nat × Mem)
  image : Mem
  deriving DecidableEq, Repr, Inhabited

/-- An image of the firmware in management flash (R468): its control core, its words from address 0, the contexts that start, with entry
and g1. -/
structure FirmImage where
  lc : Nat
  words : List Word
  starts : List (Ctx × Nat × DWord)
  deriving DecidableEq, Repr, Inhabited

/-- The management controller (R459, R461, R463 to R473): its log and the rate it is made at, PTP time and the latest PPS pair,
LOGSEL, the configuration block being received, the one being written to flash (R473) and the one in flash (none: the factory image), the
package number, the boot record's d0 to d3 with its saved lane swaps and training parameters, the firmware's images in flash (R468), the answer of
the last sideband read (R472), the last bring-up step passed, whether the package is on, whether a start may begin, the thermal thresholds
and the temperatures and states of the control die and the SF die. -/
structure Mgc where
  log : List (List DWord)
  seq : Nat
  ringCount : Nat
  lost : Nat
  second : Nat
  inSecond : Nat
  lastArray : Tab Nat Nat
  tod : Nat × Nat
  pps : Option (Nat × Nat × Nat)
  logSel : DWord
  cfgState : Nat
  cfgFail : Nat
  cfgBuf : List Byte
  flashing : Option (List Byte)
  flash : List Byte
  pkgNo : Nat
  boot : List DWord
  params : Tab (Nat × Nat) (List (Nat × Nat))
  training : Tab Nat DWord
  images : List FirmImage
  answer : List Byte
  stepDone : Nat
  poweredOn : Bool
  mayStart : Bool
  thresh : List Nat
  tempCd : Nat
  tempSf : Nat
  thermalCd : Nat
  thermalSf : Nat
  changeCd : Option Nat
  changeSf : Option Nat
  deriving DecidableEq, Repr, Inhabited

/-- What accesses from here depend on of another package (R232, R361, R411): the roots of its control cores, its layout records, its
gated cores and its dies that are mapped out. -/
structure Far where
  roots : Tab Nat DWord
  layouts : Tab Nat (List Word)
  gated : List Nat
  mapped : List Nat
  deriving DecidableEq, Repr, Inhabited

/-- Another package of which nothing is known: its roots are those of reset (R371). -/
def Far.reset : Far := ⟨[], [], [], []⟩

/-- The host's view (R400 to R404): registers, the answer of the last read, and messages sent. -/
structure HostSide where
  apRoot : Nat
  apBase : DWord
  err : DWord
  irqPend : DWord
  answer : List Byte
  aborted : Bool
  messages : List Nat
  deriving DecidableEq, Repr, Inhabited

/-- What periodic events have been done up to (R310, R312, R313, R330, R395): the last tick served; and how many multiples have had their
thermal sample or need none (R463). -/
structure Served where
  reallot : Nat
  boundary : Vector Nat 8
  refill : Vector Nat 8
  purse : Nat
  rate : Nat
  thermal : Nat
  deriving DecidableEq, Repr, Inhabited

/-- The machine. -/
structure State where
  now : Nat
  cur : UnitId
  moves : List Move
  sched : Nat
  fresh : Nat
  cmdSeq : Nat
  streams : Tab UnitId Stream
  cores : Tab Nat Core
  imem : Tab ImemId (Tab Nat Word)
  imlim : Tab ImemId Nat
  mem : Mem
  veneer : Tab Nat Mem
  ecc : Tab Nat Nat
  busBad : List Nat
  pending : List Pending
  hist : List Wrote
  hashed : Bool
  rowSeq : Tab Nat Nat
  views : Tab Agent View
  works : Tab Work Clock
  fences : Tab (Agent × Nat) Clock
  latClocks : Tab (Nat × Agent × Nat) Clock
  walkFloors : List (Nat × Nat × Nat × Nat × Nat)
  deviceWalks : Tab (Nat × Nat) Walk
  lcs : Tab Nat Lc
  cards : Tab Nat CardSlot
  jobs : Tab Nat Job
  nextJob : Nat
  dies : Tab Nat Die
  xmRows : Tab (Nat × Nat) Nat
  ports : Ports
  faultq : List DWord
  saved : List Saved
  invals : List Inval
  migs : Tab Nat Migration
  bounceq : List DWord
  toBounce : List ToBounce
  layouts : Tab Nat (List Word)
  exchange : Exchange
  watches : Tab Nat Watch
  triggers : List Trigger
  coded : Tab Nat Coded
  posts : List Post
  decodeq : List (Nat × Nat)
  decoders : List (Nat × Decoder)
  teStats : Vector DWord 4
  host : HostSide
  fars : Tab Nat Far
  routes : Tab Nat (List Nat)
  seams : Tab Nat Seam
  chans : Tab (Nat × Nat) Chan
  seqNums : Tab Nat Nat
  counts : Tab (Nat × Nat × Nat) Nat
  mgc : Mgc
  served : Served
  tmrUpset : Tab (UnitId × Bool) Bool
  deriving DecidableEq, Repr

/-! ### Values at reset -/

/-- The default exchange schedule (R387). -/
def defaultSchedule : List Round :=
  [⟨256, [(0, 1), (2, 3), (4, 5), (6, 7)]⟩, ⟨256, [(0, 2), (1, 3), (4, 6), (5, 7)]⟩,
   ⟨256, [(0, 4), (1, 5), (2, 6), (3, 7)]⟩, ⟨256, [(8, 0)]⟩]

/-- MX before any stream ran: PI 1, TBL zero, buffers native of class none (R158). -/
def MxState.reset : MxState where
  td := Vector.replicate 16 0
  tref := 0
  pi := 1
  tbl := []
  acc0 := Acc.reset
  acc1 := Acc.reset
  flight := []

/-- A core after bring-up: empty queues (R290), medium level (log entry 2), not gated. -/
def Core.reset : Core where
  ve := ⟨Vector.replicate 31 0, []⟩
  mx := MxState.reset
  lq := []
  sq := []
  sb := []
  vlPushes := []
  tokens := []
  cx := []
  ways := []
  locks := []
  lockWaiters := []
  jobq := []
  issueFrom := 0
  posters := []
  done := []
  doneWait := []
  level := 2
  grant := 2
  fallFrom := none
  gated := false
  ungate := false
  drops := []
  stretch := none
  railHold := 0
  mxHold := false
  profileDue := 40960
  roFloor := 0
  cut := none

/-- A control core after bring-up (R253, R260, R330, R372). -/
def Lc.reset : Lc where
  ringLC := []
  ringCS := []
  ringSL := []
  scb := []
  scbSeq := 0
  purseL := 0
  purseC := 0
  purseS := 0
  rootReg := 0
  owedL := []
  owedC := []
  owedS := []
  lining := []

/-- A die after bring-up step S11: 64 permits (R312), thermal state normal (R464, R466). -/
def Die.reset : Die where
  headers := []
  receivers := []
  sends := []
  pendingBytes := 0
  route := none
  bounces := []
  bounceSeq := 0
  permits := 64
  lastPaid := 0
  denseSince := false
  profileCount := 0
  thermal := 0
  thermalChange := none
  temp := 0
  power := true
  mappedOut := false

/-- An idle migration unit (R377). -/
def Migration.reset : Migration := ⟨0, 0, false, false, false, 0, 0, false⟩

/-- An empty card slot (R323). -/
def CardSlot.reset : CardSlot := ⟨List.replicate 32 0, .empty, 0, Clock.empty⟩

/-- A dispatcher slot without a descriptor (R265). -/
def Coded.reset : Coded where
  desc := []
  root := 0
  lc := 0
  ctx := .c
  running := false
  started := false
  ended := false
  deadline := 0
  dec := 0
  pages := []
  tasks := []
  returns := []
  decided := []
  decoded := []
  written := []
  solved := []
  used := 0
  loc := 0
  unloc := false
  sat := false
  ofl := false
  inexact := false
  status := 0
  clock := Clock.empty

/-- A trained link (R407) that has carried nothing. -/
def Seam.reset : Seam := ⟨true, 0, none, [], 0, [Config.linkCredits 0, Config.linkCredits 1, Config.linkCredits 2], [0, 0, 0], 0, []⟩

/-- A channel without errors, two spare lanes (R453). -/
def Chan.reset : Chan := ⟨[], [], 2, [], false, none, 0, 1700000, none, 0⟩

/-- The ports after bring-up (R330, R338, R371, R390, R459). -/
def Ports.reset : Ports where
  saveBase := Config.saveBase
  saveSlots := Config.saveSlots
  drainLim := 34000
  killLim := 170000
  costDrain := 1
  costCkpt := 4
  costKill := 16
  purseRate := 108800
  purseCap := 4096
  vmSel := 0
  migSel := 0
  cntSel := 0
  xmSel := 0
  wqSel := 0
  wEntSel := 0
  wQuota := []
  errBase := Config.errBase

/-- The management controller after bring-up; the boot record holds twelve passed steps (R469). -/
def Mgc.reset : Mgc where
  log := []
  seq := 0
  ringCount := 0
  lost := 0
  second := 0
  inSecond := 0
  lastArray := []
  tod := (0, 0)
  pps := none
  logSel := 0
  cfgState := 0
  cfgFail := 0
  cfgBuf := []
  flashing := none
  flash := []
  pkgNo := Config.pkgNo
  boot := [0x100000000, 0x0808080808080808, 0x08080808, 0]
  params := []
  training := []
  images := []
  answer := []
  stepDone := 11
  poweredOn := true
  mayStart := false
  thresh := [380, 420, 460]
  tempCd := 0
  tempSf := 0
  thermalCd := 0
  thermalSf := 0
  changeCd := none
  changeSf := none

/-- The host registers at reset (R401). -/
def HostSide.reset : HostSide := ⟨17, 0, 0, 0, [], false, []⟩

/-- The exchange controller at S9 and after (R383, R387); the domain holds this package (log entry 8). -/
def Exchange.reset : Exchange where
  sched := defaultSchedule
  next := none
  round := 0
  start := 0
  cycles := 0
  dirty := []
  flying := []
  outerRound := 0
  outerStart := 0
  outerCycles := 0
  outerDirty := []
  present := [Config.pkgNo]
  ranks := [Config.pkgNo]
  sent := []

/-- The machine right after bring-up step S11 (R467; log entry 1), with nothing loaded. -/
def State.reset : State where
  now := 0
  cur := .ctx 0 .l
  moves := []
  sched := 0
  fresh := 0
  cmdSeq := 0
  streams := []
  cores := []
  imem := []
  imlim := []
  mem := []
  veneer := []
  ecc := []
  busBad := []
  pending := []
  hist := []
  hashed := false
  rowSeq := []
  views := []
  works := []
  fences := []
  latClocks := []
  walkFloors := []
  deviceWalks := []
  lcs := []
  cards := []
  jobs := []
  nextJob := 1
  dies := []
  xmRows := []
  ports := Ports.reset
  faultq := []
  saved := []
  invals := []
  migs := []
  bounceq := []
  toBounce := []
  layouts := []
  exchange := Exchange.reset
  watches := []
  triggers := []
  coded := []
  posts := []
  decodeq := []
  decoders := []
  teStats := Vector.replicate 4 0
  host := HostSide.reset
  fars := []
  routes := []
  seams := []
  chans := []
  seqNums := []
  counts := []
  mgc := Mgc.reset
  served := ⟨0, Vector.replicate 8 0, Vector.replicate 8 0, 0, 0, 1⟩
  tmrUpset := []

end Sys2Proof.Machine

namespace Sys2Proof.Config

/-- Undefined registers of a unit that was saved (R351, log entry 33): seed and unit. -/
opaque freeStream : Nat → Nat → Machine.Stream

/-- An accumulator element's undefined contents (R39, R158, log entries 4 and 25): seed, buffer and element index. -/
opaque freeElem : Nat → Bool → Nat → Machine.Elem

/-- Undefined contents of a saved instance's engines (R351, log entry 33). -/
opaque freeSaved : Nat → Machine.Saved

end Sys2Proof.Config
end

