-- ==== Sys2Proof/Machine/Store.lean ====
section
/-!
DEFINITION. Tables, the parts of the state, and physical memory: its canonical form, where a byte lies (R360, R368, R376), the codes of the
arrays (R449 to R452), and a write in its place among those performed.
-/

namespace Sys2Proof.Machine

/-! ### Tables -/

/-- What a table holds for a key. -/
def Tab.find? {κ α : Type} [DecidableEq κ] : Tab κ α → κ → Option α
  | [], _ => none
  | (k, v) :: t, x => if k = x then some v else Tab.find? t x

/-- What a table holds for a key, or the value of absent keys. -/
def Tab.get {κ α : Type} [DecidableEq κ] (t : Tab κ α) (x : κ) (d : α) : α := (Tab.find? t x).getD d

/-- The table with the key's value replaced. -/
def Tab.set {κ α : Type} [DecidableEq κ] : Tab κ α → κ → α → Tab κ α
  | [], x, v => [(x, v)]
  | (k, w) :: t, x, v => if k = x then (x, v) :: t else (k, w) :: Tab.set t x v

/-- The table without the key. -/
def Tab.erase {κ α : Type} [DecidableEq κ] : Tab κ α → κ → Tab κ α
  | [], _ => []
  | (k, v) :: t, x => if k = x then t else (k, v) :: Tab.erase t x

/-! ### Memory -/

/-- The byte at an address; an unlisted byte reads as 0 (log entry 3). -/
def Mem.get : Mem → Nat → Byte
  | [], _ => 0
  | (k, b) :: t, a => if k = a then b else Mem.get t a

/-- The memory with one byte written, in canonical form again: a byte 0 is not listed. -/
def Mem.set : Mem → Nat → Byte → Mem
  | [], a, b => if b = 0 then [] else [(a, b)]
  | (k, c) :: t, a, b =>
    if a < k then (if b = 0 then (k, c) :: t else (a, b) :: (k, c) :: t)
    else if a = k then (if b = 0 then t else (a, b) :: t)
    else (k, c) :: Mem.set t a b

/-- Every address of a memory lies above a bound. -/
def Mem.above (m : Mem) (a : Nat) : Bool := m.all fun c => decide (a < c.1)

/-- The canonical form: addresses strictly rising, no byte 0 listed. -/
def Mem.wf : Mem → Bool
  | [] => true
  | (k, b) :: t => decide (b ≠ 0) && Mem.above t k && Mem.wf t

/-- n bytes from an address upwards. -/
def Mem.bytes (m : Mem) (a n : Nat) : List Byte := (List.range n).map fun i => Mem.get m (a + i)

/-- Bytes written one after another at their addresses. -/
def Mem.setAll (m : Mem) (w : List (Nat × Byte)) : Mem := w.foldl (fun m c => Mem.set m c.1 c.2) m

/-- The (address, byte) pairs of bytes laid from an address upwards. -/
def cellsAt (a : Nat) (bs : List Byte) : List (Nat × Byte) :=
  (List.range bs.length).map fun i => (a + i, bs.getD i 0)

/-! ### Reading and replacing parts of the state -/

/-- A stream or context; one that never started has its reset registers. -/
def State.stream (s : State) (u : UnitId) : Stream := Tab.get s.streams u Stream.reset

def State.setStream (s : State) (u : UnitId) (x : Stream) : State :=
  { s with streams := Tab.set s.streams u x }

/-- The executing stream or context. -/
def State.me (s : State) : Stream := s.stream s.cur

def State.setMe (s : State) (x : Stream) : State := s.setStream s.cur x

def State.core (s : State) (c : Nat) : Core := Tab.get s.cores c Core.reset

def State.setCore (s : State) (c : Nat) (x : Core) : State := { s with cores := Tab.set s.cores c x }

/-- A core of this package is asked to be ungated (R411); one of another package (32 and above) is asked over the links. -/
def State.askUngate (s : State) (c : Nat) : State :=
  if c < 32 then s.setCore c { s.core c with ungate := true } else s

def State.lc (s : State) (i : Nat) : Lc := Tab.get s.lcs i Lc.reset

def State.setLc (s : State) (i : Nat) (x : Lc) : State := { s with lcs := Tab.set s.lcs i x }

def State.die (s : State) (d : Nat) : Die := Tab.get s.dies d Die.reset

def State.setDie (s : State) (d : Nat) (x : Die) : State := { s with dies := Tab.set s.dies d x }

def State.card (s : State) (n : Nat) : CardSlot := Tab.get s.cards n CardSlot.reset

def State.setCard (s : State) (n : Nat) (x : CardSlot) : State := { s with cards := Tab.set s.cards n x }

def State.mig (s : State) (n : Nat) : Migration := Tab.get s.migs n Migration.reset

def State.setMig (s : State) (n : Nat) (x : Migration) : State := { s with migs := Tab.set s.migs n x }

def State.codedSlot (s : State) (n : Nat) : Coded := Tab.get s.coded n Coded.reset

def State.setCoded (s : State) (n : Nat) (x : Coded) : State := { s with coded := Tab.set s.coded n x }

def State.seam (s : State) (n : Nat) : Seam := Tab.get s.seams n Seam.reset

def State.setSeam (s : State) (n : Nat) (x : Seam) : State := { s with seams := Tab.set s.seams n x }

def State.chan (s : State) (m c : Nat) : Chan := Tab.get s.chans (m, c) Chan.reset

def State.setChan (s : State) (m c : Nat) (x : Chan) : State := { s with chans := Tab.set s.chans (m, c) x }

def State.job? (s : State) (j : Nat) : Option Job := Tab.find? s.jobs j

def State.setJob (s : State) (j : Nat) (x : Job) : State := { s with jobs := Tab.set s.jobs j x }

/-- The number of this package (R407). -/
abbrev State.pkg (s : State) : Nat := s.mgc.pkgNo

/-- A fresh number: the counter of the free values moves on. -/
def State.draw (s : State) : Nat × State := (s.fresh, { s with fresh := s.fresh + 1 })

/-- A fresh place in the order of commands and accepted writes. -/
def State.nextSeq (s : State) : Nat × State := (s.cmdSeq, { s with cmdSeq := s.cmdSeq + 1 })

/-! ### Physical addresses (R360) -/

def pkgOf (pa : Nat) : Nat := bits pa 47 42
def kindOf (pa : Nat) : Nat := bits pa 41 40
def dieOf (pa : Nat) : Nat := bits pa 38 36

/-- The scratchpad's size (R10). -/
def scratchSize : Nat := 0x1800000

/-- The veneer share's size (R10). -/
def veneerSize : Nat := 0x2000000

/-- The core whose scratchpad a kind 2 address lies in. -/
def scratchCore (pa : Nat) : Nat := bits pa 29 25

/-- The physical address of an offset in a core's scratchpad of a package. -/
def scratchPa (pkg core off : Nat) : Nat := pkg * 2 ^ 42 + 2 * 2 ^ 40 + core * 2 ^ 25 + off

/-- The address at which the package keeps an offset of a die's bounce buffer (R10, R374): in kind 3, which no leaf can name; the
spec gives it no address of R360 (log entry 66). -/
def bouncePa (pkg die off : Nat) : Nat := pkg * 2 ^ 42 + 3 * 2 ^ 40 + die * 2 ^ 26 + off

/-- The numbers in kind 3 under which the model knows the words of the other SRAMs of R452 (log entry 15): a core's veneer share, the nine
words of an element of an accumulator buffer, an instruction memory, a slot of the card store, a record's entry in a die's bounce
directory. -/
def veneerPa (core off : Nat) : Nat := 3 * 2 ^ 40 + 2 ^ 36 + core * 2 ^ 25 + off
def accPa (core : Nat) (second : Bool) (elem : Nat) : Nat := 3 * 2 ^ 40 + 2 * 2 ^ 36 + core * 2 ^ 24 + b2n second * 2 ^ 23 + 72 * elem
def accPas (core : Nat) (second : Bool) (elem : Nat) : List Nat := (List.range 9).map fun i => accPa core second elem + 8 * i
def cardPa (id off : Nat) : Nat := 3 * 2 ^ 40 + 4 * 2 ^ 36 + 128 * id + off
def directoryPa (die rec : Nat) : Nat := 3 * 2 ^ 40 + 5 * 2 ^ 36 + die * 2 ^ 24 + 8 * rec
def imemPa (m : ImemId) (a : Nat) : Nat :=
  let i := match m with
    | .eng .cx c => 4 * c
    | .eng .vl c => 4 * c + 1
    | .eng .ve c => 4 * c + 2
    | .eng .mx c => 4 * c + 3
    | .nx d => 128 + d
    | .te => 136
    | .lc i => 137 + i
  3 * 2 ^ 40 + 3 * 2 ^ 36 + i * 2 ^ 18 + a

/-- MEM of a record for an SRAM word (R460); none is stated for the card store and the bounce directory, taken for core logic (log entry 15). -/
def sramMem (pa : Nat) : Nat :=
  if kindOf pa = 2 then 9 else match bits pa 39 36 with
    | 1 => 10
    | 2 => 11
    | 3 => 12
    | _ => 14

/-- ADDR of a record (R460): a PA, or the offset in an SRAM. -/
def recordAddr (cw : Nat) : Nat :=
  if kindOf cw < 3 then cw else match bits cw 39 36 with
    | 1 => cw % 2 ^ 25
    | 2 => cw % 2 ^ 24
    | 3 => cw % 2 ^ 18
    | 4 => cw % 2 ^ 23
    | 5 => cw % 2 ^ 24
    | _ => cw % 2 ^ 26

/-! ### Migration (R376) -/

/-- Where an access to a frame that a unit is copying is made. -/
def Migration.direct (m : Migration) (pa : Nat) : Nat :=
  let src := bits m.src.toNat 47 16 * 2 ^ 16
  let dst := bits m.dst.toNat 47 16 * 2 ^ 16
  let size := if m.big then 2 ^ 26 else 2 ^ 16
  if m.busy && decide (src ≤ pa) && decide (pa < src + size) && decide ((pa - src) / 1024 < m.cursor)
  then dst + (pa - src) else pa

/-- The address at which an access to a physical address is made. -/
def State.direct (s : State) (pa : Nat) : Nat :=
  (List.range 4).foldl (fun a n => if a = pa then (s.mig n).direct pa else a) pa

/-- The physical addresses whose accesses are made at an address: itself, or a place of a frame that a unit has copied. -/
def State.namesOf (s : State) (a : Nat) : List Nat :=
  let froms := (List.range 4).filterMap fun n =>
    let m := s.mig n
    let src := bits m.src.toNat 47 16 * 2 ^ 16
    let dst := bits m.dst.toNat 47 16 * 2 ^ 16
    if m.busy && decide (dst ≤ a) then some (src + (a - dst)) else none
  (a :: froms).filter fun pa => decide (s.direct pa = a)

/-- What is known of another package. -/
def State.far (s : State) (p : Nat) : Far := Tab.get s.fars p Far.reset

def State.setFar (s : State) (p : Nat) (x : Far) : State := { s with fars := Tab.set s.fars p x }

/-- The byte an access reads. -/
def State.rd (s : State) (pa : Nat) : Byte := Mem.get s.mem (s.direct pa)

/-- The bytes at addresses. -/
def State.rdAll (s : State) (pas : List Nat) : List Byte := pas.map s.rd

/-- The bytes from an address on. -/
def State.rdAt (s : State) (pa n : Nat) : List Byte := s.rdAll ((List.range n).map (pa + ·))

/-! ### Channels (R368, R369) -/

/-- The XOR-fold of an address. -/
def foldChannel (a : Nat) : Nat :=
  (List.range 8).foldl (fun x i => x ^^^ bits a (12 + 5 * i) (8 + 5 * i)) 0

/-- HBM or LPDDR channel of an address under a HASH (R368, R369). -/
def State.channel (s : State) (pa hash : Nat) : Nat :=
  let top := if kindOf pa = 0 then 35 else 39
  let a := pa % 2 ^ (top + 1)
  let lo := bits a 12 8
  let hi := a / 2 ^ 13
  let m := if kindOf pa = 0 then dieOf pa else 8
  match hash with
  | 0 => foldChannel a
  | 1 => lo
  | 2 => if lo = 31 then 31 else (lo + hi % 31) % 31
  | _ => (List.range 5).foldl (fun x i =>
      let row := Tab.get s.xmRows (m, i) 0 % (if m = 8 then 2 ^ 27 else 2 ^ 23)
      let b := (b2n (bit lo i) + popcount 27 (row &&& hi)) % 2
      x + b * 2 ^ i) 0

/-- The HASH under which a byte was last written; 0 where none is known. -/
def State.hashAt (s : State) (pa : Nat) : Nat :=
  if !s.hashed then 0
  else (((s.hist.find? fun e => e.writer.hash.isSome && e.old.any fun c => decide (c.1 = pa))).bind (·.writer.hash)).getD 0

/-- MEM of a physical address, and its channel under a HASH: that of the page it is reached through, else the one it was last written
with (R460). -/
def State.memVia (s : State) (pa : Nat) (hash : Option Nat) : Nat × Nat :=
  match kindOf pa with
  | 0 => (dieOf pa, s.channel pa (hash.getD (s.hashAt pa)))
  | 1 => (8, s.channel pa (hash.getD (s.hashAt pa)))
  | _ => (sramMem pa, 0)

/-! ### Codewords (R449 to R452) -/

/-- The codeword that holds a byte: 32 bytes of an array, 8 bytes of an SRAM. -/
def codewordOf (pa : Nat) : Nat := if 2 ≤ kindOf pa then pa / 8 * 8 else pa / 32 * 32

/-- How many wrong symbols (or bits) a codeword holds. -/
def State.wrong (s : State) (cw : Nat) : Nat := popcount 64 (Tab.get s.ecc cw 0)

/-- A byte lies in an uncorrectable codeword, or in a transfer that exceeded the limit (R453). -/
def State.badAt (s : State) (pa : Nat) : Bool :=
  let a := s.direct pa
  decide (2 ≤ s.wrong (codewordOf a)) || (decide (kindOf a < 2) && s.busBad.contains (a / 256))

/-- The codewords after bytes are written (R451, R452): a whole codeword is healed, a part heals a correctable one and
leaves an uncorrectable one as it is. `also` are bytes that the same command has written before, unit by unit (R307). -/
def eccAfter (ecc : Tab Nat Nat) (cells : List (Nat × Byte)) (also : List Nat := []) : Tab Nat Nat :=
  ecc.filter fun e =>
    let n := if 2 ≤ kindOf e.1 then 8 else 32
    let within := fun (xs : List Nat) => xs.eraseDups.filter fun a => decide (e.1 ≤ a) && decide (a < e.1 + n)
    let as := cells.map (·.1)
    (within as).isEmpty || (decide (2 ≤ popcount 64 e.2) && decide ((within (as ++ also)).length < n))

/-- Bytes written into an SRAM that physical memory does not hold, under their numbers: what that does to its words (R452). -/
def State.heal (s : State) (cells : List (Nat × Byte)) : State := { s with ecc := if s.ecc.isEmpty then s.ecc else eccAfter s.ecc cells }

/-- The 1 KiB sector of a memory's channel, as one number (R455). -/
def sectorKey (mc : Nat × Nat) (pa : Nat) : Nat :=
  (mc.1 * 32 + mc.2) * 2 ^ 32 + pa % 2 ^ 40 / 32768 % (if mc.1 = 8 then 2 ^ 25 else 2 ^ 21)

/-- The write sequence numbers after writes of bytes (R455), each with the channel it goes to: one write to each 64-byte piece. -/
def bumpSeq (t : Tab Nat Nat) (pas : List (Nat × (Nat × Nat))) : Tab Nat Nat :=
  (((pas.filter fun a => decide (kindOf a.1 < 2)).map fun a => (a.1 / 64, sectorKey a.2 a.1)).eraseDups).foldl
    (fun t k => Tab.set t k.2 ((Tab.get t k.2 0 + 1) % 65536)) t

/-- The counters of the channels after accesses to bytes (R378): 256 bytes for each transfer that they touch (R453), and, beside the other
counters, the accesses made since each was last read. -/
def tallied (t : Tab (Nat × Nat × Nat) Nat) (pas : List (Nat × (Nat × Nat))) : Tab (Nat × Nat × Nat) Nat :=
  (((pas.filter fun a => decide (kindOf a.1 < 2)).map fun a => (a.1 / 256, a.2)).eraseDups).foldl
    (fun t x => [(3, 256), (4, 1), (5, 1), (6, 1)].foldl (fun (t : Tab (Nat × Nat × Nat) Nat) k =>
      Tab.set t (x.2.1, x.2.2, k.1) (Tab.get t (x.2.1, x.2.2, k.1) 0 + k.2)) t) t

/-! ### A write in its place (R131, R303) -/

/-- The place that the next performed write takes in the order of writes. -/
def State.histNow (s : State) : Nat :=
  match s.hist with
  | [] => 0
  | e :: _ => e.seq + 1

/-- The byte that a write replaced. -/
def Wrote.before (e : Wrote) (a : Nat) : Option Byte := (e.old.find? fun c => decide (c.1 = a)).map (·.2)

/-- Addresses with the channels that a HASH gives them. -/
def State.viaChannels (s : State) (pas : List Nat) (hash : Option Nat) : List (Nat × (Nat × Nat)) :=
  (pas.filter fun pa => decide (kindOf pa < 2) && decide (pkgOf pa = s.pkg)).map fun pa => (pa, s.memVia pa hash)

/-- Writes to addresses are accepted (R455): the numbers of their sectors advance. -/
def State.numberWrites (s : State) (pas : List Nat) (hash : Option Nat) : State :=
  { s with seqNums := bumpSeq s.seqNums (s.viaChannels (pas.map s.direct) hash) }

/-- What the arrays keep of bytes written at addresses: memory, codewords, the write sequence numbers of the sectors (R455) where their
acceptance has not advanced them, the counters, each in the channel that the leaf's HASH gives. -/
def State.store (s : State) (cells : List (Nat × Byte)) (hash : Option Nat) (numbered : Bool := false) (also : List Nat := []) : State :=
  let via := s.viaChannels (cells.map (·.1)) hash
  { s with mem := Mem.setAll s.mem cells,
           ecc := if s.ecc.isEmpty then [] else eccAfter s.ecc cells also,
           seqNums := if numbered then s.seqNums else bumpSeq s.seqNums via,
           counts := tallied s.counts via }

/-- The bytes that a command of an agent has written so far: its writes of single units are one write of the command over a whole codeword
(R451, log entry 68). -/
def State.writtenBy (s : State) (w : Writer) : List Nat :=
  if w.who = .device then []
  else (s.hist.filter fun e => decide (e.writer.who = w.who) && decide (e.writer.at_ = w.at_)).flatMap fun e => e.old.map (·.1)

/-- Bytes written at the addresses where their accesses are made; the write takes its place among those performed. -/
def State.poke (s : State) (cells : List (Nat × Byte)) (by_ : Writer := {}) : State :=
  let cells := cells.map fun c => (s.direct c.1, c.2)
  { s.store cells by_.hash by_.numbered (if s.ecc.isEmpty then [] else s.writtenBy by_) with
    hist := ⟨s.histNow, by_, cells.map fun c => (c.1, Mem.get s.mem c.1)⟩ :: s.hist,
    hashed := s.hashed || decide (by_.hash.getD 0 ≠ 0) }

/-- A list keyed by addresses after n bytes are copied from one place to another: what stood at the old place stands at the new one too,
and what stood there is gone. -/
def copyKeys {α : Type} (src dst n : Nat) (t : List (Nat × α)) : List (Nat × α) :=
  (t.filter fun c => !(decide (dst ≤ c.1) && decide (c.1 < dst + n)))
  ++ t.filterMap fun c => if src ≤ c.1 ∧ c.1 < src + n then some (dst + (c.1 - src), c.2) else none

/-- Bytes copied as they stand (R376): each keeps its one order of writes (R131), so the writes performed at the old place, and what
loads have seen of them, count at the new one. -/
def State.copyRaw (s : State) (src dst n : Nat) : State :=
  let s := { s with
    hist := s.hist.map fun (e : Wrote) => ({ e with old := copyKeys src dst n e.old } : Wrote)
    views := s.views.map fun (v : Agent × View) => (v.1, (⟨v.2.log.map fun (k : Nat × Clock) =>
      (k.1, ({ k.2 with bytes := copyKeys src dst n k.2.bytes } : Clock)), copyKeys src dst n v.2.seen⟩ : View)) }
  s.store (cellsAt dst (Mem.bytes s.mem src n)) none

/-- Doublewords stored at a physical address, by the device itself. -/
def State.putDwords (s : State) (pa : Nat) (ds : List DWord) : State :=
  s.poke (cellsAt pa (ds.flatMap fun d => leBytes 8 d.toNat))

/-! ### Disagreeing HASH (R367, R369, log entry 13) -/

/-- Whether a write touched the byte that an address names under a HASH: at that address under the same HASH; under another,
at any address that the two hashes can put in one place of the channels (R368: the 32 that differ in bits 12 to 8). -/
def touches (hash pa : Nat) (e : Wrote) : Bool :=
  match e.writer.hash with
  | none => false
  | some h => e.old.any fun c =>
      decide (c.1 = pa) || (decide (h ≠ hash) && decide (c.1 / 8192 = pa / 8192) && decide (c.1 % 256 = pa % 256))

/-- Whether what a page of a HASH returns for a byte is undefined: the latest write that touched it was made under another
HASH, or a matrix row of HASH 3 has changed since. -/
def State.hashBad (s : State) (hash pa : Nat) : Bool :=
  if !s.hashed || decide (2 ≤ kindOf pa) then false
  else
    let latest := s.hist.find? (touches hash pa)
    (match latest with
      | some e => decide (e.writer.hash ≠ some hash)
      | none => false)
    || (decide (hash = 3) && (match Tab.find? s.rowSeq (if kindOf pa = 1 then 8 else dieOf pa) with
      | some n => (match latest with
        | some e => decide (e.writer.at_ < n)
        | none => true)
      | none => false))

/-- The bytes read through a page of a HASH: an undefined byte is a free value. -/
def State.hashBytes (s : State) (hash : Nat) (pas : List Nat) (bs : List Byte) : State × List Byte :=
  let bad := fun (pa : Nat) => s.hashBad hash (s.direct pa)
  if s.hashed && pas.any bad then
    let (n, s') := s.draw
    (s', (List.range bs.length).map fun i => if bad (pas.getD i 0) then Config.freeByte n i else bs.getD i 0)
  else (s, bs)

/-- A matrix row of a memory is written (R369): it applies to accesses accepted afterwards; the data of pages with HASH 3 there is
undefined, also what an access accepted before still writes. -/
def State.rowChanged (s : State) (memNo : Nat) : State :=
  { s with hashed := true, rowSeq := Tab.set s.rowSeq memNo s.cmdSeq }

end Sys2Proof.Machine
end

