-- ==== Sys2Proof/Machine/Ops.lean ====
section
/-!
DEFINITION. The named operations over tables, memory, registers and time, and taking an exception (one operation,
`raise`, spec/13_traps_preemption_contexts.md R333 to R340, R355) with the returns from one (ERET, RESUME) beside it.
-/

namespace Sys2Proof

/-! ### Units -/

/-- Context number: 0 L, 1 C, 2 S (R336). -/
def Ctx.num : Ctx → Nat
  | .l => 0
  | .c => 1
  | .s => 2

/-- STAT.ENG of a unit (R77). -/
def UnitId.engCode : UnitId → Nat
  | .ctx _ .l => 0
  | .ctx _ .c => 1
  | .ctx _ .s => 2
  | .eng .cx _ => 3
  | .eng .vl _ => 4
  | .eng .ve _ => 5
  | .eng .mx _ => 6
  | .nx _ => 7
  | .te => 8

/-- COREID<7:0> of a unit (R75). -/
def UnitId.coreId : UnitId → Nat
  | .ctx i _ => 64 + i
  | .eng _ c => c
  | .nx d => 32 + d
  | .te => 40

/-- The instruction memory a unit fetches from (R56, R252). -/
def UnitId.imem : UnitId → ImemId
  | .eng e c => .eng e c
  | .nx d => .nx d
  | .te => .te
  | .ctx i _ => .lc i

/-- The half in which a unit decodes private words (R56). -/
def UnitId.half : UnitId → Half
  | .eng .cx _ => .cx
  | .eng .vl _ => .vl
  | .eng .ve _ => .ve
  | .eng .mx _ => .mx
  | .nx _ => .nx
  | .te => .te
  | .ctx _ _ => .lc

/-- Whether a unit is a control context. -/
def UnitId.isCtx : UnitId → Bool
  | .ctx _ _ => true
  | _ => false

/-- Whether a unit is an engine stream of a job: CX, VL, VE, MX or NX. -/
def UnitId.isEngine : UnitId → Bool
  | .eng _ _ => true
  | .nx _ => true
  | _ => false

/-- The endpoint of a stream (R105). -/
def UnitId.endpoint : UnitId → Endpoint
  | .eng .cx _ => .cx
  | .eng .vl _ => .vl
  | .eng .ve _ => .ve
  | .eng .mx _ => .mx
  | .nx _ => .nx
  | _ => .ctl

end Sys2Proof

namespace Sys2Proof.Machine

/-! ### General registers (R68) -/

/-- g[n]; g0 reads as zero. -/
def Stream.rg (x : Stream) (n : BitVec 5) : DWord := if n = 0 then 0 else x.g[n.toNat]'(n.isLt)

/-- g[n] := v; a write to g0 is discarded. -/
def Stream.wg (x : Stream) (n : BitVec 5) (v : DWord) : Stream :=
  if n = 0 then x else { x with g := x.g.set n.toNat v n.isLt }

/-- g[n] of the executing stream. -/
def State.rg (s : State) (n : BitVec 5) : DWord := s.me.rg n

/-- g[n] := v in the executing stream. -/
def State.wg (s : State) (n : BitVec 5) (v : DWord) : State := s.setMe (s.me.wg n v)

/-- h[n]. -/
def Stream.hr (x : Stream) (n : BitVec 4) : Option Handle := x.h[n.toNat]'(n.isLt)

/-- h[n] := v. -/
def Stream.wh (x : Stream) (n : BitVec 4) (v : Option Handle) : Stream :=
  { x with h := x.h.set n.toNat v n.isLt }

/-! ### Time and edges (R9, R164, R283) -/

/-- PCYC, 64 bits (R118). -/
def State.pcyc (s : State) : DWord := dw (s.now / 10)

/-- PCYC as a number. -/
def State.tick (s : State) : Nat := s.now / 10

/-- An engine cycle in tenths of a tick, by level: relaxed 15, medium 10, dense 8 (R164). -/
def cycleLen (level : Nat) : Nat := if level = 1 then 15 else if level = 3 then 8 else 10

/-- The first engine edge at or after a time, in tenths of a tick (R164). -/
def edgeAt (level t : Nat) : Nat := ceilDiv t (cycleLen level) * cycleLen level

/-- The core whose resources a stream uses: its own, or, for an NX stream, the core of its endpoint (R105). -/
def State.coreOf (s : State) (u : UnitId) : Nat :=
  match u with
  | .eng _ c => c
  | .nx _ => (s.stream u).core
  | _ => 0

/-- The streams that a job may have on a core, in the order CX, VL, VE, MX, NX (R319 ENGINES). -/
def coreUnits (c : Nat) : List UnitId :=
  [.eng .cx c, .eng .vl c, .eng .ve c, .eng .mx c, .nx (c / 4)]

/-- The streams of a job on a core. -/
def State.jobUnits (s : State) (j c : Nat) : List UnitId :=
  (coreUnits c).filter fun u => (s.stream u).job == some j && (s.coreOf u == c)

/-- Whether a stream has neither ended nor never started. -/
def RunState.live : RunState → Bool
  | .off => false
  | .halted => false
  | _ => true

/-! ### What is ordered before an agent's accesses (R298 to R300) -/

/-- The agent that a unit is: a stream of its job, a context. -/
def State.agentOf (s : State) (u : UnitId) : Agent := .unit u ((s.stream u).job.getD 0)

/-- The place before which an agent's accesses are ordered for a scope. -/
def Clock.get (k : Clock) (a : Agent) (scope : Nat) : Nat := Tab.get k.upTo (a, scope) 0

/-- The clock with an agent's accesses before a place ordered, for a scope. -/
def Clock.raise (k : Clock) (a : Agent) (scope n : Nat) : Clock :=
  if n ≤ k.get a scope then k else { k with upTo := Tab.set k.upTo (a, scope) n }

/-- The clock with the writes of some bytes before a place among those performed ordered. -/
def Clock.over (k : Clock) (keys : List Nat) (n : Nat) : Clock :=
  { k with bytes := keys.foldl (fun t a => if n ≤ Tab.get t a 0 then t else Tab.set t a n) k.bytes }

/-- What is ordered by one of two clocks. -/
def Clock.join (k l : Clock) : Clock :=
  let m := l.upTo.foldl (fun (k : Clock) x => k.raise x.1.1 x.1.2 x.2) k
  l.bytes.foldl (fun (k : Clock) x => k.over [x.1] x.2) m

/-- The view of an agent. -/
def State.view (s : State) (a : Agent) : View := Tab.get s.views a View.reset

def State.setView (s : State) (a : Agent) (v : View) : State := { s with views := Tab.set s.views a v }

/-- What is ordered before an agent's accesses now. -/
def View.now (v : View) : Clock := ((v.log.head?).map (·.2)).getD Clock.empty

/-- What was ordered before the one that has a place in the order of commands and accepted writes. -/
def View.at_ (v : View) (n : Nat) : Clock := ((v.log.find? fun x => decide (x.1 ≤ n)).map (·.2)).getD Clock.empty

/-- A clock acquired by an agent: it is ordered before what the agent does from now on. -/
def State.acquire (s : State) (a : Agent) (k : Clock) : State :=
  let v := s.view a
  s.setView a { v with log := (s.cmdSeq, v.now.join k) :: v.log.filter fun x => decide (x.1 < s.cmdSeq) }

/-- A clock acquired by what has a place in the order of an agent's commands: it is ordered before what comes after that place. -/
def State.acquireFrom (s : State) (a : Agent) (n : Nat) (k : Clock) : State :=
  let v := s.view a
  let later := (v.log.filter fun x => decide (n < x.1)).map fun x => (x.1, x.2.join k)
  s.setView a { v with log := later ++ (n, (v.at_ n).join k) :: v.log.filter fun x => decide (x.1 < n) }

/-- An acquire at a scope, or a FENCE: what the agent did before it is ordered before what it does after it too (R300). -/
def State.acquireOwn (s : State) (a : Agent) (scope : Nat) (k : Clock) : State := s.acquire a (k.raise a scope s.cmdSeq)

/-- What a release with a place in the order of its agent's commands orders, for a scope (R299). -/
def State.releaseOf (s : State) (a : Agent) (n scope : Nat) : Clock := ((s.view a).at_ n).raise a scope (n + 1)

/-- What a release made now orders; a hand-off orders for the scope of each page that was accessed (0). -/
def State.releaseNow (s : State) (a : Agent) (scope : Nat := 0) : Clock := (s.view a).now.raise a scope s.cmdSeq

/-- A view that begins with what a hand-off released (R271). -/
def State.freshView (s : State) (a : Agent) (k : Clock) : State := s.setView a ⟨[(s.cmdSeq, k)], []⟩

/-- What every write performed so far is ordered by: for a unit that is loaded from outside. -/
def State.allClock (s : State) : Clock :=
  s.hist.foldl (fun (k : Clock) e => (k.raise e.writer.who 3 s.cmdSeq).over (e.old.map (·.1)) s.histNow) Clock.empty

/-! ### Stopping an instruction -/

/-- The layouts of EWORD (R82, R169, R363). -/
inductive EwordForm where
  | std (point field : Nat)
  | raw (w : DWord)
  deriving DecidableEq, Repr, Inhabited

/-- What else a cause brings about: an error record of a kind at an address, reached through a page of a HASH (R450, R459), or a request
to ungate a core (R411). -/
inductive TrapNote where
  | none
  | errorRecord (kind pa : Nat) (hash : Option Nat)
  | ungate (core : Nat)
  deriving DecidableEq, Repr, Inhabited

/-- A cause with its EINFO (`none` where the spec states none: a free value, log entry 11), EWORD and note. -/
structure Trap where
  cause : Cause
  einfo : Option DWord
  eword : EwordForm
  note : TrapNote := .none
  deriving DecidableEq, Repr, Inhabited

/-- How an instruction ends short of completing: it raises a cause, in the state in which it began or
in one that a vote or another package's answer has left; it waits (WaitUntil, R84), leaving a state in which
only its place in a line of waiters may have changed; or it has taken a part of its effect and goes on at its next turn. -/
inductive Stop where
  | trap (t : Trap)
  | trapIn (s : State) (t : Trap)
  | wait (s : State)
  | goOn (s : State)
  deriving Repr

/-- A computation of an instruction's effect. -/
abbrev M (α : Type) := Except Stop α

/-- Fault(c) with EINFO, found at the issue checks (POINT 0). -/
def fault {α : Type} (c : Cause) (einfo : DWord) : M α := .error (.trap ⟨c, some einfo, .std 0 0, .none⟩)

/-- Fault(c) where the spec states no EINFO. -/
def faultFree {α : Type} (c : Cause) : M α := .error (.trap ⟨c, none, .std 0 0, .none⟩)

/-- Fault(c) at another point of R82. -/
def faultAt {α : Type} (c : Cause) (einfo : DWord) (point field : Nat) : M α :=
  .error (.trap ⟨c, some einfo, .std point field, .none⟩)

/-- WaitUntil(b): the instruction waits while b is false. -/
def waitUntil (s : State) (b : Bool) : M Unit := if b then .ok () else .error (.wait s)

/-- if b then Fault(c) end, with EINFO. -/
def faultIf (b : Bool) (c : Cause) (einfo : DWord) : M Unit := if b then fault c einfo else .ok ()

/-! ### Taking an exception -/

/-- The code of a cause (R80). -/
def Cause.code : Cause → Nat
  | .illegal => 0x01
  | .runoff => 0x02
  | .misalign => 0x03
  | .handleInvalid => 0x04
  | .handleRevoked => 0x05
  | .pageNotResident => 0x06
  | .tableNotResident => 0x07
  | .permission => 0x08
  | .nms => 0x09
  | .latticeType => 0x0A
  | .runawayTrigger => 0x0B
  | .scheduleMiss => 0x0C
  | .scaleInvalid => 0x0D
  | .headroom => 0x0E
  | .promotionLimit => 0x0F
  | .tokenOverflow => 0x10
  | .liningMismatch => 0x11
  | .tmrSplit => 0x12
  | .deadlineMiss => 0x13
  | .remoteGated => 0x14
  | .uncorrectable => 0x15
  | .decodeInconsistent => 0x16
  | .trellisWrite => 0x17
  | .maskStack => 0x18
  | .lockSelf => 0x19
  | .handleBound => 0x1A
  | .format => 0x1B

/-- The codes whose causes are held in an engine stream (R335); 0 is a software TRAP. -/
def heldCode (code : Nat) : Bool := [0, 0x06, 0x07, 0x05, 0x14, 0x15, 0x12].contains code

/-- The standard EWORD (R82): TICK, POINT, LQN, SQN (of CX and NX the staged data that is not yet written), FIELD. -/
def State.engineWord (s : State) (u : UnitId) (point field : Nat) : DWord :=
  let c := s.core (s.coreOf u)
  let filled := (c.lq.filter (·.filled)).length
  let lqn := match u with
    | .eng .vl _ => filled
    | .eng .ve _ => filled
    | _ => 0
  let sqn := match u with
    | .eng .vl _ => c.sq.length
    | .eng .ve _ => c.sq.length
    | .eng .cx _ => min 2 (c.cx.filter fun f => f.parts.any fun p => !p.dst.isEmpty).length
    | .nx d => min 2 (((s.die d).sends.filter fun x => decide (x.stage ≠ 3)).length
        + ((s.die d).route.map fun r => b2n !r.parts.isEmpty).getD 0)
    | _ => 0
  dw (s.tick % 2 ^ 32 * 2 ^ 32 + point * 2 ^ 24 + lqn % 256 * 2 ^ 16 + sqn % 256 * 2 ^ 8 + field % 256)

/-! ### Error records (R459 to R462) -/

/-- What an event tells the management controller. -/
structure Event where
  kind : Nat
  sev : Nat
  memNo : Nat
  chan : Nat
  unit : Nat
  addr : Nat
  retry : Nat
  laneOld : Nat
  laneNew : Nat
  syndrome : Nat
  card : Nat
  deriving DecidableEq, Repr, Inhabited

/-- An event of core logic (memory 14), of no address. -/
def logicEvent (kind sev unit card : Nat) : Event := ⟨kind, sev, 14, 0, unit, 0, 0, 0, 0, 0, card⟩

/-- The record's time (R461): PTPSEC, PTPNS, SYNC, from the latest PPS pair. -/
def State.recordTime (s : State) : Nat × Nat × Nat :=
  match s.mgc.pps with
  | none => (0, 0, 0)
  | some (c, sec, ns) =>
    let t := ns + (s.tick - c) * 10 / 17
    (sec + t / 1000000000, t % 1000000000, 1)

/-- The eight doublewords of a record (R460). -/
def State.recordWords (s : State) (e : Event) (supp : Nat) : List DWord :=
  let (sec, ns, sync) := s.recordTime
  [ dw (s.mgc.seq % 2 ^ 32 * 2 ^ 32 + e.kind * 2 ^ 24 + e.sev * 2 ^ 16 + min s.mgc.lost 255 * 2 ^ 8 + min supp 255),
    dw (sec * 2 ^ 16), dw (ns * 2 ^ 32 + sync), s.pcyc,
    dw (s.pkg * 2 ^ 58 + e.memNo * 2 ^ 54 + e.chan * 2 ^ 48 + e.unit * 2 ^ 40), dw (e.addr % 2 ^ 48),
    dw (e.retry * 2 ^ 56 + e.laneOld * 2 ^ 48 + e.laneNew * 2 ^ 40 + e.syndrome % 2 ^ 32), dw (e.card % 2 ^ 16)]

/-- PCYC ticks of one second (R454). -/
def secondTicks : Nat := 1700000000

/-- A record and then the count of a ring, by the device: the count is a release at PKG scope of the record (R317, R459). -/
def State.ringWrite (s : State) (recPa countPa : Nat) (bs : List Byte) (n : Nat) : State :=
  let cells := cellsAt recPa bs
  let s := s.poke cells { scope := 2 }
  s.poke (cellsAt countPa (leBytes 8 n))
    { scope := 2, rel := some 2, clock := Clock.empty.over (cells.map fun c => s.direct c.1) s.histNow }

/-- The records made in this second. -/
def State.madeNow (s : State) : Nat := if s.mgc.second = s.tick / secondTicks then s.mgc.inSecond else 0

/-- The management controller makes a record (R459): to its log of 4,096 and to the firmware ring, the record before the
count; beyond 65,536 in a second it only counts a lost event. -/
def State.record (s : State) (e : Event) (supp : Nat := 0) : State :=
  let sec := s.tick / secondTicks
  let made := s.madeNow
  if 65536 ≤ made then { s with mgc := { s.mgc with lost := s.mgc.lost + 1 } }
  else
    let r := s.recordWords e supp
    let ring := bits s.ports.errBase.toNat 47 16 * 2 ^ 16
    let n := s.mgc.ringCount
    let s := s.ringWrite (ring + 64 + 64 * (n % 16383)) ring (r.flatMap fun d => leBytes 8 d.toNat) (n + 1)
    { s with mgc := { s.mgc with log := (r :: s.mgc.log).take 4096, seq := s.mgc.seq + 1, ringCount := n + 1,
                                 lost := 0, second := sec, inSecond := made + 1 } }

/-- An event of an array (R459, R462: kinds 1, 2, 7 and 8) at a codeword of this package: a corrected one at a codeword that produced a
record within the last second is only counted; a record that is made carries what its channel counted. -/
def State.arrayRecord (s : State) (kind unit cw syndrome card : Nat) (mc : Nat × Nat) : State :=
  let corrected := decide (kind = 1) || decide (kind = 7)
  let c := s.chan mc.1 mc.2
  if corrected && ((Tab.find? s.mgc.lastArray cw).any fun t => decide (s.tick < t + secondTicks)) then
    s.setChan mc.1 mc.2 { c with supp := c.supp + 1 }
  else
    let e : Event := ⟨kind, if corrected then 0 else 1, mc.1, mc.2, unit, cw, 0, 0, 0, syndrome, card⟩
    if 65536 ≤ s.madeNow then s.record e
    else
      let r := (s.record e c.supp).setChan mc.1 mc.2 { c with supp := 0 }
      { r with mgc := { r.mgc with lastArray := Tab.set r.mgc.lastArray cw s.tick } }

/-- The physical address of save slot n (R348). -/
def State.slotPa (s : State) (n : Nat) : Nat := bits s.ports.saveBase.toNat 47 16 * 2 ^ 16 + 0x2400000 * n

/-- UNIT of a notice and of a save header (R338): global core index, 40 for TE, 64 + i for LCi. -/
def State.unitCode (s : State) : UnitId → Nat
  | .eng _ c => c
  | .nx d => (s.stream (.nx d)).core
  | .te => 40
  | .ctx i _ => 64 + i

/-- CARD of a notice (R338): the card id, 0xFFFF for a context or TE. -/
def State.cardCode (s : State) (u : UnitId) : Nat :=
  match (s.stream u).job with
  | some j => match s.job? j with
    | some x => x.card
    | none => 0xFFFF
  | none => 0xFFFF

/-- The trap record in a slot's header (R334, R351). -/
def State.putRecord (s : State) (slot kind live : Nat) (u : UnitId) (double : Bool) : State :=
  let x := s.stream u
  let d0 := 2 ^ 63 + kind * 2 ^ 60 + s.unitCode u % 256 * 2 ^ 40 + live % 2 ^ 24 * 2 ^ 16 + s.cardCode u % 2 ^ 16
  s.putDwords (s.slotPa slot)
    ([dw d0, x.cause, x.epc, x.einfo, x.ecmd, x.eword, 0, 0, 0, dw (b2n double)] ++ List.replicate 22 0)

/-! ### Stream blocks (R352, R353) -/

/-- The HCHK word of a handle register (R128). -/
def hchkWord : Option Handle → Nat
  | none => 0
  | some h => match h.state with
    | .pending _ => 2
    | .walkfault c _ _ _ => c.code * 2 ^ 18 + 2 ^ 17 + b2n h.revoked * 4
    | .valid p => b2n p.writable * 2 ^ 16 + (if p.bits = 36 then 2 else if p.bits = 26 then 1 else 0) * 2 ^ 13
        + p.tier * 2 ^ 11 + b2n p.trellis * 2 ^ 10 + b2n p.watched * 2 ^ 9 + p.ltype * 2 ^ 5 + p.scope * 2 ^ 3
        + b2n h.revoked * 4 + b2n (!h.revoked)

/-- STAT of a unit (R77): ENG; OFL of an MX stream, SAT of an MX or VE stream, TH, and for MX the modes of its buffers. -/
def State.stat (s : State) (u : UnitId) : DWord :=
  let x := s.stream u
  let m := (s.core (s.coreOf u)).mx
  let flags := match u with
    | .eng .mx _ => b2n x.ofl * 2 ^ 9 + b2n x.sat * 2 ^ 8 + b2n m.acc1.fa * 2 + b2n m.acc0.fa
    | .eng .ve _ => b2n x.sat * 2 ^ 8
    | _ => 0
  dw (u.engCode * 2 ^ 12 + flags + b2n x.th * 2 ^ 4)

/-- A handle image (R353): page VA, physical base, HCHK word, 0. -/
def handleImage (h : Option Handle) : List DWord :=
  match h with
  | none => [0, 0, 0, 0]
  | some x => match x.state with
    | .pending _ => [x.va &&& 0xFFFFFFFFFFFFFF, 0, dw (hchkWord h), 0]
    | .walkfault _ _ va _ => [dw (va % 2 ^ 56), 0, dw (hchkWord h), 0]
    | .valid p => [dw (p.va % 2 ^ 56), dw p.pa, dw (hchkWord h), 0]

/-- The registers of a stream block, as (offset, doublewords) (R352): what every stream has. -/
def State.streamBlock (s : State) (u : UnitId) : List (Nat × List DWord) :=
  let x := s.stream u
  [ (0, x.g.toList.set 0 0),
    (0x100, x.pc :: dw ((x.jl.map (·.count)).getD 0) :: x.lp.toList.flatMap fun l => [l.count, l.start, l.stop]),
    (0x180, [s.stat u, x.cause, x.epc, x.einfo, x.ecmd, x.eword] ++ x.tp.toList.drop 1 ++ [x.vt, x.wto, x.gen.setWidth 64]),
    (0x200, x.h.toList.flatMap handleImage) ]

/-- The offset of each stream's block in a slot: CX, VL, VE, MX, NX; a control context uses the first (R349). -/
def blockOf (u : UnitId) : Nat :=
  0x1000 + 2048 * (match u with
    | .eng .vl _ => 1
    | .eng .ve _ => 2
    | .eng .mx _ => 3
    | .nx _ => 4
    | _ => 0)

/-- Parts of a block stored from a physical address on. -/
def State.putBlock (s : State) (pa : Nat) (parts : List (Nat × List DWord)) : State :=
  parts.foldl (fun s p => s.putDwords (pa + p.1) p.2) s

/-- The lowest free engine slot of the pool (R347). -/
def State.freeSlot (s : State) : Option Nat :=
  ((List.range (s.ports.saveSlots - 54)).map (· + 54)).find? fun n => s.saved.all fun x => decide (x.slot ≠ n)

/-- A hold's entry of the save pool. -/
def holdEntry (slot kind : Nat) (u : UnitId) (job : Option Nat) (card code : Nat) (cause : DWord) (double ending : Bool) :
    Saved where
  slot := slot
  kind := kind
  unit := u
  job := job
  card := card
  code := code
  cause := cause
  noticed := false
  double := double
  ending := ending
  live := 0
  gcut := 0
  streams := []
  ve := none
  mx := none
  lq := []
  sq := []
  sb := []
  tokens := []
  ways := []
  pad := []
  image := []

/-- The bytes of a slot of the pool, as accesses to it find them (R376), by their place in the slot. -/
def State.slotImage (s : State) (n : Nat) : Mem :=
  let base := s.slotPa n
  let inside := fun (pa : Nat) => decide (base ≤ pa) && decide (pa < base + 0x2400000)
  Mem.setAll [] (s.mem.filterMap fun x => ((s.namesOf x.1).find? inside).map fun pa => (pa - base, x.2))

/-- The device has written a slot. -/
def State.noteImage (s : State) (n : Nat) : State :=
  { s with saved := s.saved.map fun y => if y.slot = n then { y with image := s.slotImage n } else y }

/-- A slot holds what the device wrote. -/
def State.slotIntact (s : State) (y : Saved) : Bool := decide (s.slotImage y.slot = y.image)

/-- A unit with undefined registers (R351, log entry 33): what it is and whether it runs stay. -/
def Stream.undefinedBy (x f : Stream) : Stream :=
  { f with run := x.run, job := x.job, core := x.core, root := x.root, a := x.a, word := x.word, pfx := x.pfx,
           queued := none, waiting := none, pc := f.pc &&& ~~~3, epc := f.epc &&& ~~~3 }

/-- The buffers that a job's NRECV or NRED posted on a die, and that no message has matched, are withdrawn. -/
def State.unpost (s : State) (d j : Nat) : State :=
  let keep := fun (r : Receiver) => decide (r.kind = 1) || decide (r.job ≠ j) || !r.matched.isEmpty
  s.setDie d { s.die d with receivers := (s.die d).receivers.filter keep }

/-- A lock has been granted to a unit whose LDLK has not completed (R138). -/
def Lock.grantedTo (l : Lock) (u : UnitId) : Bool := l.granted && decide (l.owner = u)

/-- A unit leaves the lines in which it waits: for locks (R138; one that was granted to it is free again, R130), and of the posters to a core
(R258). -/
def State.leaveLines (s : State) (u : UnitId) : State :=
  if s.cores.all fun kc => (kc.2.lockWaiters.all fun w => decide (w.2.2 ≠ u)) && (kc.2.locks.all fun l => !l.grantedTo u)
      && kc.2.posters.all fun p => decide (p.1 ≠ u) then s
  else { s with cores := s.cores.map fun kc => (kc.1, { kc.2 with
    lockWaiters := kc.2.lockWaiters.filter fun w => decide (w.2.2 ≠ u),
    locks := kc.2.locks.filter fun l => !l.grantedTo u,
    posters := kc.2.posters.filter fun p => decide (p.1 ≠ u) }) }

/-- A unit's locks leave it: each is free when the stores that the unit has had accepted are performed (R140). -/
def State.leaveLocks (s : State) (u : UnitId) : State :=
  if s.cores.all fun kc => kc.2.locks.all fun l => decide (l.owner ≠ u) then s
  else { s with cores := s.cores.map fun kc => (kc.1, { kc.2 with
    locks := kc.2.locks.map fun l => if l.owner = u ∧ l.leaving.isNone then { l with leaving := some s.cmdSeq } else l }) }

/-- A stream stops for good: HALT, or the end of its job. Its unstarted command is discarded. When it is the last
stream of its job on its core, the job leaves the job queue (R119, R289). -/
def State.haltStream (s : State) (u : UnitId) : State :=
  let x := s.stream u
  let s := ((s.setStream u { x with run := .halted, queued := none, waiting := none }).leaveLines u).leaveLocks u
  match x.job with
  | none => s
  | some j =>
    let c := s.coreOf u
    let s := match u with
      | .nx d => s.unpost d j
      | _ => s
    if (s.jobUnits j c).all fun v => !(s.stream v).run.live then
      let s := s.setCore c { s.core c with jobq := (s.core c).jobq.filter (· ≠ j) }
      match s.job? j with
      | none => s
      | some jb => s.setJob j { jb with insts := jb.insts.map fun i =>
          if i.core = c ∧ i.state = .running then { i with state := .halted } else i }
    else s

/-- The VALID bit of a slot's header is cleared: the slot is free (R351). -/
def State.freeHeader (s : State) (slot : Nat) : State :=
  let top := s.slotPa slot + 7
  s.poke [(top, s.rd top &&& 0x7F)]

/-- Save slots freed (R339, R347, R355). -/
def State.dropSlots (s : State) (gone : Saved → Bool) : State :=
  let s := (s.saved.filter gone).foldl (fun s y => s.freeHeader y.slot) s
  { s with saved := s.saved.filter fun y => !gone y }

/-- A job ends with a cause (R355): every stream of every instance stops, unstarted commands go, instances not yet
running leave their queues, saved instances give up their slots. What has started finishes, and JOB_COMPLETE follows. -/
def State.endJob (s : State) (j code : Nat) : State :=
  match s.job? j with
  | none => s
  | some jb =>
    let code := if jb.cause = 0 then code else jb.cause
    let s := s.setJob j { jb with cause := code, ending := true, phase := none,
                                  insts := jb.insts.map fun i =>
                                    if i.state = .running then i else { i with state := .halted } }
    let s := (s.streams.map (·.1)).foldl
      (fun s u => if (s.stream u).job = some j ∧ (s.stream u).run.live then s.haltStream u else s) s
    let clear := fun (k : Core) =>
      { k with jobq := k.jobq.filter (· ≠ j), cut := k.cut.filter fun n => decide (n ≠ j) }
    { s.dropSlots (fun x => decide (x.job = some j) && !x.ending) with
      cores := (s.dropSlots fun x => decide (x.job = some j) && !x.ending).cores.map fun kc => (kc.1, clear kc.2) }

/-- Whether a unit's cause is held (R335, R340): always in a context and while a handler runs; in an engine stream
or TE by the code. -/
def State.isHeld (s : State) (u : UnitId) (code : Nat) : Bool :=
  u.isCtx || (s.stream u).th || heldCode code

/-- The unit stops at the faulting instruction and holds, its trap record in the slot; a control context's stream block
too (R336, R349). -/
def State.holdIn (s : State) (u : UnitId) (slot : Nat) : State :=
  let x := s.stream u
  let s := s.setStream u { x with run := .held slot, waiting := none }
  let e := holdEntry slot 1 u x.job (s.cardCode u) (s.unitCode u) x.cause x.th false
  let s := { s with saved := s.saved.filter (fun (y : Saved) => decide (y.slot ≠ slot)) ++ [e] }
  let s := s.putRecord slot 1 0 u x.th
  (if u.isCtx then s.putBlock (s.slotPa slot + 0x1000) (s.streamBlock u) else s).noteImage slot

/-- Another unit's hold has taken a slot. -/
def State.takenBy (s : State) (slot : Nat) (u : UnitId) : Bool :=
  s.saved.any fun y => decide (y.slot = slot) && decide (y.kind = 1) && decide (y.unit ≠ u)

/-- The slot that a cut in progress keeps for the unit's instance (R342): that of its own core, while no other unit of it is held in it
(log entry 36). -/
def State.cutSlotOf (s : State) (u : UnitId) : Option Nat :=
  match (s.stream u).job with
  | some j => if (s.core (s.coreOf u)).cut = some j then ((s.job? j).bind (·.cutSlot)).filter fun n => !s.takenBy n u else none
  | none => none

/-- The trap path (R335, R336, R340, R355), once the registers of R84 are written. -/
def State.trapPath (s : State) (u : UnitId) (code : Nat) : State :=
  let x := s.stream u
  match u with
  | .ctx i k => s.holdIn u (3 * i + k.num)
  | _ =>
    let slot := match s.cutSlotOf u with
      | some n => some n
      | none => s.freeSlot
    if s.isHeld u code && slot.isSome then s.holdIn u (slot.getD 0)
    else
      let s := match s.freeSlot with
        | some n =>
          let e := holdEntry n 1 u x.job (s.cardCode u) (s.unitCode u) x.cause x.th true
          ({ s with saved := s.saved ++ [e] }).putRecord n 1 0 u x.th
        | none => s
      match x.job with
      | some j => s.endJob j code
      | none => s.haltStream u

/-- Fault and every other way into the trap path (R84, R114, R333, R334): CAUSE, EPC, EINFO, ECMD and EWORD of the
unit, then the trap path. What a command that has not issued had captured is gone: it is reached again (R84). -/
def State.raise (s : State) (u : UnitId) (code : Nat) (asynch : Bool) (epc einfo eword : DWord) : State :=
  let x := s.stream u
  let cause := dw (code + b2n asynch * 2 ^ 8 + u.engCode * 2 ^ 12)
  let s := s.setStream u { x with cause := cause, epc := epc, einfo := einfo, ecmd := dw x.cmdIndex, eword := eword, queued := none }
  (s.leaveLines u).trapPath u code

/-- The kind of the error record of an uncorrectable byte (R462). -/
def badKind (pa : Nat) : Nat := if 2 ≤ kindOf pa then 10 else 2

/-- An uncorrectable codeword is recorded (R450, R462) by the management controller of its package; one of a transfer that exceeded the
limit has its record already (R453). -/
def State.recordBad (s : State) (k pa unit card : Nat) (hash : Option Nat) : State :=
  if decide (kindOf pa < 3) && decide (pkgOf pa ≠ s.pkg) then s
  else if k = 2 ∧ s.busBad.contains (pa / 256) then { s with busBad := s.busBad.filter fun b => decide (b ≠ pa / 256) }
  else if k = 2 then s.arrayRecord 2 unit pa (Tab.get s.ecc pa 0) card (s.memVia pa hash)
  else s.record ⟨k, 1, sramMem pa, 0, unit, recordAddr pa, 0, 0, 0, 0, card⟩

/-- Reduced service, until bring-up step S11 (R468). -/
def State.reduced (s : State) : Bool := decide (s.mgc.stepDone < 11)

/-- What a cause's note brings about, and the records of R462 for a failed vote and a lining mismatch. -/
def State.noteTrap (s : State) (t : Trap) : State :=
  let unit := s.unitCode s.cur
  let card := s.cardCode s.cur
  let s := match t.note with
    | .none => s
    | .errorRecord k pa hash => s.recordBad k pa unit card hash
    | .ungate c => s.askUngate c
  match t.cause with
  | .tmrSplit => s.record (logicEvent 12 1 unit card)
  | .liningMismatch => s.record (logicEvent 13 1 unit card)
  | _ => s

/-- MX of a core has commands that it does not yet know to be free of faults: their operands may still change (R165, R168). -/
def State.mxOpen (s : State) (u : UnitId) : Bool :=
  match u with
  | .eng .mx c => (s.core c).mx.flight.any fun f => !f.pieces.isEmpty
  | _ => false

/-- The executing instruction raises a cause (Fault, R84): EPC is the PC, the address of its first prefix (R61). An
EINFO that the spec does not state is a free value (log entry 11). -/
def State.trapNow (s : State) (t : Trap) : State :=
  let e := t.einfo.getD (Config.freeWord s.fresh)
  let s := if t.einfo.isSome then s else { s with fresh := s.fresh + 1 }
  let w := match t.eword with
    | .std p f => s.engineWord s.cur p f
    | .raw w => w
  (s.noteTrap t).raise s.cur t.cause.code false s.me.pc e w

/-- The executing instruction raises a cause; a word of MX does when every command before it is known to be free of faults (R165). -/
def takeTrap (s : State) (t : Trap) : State := if s.mxOpen s.cur then s else s.trapNow t

/-- The executing instruction waits: when it began to is kept. -/
def State.waitHere (s : State) (limit : Option Nat) : State :=
  s.setMe { s.me with waiting := some (s.me.waiting.getD ⟨s.now, limit⟩) }

/-- What an instruction's computation leads to: its next state, the state after the cause it raised, or the state in
which it waits (R84: it restarts from its beginning). -/
def finish (s : State) (r : M State) : Host.Outcome State Fault Refusal :=
  match r with
  | .ok t => .next t
  | .error (.trap t) => .next (takeTrap s t)
  | .error (.trapIn s t) => .next (takeTrap s t)
  | .error (.wait t) => .next (if t.me.run = .running then t.waitHere none else t)
  | .error (.goOn t) => .next (if t.me.run = .running then t.waitHere none else t)

/-- An event's effect; an event whose condition does not hold does nothing. -/
def happen (s : State) (r : Option State) : Host.Outcome State Fault Refusal := .next (r.getD s)

/-! ### The next PC (R101, R276) -/

/-- The active loops that end at an address, innermost (largest start) first. Of two with the same start, which only MTS to LPCn can
bring about, the lower-numbered comes first: DESIGN CHOICE, R101 gives no order between them. -/
def Stream.endingLoops (x : Stream) : List (Fin 4) :=
  let act := (List.finRange 4).filter fun n => decide ((x.lp.get n).count ≠ 0) && decide ((x.lp.get n).stop = x.a)
  sortBy (fun m n => decide ((x.lp.get n).start.toNat ≤ (x.lp.get m).start.toNat)) act

/-- The end check over the loops that end here: the first whose count is above 1 restarts, those before it exit. -/
def Stream.endCheck (x : Stream) : List (Fin 4) → Stream × Option DWord
  | [] => (x, none)
  | n :: ns =>
    let l := x.lp.get n
    if 1 < l.count.toNat then
      ({ x with lp := x.lp.set n.val { l with count := l.count - 1 } n.isLt }, some l.start)
    else Stream.endCheck { x with lp := x.lp.set n.val { l with count := 0 } n.isLt } ns

/-- The job loop's end check (R276): the fifth loop, after the others. -/
def Stream.jobCheck (x : Stream) : Stream × Option DWord :=
  match x.jl with
  | none => (x, none)
  | some l =>
    if decide (0 < l.count) && decide (x.a + 4 = l.epilogue) then
      let l' := { l with count := l.count - 1, entered := true, turns := l.turns + 1, boundary := true }
      ({ x with jl := some l' }, some (if 1 < l.count then l.kernel else l.epilogue))
    else (x, none)

/-- An instruction completes without a taken branch: the end check, then the next PC. -/
def Stream.next (x : Stream) : Stream :=
  let x := { x with waiting := none }
  match x.endCheck x.endingLoops with
  | (x, some t) => { x with pc := t }
  | (x, none) => match x.jobCheck with
    | (x, some t) => { x with pc := t }
    | (x, none) => { x with pc := x.a + 4 }

/-- The executing instruction completes. -/
def State.retire (s : State) : State := s.setMe s.me.next

/-- A taken branch or jump: no end check. -/
def State.jump (s : State) (t : DWord) : State := s.setMe { s.me with pc := t, waiting := none }

/-! ### Triple issue (R121, R122) -/

/-- A vote of the executing unit's triple-issued word: without an upset the copies agree; with one, two against one carry the
vote and a corrected event is counted, or no two agree (none). -/
def vote (s : State) (second : Bool) : State × Bool :=
  match Tab.find? s.tmrUpset (s.cur, second) with
  | none => (s, true)
  | some split =>
    let s := { s with tmrUpset := Tab.erase s.tmrUpset (s.cur, second) }
    if split then (s, false) else (s.record (logicEvent 11 0 (s.unitCode s.cur) (s.cardCode s.cur)), true)

/-- The cause of a vote without two equal outcomes (R122). -/
def splitTrap : Trap := ⟨.tmrSplit, some 0, .std 6 0, .none⟩

/-- A word of the shared subset takes effect: under a TMR prefix the outcomes of its three copies are voted first, and the data
that a load returns is voted again; where no two copies agree TMR_SPLIT is raised and nothing is done. -/
def voted (s : State) (load : Bool) (f : State → M State) : M State :=
  if s.me.pfx.tmr then
    match vote s false with
    | (s, false) => .error (.trapIn s splitTrap)
    | (s, true) => match f s with
      | .ok t =>
        if load then match vote s true with
          | (s', false) => .error (.trapIn s' splitTrap)
          | (_, true) => .ok (vote t true).1
        else .ok t
      | .error (.trap t) => .error (.trapIn s t)
      | r => r
  else f s

/-- A word of the shared subset. -/
def shared (s : State) (f : State → M State) : Host.Outcome State Fault Refusal := finish s (voted s false f)

/-- A load of the shared subset. -/
def sharedLoad (s : State) (f : State → M State) : Host.Outcome State Fault Refusal := finish s (voted s true f)

/-! ### The return from an exception -/

/-- The effect of ERET (R115): TH cleared, PC := EPC, the other trap registers kept. -/
def Stream.eret (x : Stream) : Stream := { x with th := false, pc := x.epc, waiting := none }

/-- Taken slots without one. -/
def State.dropSlot (s : State) (slot : Nat) : State := s.dropSlots fun y => decide (y.slot = slot)

/-- A slot of the pool that a hold gives up when its unit resumes: one that a cut keeps stays taken (R342). -/
def State.leaveSlot (s : State) (slot : Nat) : State :=
  if s.jobs.any fun j => decide (j.2.cutSlot = some slot) && j.2.phase.isSome then
    { s with saved := s.saved.map fun y => if y.slot = slot then { y with cause := 0, noticed := true, kind := 2 } else y }
  else s.dropSlot slot

/-- MX's reference tick when every stream of a job's instance runs again, where MX is one of them (R337, R183). -/
def State.rebaseMx (s : State) (j c : Nat) : State :=
  if (s.stream (.eng .mx c)).job ≠ some j then s
  else s.setCore c { s.core c with mx := { (s.core c).mx with tref := s.tick + 64 } }

/-- The first marked entry of a job in a load queue is to be fetched again (R214). -/
def refetch (j : Nat) : List LqEntry → List LqEntry
  | [] => []
  | e :: es => if e.marked.isSome ∧ e.job = j then { e with filled := false, marked := none } :: es else e :: refetch j es

/-- What a stream's resumption brings about in its core: the marked entry at whose pop VE stopped is fetched again (R214). -/
def State.resumed (s : State) (u : UnitId) : State :=
  let x := s.stream u
  match u with
  | .eng .ve c =>
    if dbits x.cause 7 0 = Cause.uncorrectable.code ∧ dbits x.eword 26 24 = 2 then s.setCore c { s.core c with lq := refetch (x.job.getD 0) (s.core c).lq }
    else s
  | _ => s

/-- RESUME (R339): the unit held in a slot continues at EPC, or in a handler with TH set. Ignored when the slot holds
no held unit or its record has DOUBLE = 1. A unit whose slot the firmware wrote has undefined registers (R351). It is a release of the
firmware's earlier accesses towards the unit. -/
def State.resume (s : State) (slot : Nat) (handler : Option DWord) : Option State :=
  match s.saved.find? fun y => decide (y.slot = slot) && !y.ending with
  | none => none
  | some y =>
    if y.double then none else
    match (s.stream y.unit).run with
    | .held n =>
      if n ≠ slot then none else
      let x := if s.slotIntact y then s.stream y.unit else (s.stream y.unit).undefinedBy (Config.freeStream s.fresh 0)
      let s := if s.slotIntact y then s else s.draw.2
      let s := match handler with
        | none => s.setStream y.unit { x with run := .running, pc := x.epc }
        | some a => s.setStream y.unit { x with run := .running, th := true, pc := a }
      let s := (((s.leaveSlot slot).resumed y.unit)).acquire (s.agentOf y.unit) (s.releaseNow (s.agentOf s.cur))
      match y.unit with
      | .ctx i k => some (s.setLc i { s.lc i with lining := Tab.erase (s.lc i).lining k })
      | .te => some s
      | u =>
        let c := s.coreOf u
        let j := x.job.getD 0
        some (if (s.jobUnits j c).all fun v => match (s.stream v).run with
                | .held _ => false
                | _ => true
              then s.rebaseMx j c else s)
    | _ => none

end Sys2Proof.Machine
end

