-- ==== Sys2Proof/Machine/Access.lean ====
section
/-!
DEFINITION. Access to physical memory: where a byte lies (R360, R365, R366, R368, R376, R380), the codes of the arrays (R449 to
R452), which writes an access waits for (R288, R300), and the comparison with watched ranges (R307, R393).
-/

namespace Sys2Proof.Machine

/-! ### Physical addresses (R360) -/

/-- Whether R360 gives an address to a memory. -/
def paExists (pa : Nat) : Bool :=
  match kindOf pa with
  | 0 => bits pa 39 39 = 0
  | 1 => true
  | 2 => decide (bits pa 39 30 = 0) && decide (bits pa 24 0 < scratchSize)
  | _ => false

/-- The site that an instruction of a unit executes at (R124). -/
def siteOf (u : UnitId) : Nat :=
  match u with
  | .eng _ c => c / 4
  | .nx d => d
  | _ => 8

/-! ### Layout records (R365, R366) -/

/-- The fields of a layout record. -/
structure Layout where
  base : Nat
  rb : Nat
  r : Nat
  tb : Nat
  tr : Nat
  gr : Nat
  gc : Nat
  grid : Nat
  dieBase : List Nat
  deriving DecidableEq, Repr

def Layout.ofWords (ws : List Word) : Layout where
  base := wd2 ws 0 % 2 ^ 56
  rb := wd ws 2
  r := wd ws 3
  tb := wd ws 4
  tr := wd ws 5
  gr := bits (wd ws 6) 3 0
  gc := bits (wd ws 6) 7 4
  grid := wd ws 7
  dieBase := (List.range 8).map fun d => bits (wd ws (8 + d)) 27 0

/-- The die at a grid position. -/
def Layout.dieAt (l : Layout) (p : Nat) : Nat := bits l.grid (4 * p + 3) (4 * p)

/-- The physical address of a byte at VA x in a package (R366); none outside the tensor. -/
def Layout.pa (l : Layout) (pkg x : Nat) : Option Nat :=
  if x < l.base ∨ l.r * l.rb ≤ x - l.base then none
  else
    let o := x - l.base
    let row := o / l.rb
    let cb := o % l.rb
    let tr := row / l.tr
    let tc := cb / l.tb
    let d := l.dieAt (tr % l.gr * l.gc + tc % l.gc)
    let rank := tr / l.gr * ceilDiv (l.rb / l.tb) l.gc + tc / l.gc
    some (pkg * 2 ^ 42 + d * 2 ^ 36
      + (256 * l.dieBase.getD d 0 + rank * l.tr * l.tb + row % l.tr * l.tb + cb % l.tb) % 2 ^ 36)

/-- The VA of the byte at a physical address of a tensor (the way back of R366). -/
def Layout.va (l : Layout) (pkg pa : Nat) : Option Nat :=
  let d := dieOf pa
  let rel := pa % 2 ^ 36 - 256 * l.dieBase.getD d 0
  let rank := rel / (l.tr * l.tb)
  let inn := rel % (l.tr * l.tb)
  let n := ceilDiv (l.rb / l.tb) l.gc
  (List.range (l.gr * l.gc)).findSome? fun p =>
    if l.dieAt p ≠ d then none
    else
      let tr := rank / n * l.gr + p / l.gc
      let tc := rank % n * l.gc + p % l.gc
      let x := l.base + (tr * l.tr + inn / l.tb) * l.rb + tc * l.tb + inn % l.tb
      if l.pa pkg x = some pa then some x else none

/-! ### Pages -/

/-- Whether a page is a lattice page with nine replicas (R379). -/
def Page.replicated (p : Page) : Bool := decide (p.ltype ≠ 0) && decide (2 ≤ p.scope)

/-- The replica of a frame's byte at a site (R380). A SYS page's replicas lie in the executing package. -/
def replicaPa (p : Page) (site pa : Nat) : Nat :=
  let pkg := if p.scope = 3 then p.pkg else pkgOf pa
  let o := pa % 2 ^ 36
  if site < 8 then pkg * 2 ^ 42 + site * 2 ^ 36 + o else pkg * 2 ^ 42 + 2 ^ 40 + o

/-- The physical address of the byte at an offset of a page, for an access at a site; none outside a tensor (R366). -/
def Page.byte (p : Page) (site off : Nat) : Option Nat :=
  match p.layout with
  | some ws => (Layout.ofWords ws).pa p.pkg (p.va + off)
  | none => some (if p.replicated then replicaPa p site (p.pa + off) else p.pa + off)

/-- The VA that a page's translation gives to a physical address of the page's frame (the origin replica of a lattice
page, R393). -/
def Page.vaOf (p : Page) (pa : Nat) : Option Nat :=
  match p.layout with
  | some ws => match (Layout.ofWords ws).va p.pkg pa with
    | some x => if p.va ≤ x ∧ x < p.va + 2 ^ p.bits then some x else none
    | none => none
  | none => if p.pa ≤ pa ∧ pa < p.pa + 2 ^ p.bits then some (p.va + (pa - p.pa)) else none

/-! ### Reading (R449 to R452) -/

/-- The 32-bit words from a scratchpad offset of a core. -/
def State.scratchWords (s : State) (core off n : Nat) : List Word :=
  wordsOf (s.rdAt (scratchPa s.pkg core off) (4 * n)) n

/-- The position of the first byte in an uncorrectable codeword. -/
def State.firstBad (s : State) (pas : List Nat) : Option Nat := findIdx s.badAt pas

/-- The corrected codewords among those of bytes that are read are recorded by their package (R449, R452, R462); an SRAM word is written
back corrected. -/
def State.noteCorrected (s : State) (unit card : Nat) (pas : List Nat) (hash : Option Nat) : State :=
  if s.ecc.isEmpty then s else
  let cws := (pas.map fun pa => codewordOf (s.direct pa)).eraseDups.filter fun cw =>
    decide (s.wrong cw = 1) && (decide (kindOf cw = 3) || decide (pkgOf cw = s.pkg))
  cws.foldl (fun s cw =>
    if 2 ≤ kindOf cw then
      { s with ecc := Tab.erase s.ecc cw }.record ⟨9, 0, sramMem cw, 0, unit, recordAddr cw, 0, 0, 0, 0, card⟩
    else s.arrayRecord 1 unit cw (Tab.get s.ecc cw 0) card (s.memVia cw hash)) s

/-- A read of bytes for a unit and a card, through a page of a HASH: what it counts in the channels (R378) and records. -/
def State.noteReadsAs (s : State) (unit card : Nat) (pas : List Nat) (hash : Option Nat := none) : State :=
  { s with counts := tallied s.counts (s.viaChannels (pas.map s.direct) hash) }.noteCorrected unit card pas hash

/-- A read of bytes by a stream or context. -/
def State.noteReads (s : State) (u : UnitId) (pas : List Nat) (hash : Option Nat := none) : State :=
  s.noteReadsAs (s.unitCode u) (s.cardCode u) pas hash

/-- A read of bytes by a unit of the package that runs no stream: whether all could be corrected, with the records made. -/
def State.deviceRead (s : State) (pas : List Nat) (hash : Option Nat := none) : State × Bool :=
  match s.firstBad pas with
  | none => (s.noteReadsAs 0xFF 0xFFFF pas hash, true)
  | some i =>
    let cw := codewordOf (s.direct (pas.getD i 0))
    (s.recordBad (badKind cw) cw 0xFF 0xFFFF hash, false)

/-! ### Watched ranges (R307, R393) -/

/-- The single-copy atomic units of a write (R307): 64-byte pieces written wholly, else 8-byte words written wholly, else
aligned elements of `es` bytes written wholly (R217), else single bytes; in ascending address. -/
def unitsOf (cells : List (Nat × Byte)) (es : Nat := 1) : List (List (Nat × Byte)) :=
  let addrs := sortBy (fun a b => decide (a ≤ b)) (cells.map (·.1)).eraseDups
  let last := fun (a : Nat) => (a, ((cells.reverse.find? fun c => decide (c.1 = a)).map (·.2)).getD 0)
  let pieces := (addrs.map (· / 64)).eraseDups
  pieces.flatMap fun p =>
    let xs := addrs.filter fun a => decide (a / 64 = p)
    if xs.length = 64 then [xs.map last]
    else (xs.map (· / 8)).eraseDups.flatMap fun w =>
      let ys := xs.filter fun a => decide (a / 8 = w)
      if ys.length = 8 then [ys.map last]
      else (ys.map (· / es)).eraseDups.flatMap fun e =>
        let zs := ys.filter fun a => decide (a / es = e)
        if zs.length = es then [zs.map last] else zs.map fun a => [last a]

/-- The home of an address (R84, R394): kind, die (of a scratchpad: its core's), channel or core. -/
def State.home (s : State) (pa hash : Nat) : Nat × Nat × Nat :=
  match kindOf pa with
  | 0 => (0, dieOf pa, s.channel pa hash)
  | 1 => (1, 8, s.channel pa hash)
  | _ => (2, scratchCore pa / 4, scratchCore pa)

/-- An aligned 8-byte word before and after a unit is written. -/
def wordBefore (m : Nat → Byte) (w : Nat) : Nat := leNat ((List.range 8).map fun i => m (8 * w + i))

/-- Whether a unit triggers under a condition (R393): CHANGE, RISE, MATCH. -/
def unitTriggers (cond : Nat) (mval : DWord) (old : Nat → Byte) (cells : List (Nat × Byte)) : Bool :=
  let new := fun (a : Nat) => ((cells.find? fun c => decide (c.1 = a)).map (·.2)).getD (old a)
  let words := (cells.map fun c => c.1 / 8).eraseDups
  match cond with
  | 0 => cells.any fun c => decide (old c.1 ≠ c.2)
  | 1 => words.any fun w => decide (wordBefore old w < wordBefore new w)
  | _ => words.any fun w => decide (wordBefore old w ≠ wordBefore new w) && decide (wordBefore new w = mval.toNat)

/-- The trigger that a unit raises in an entry, if any; the spawned job acquires the write, and what is ordered before it (R298, R308). -/
def State.triggerOf (s : State) (n : Nat) (e : Watch) (by_ : Writer) (cells : List (Nat × Byte)) : Option Trigger :=
  if !e.armed then none else
  let vaOf := fun (a : Nat) => (e.pages.findSome? fun q => match q.2 with
    | some p => ((p.vaOf a).filter fun v => decide (v / 65536 = q.1 / 65536)).map fun v => (v, p.hash)
    | none => none)
  let hits := cells.filterMap fun c => (vaOf c.1).bind fun v =>
    if e.base ≤ v.1 ∧ v.1 < e.base + e.len then some (c, v) else none
  match hits, cells with
  | (_, v) :: _, c :: _ =>
    if unitTriggers e.cond e.mval s.rd (hits.map (·.1)) then
      let (k, d, ch) := s.home c.1 v.2
      some ⟨s.tick, c.1, n, ((vaOf c.1).map (·.1)).getD v.1, k, d, ch, by_.clock.over (cells.map fun x => s.direct x.1) (s.histNow + 1)⟩
    else none
  | _, _ => none

/-- The triggers of a write, unit by unit. -/
def State.triggersOf (s : State) (by_ : Writer) (us : List (List (Nat × Byte))) : List Trigger :=
  us.flatMap fun u => s.watches.filterMap fun w => s.triggerOf w.1 w.2 by_ u

/-- A trigger takes its place: in the order of the writes, those of one tick by address (R393). -/
def addTrigger : List Trigger → Trigger → List Trigger
  | [], t => [t]
  | x :: xs, t => if x.tick = t.tick ∧ t.pa < x.pa then t :: x :: xs else x :: addTrigger xs t

/-- Bytes performed at their homes (R84): compared with the watched ranges unit by unit, then written. `whole` when the
write is one unit (R131). -/
def State.perform (s : State) (cells : List (Nat × Byte)) (whole : Bool) (by_ : Writer := {}) : State :=
  let us := if s.watches.isEmpty then [] else if whole then [cells] else unitsOf cells
  let ts := s.triggersOf by_ us
  { s.poke cells by_ with triggers := ts.foldl addTrigger s.triggers }

/-- A job stood before another in a core's queue: it has left it, or stands further to the front (R274). -/
def State.earlierJob (s : State) (c k j : Nat) : Bool :=
  let q := (s.core c).jobq
  decide (k ≠ j) && (!q.contains k || decide (q.idxOf k < q.idxOf j))

/-! ### What a plain load returns (R296 to R303) -/

/-- Whether an agent is near a core: one of the observers of a CORE (0) or DIE (1) scope for that core (R296). -/
def State.near (s : State) (level core : Nat) (p : Agent) : Bool :=
  match p with
  | .unit (.eng _ d) _ => if level = 0 then d = core else d / 4 = core / 4
  | .unit (.nx d) _ => decide (d = core / 4) && (decide (level = 1) || decide (s.coreOf (.nx d) = core))
  | .unit (.ctx i _) _ => if level = 0 then i = core / 2 else i / 2 = core / 4
  | .xfer d _ _ => if level = 0 then d = core else d / 4 = core / 4
  | _ => false

/-- Whether an agent is an observer of another's accesses at a scope (R296): every one of the package at PKG; those of other packages
and the host only at SYS. -/
def State.observes (s : State) (level : Nat) (q p : Agent) : Bool :=
  let outside := fun (a : Agent) => match a with
    | .away _ => true
    | .host => true
    | _ => false
  decide (q = p) || decide (3 ≤ level) || (decide (level = 2) && !outside q && !outside p) || (match q with
    | .unit (.eng _ c) _ => s.near level c p
    | .unit (.nx d) _ => s.near level (s.coreOf (.nx d)) p
    | .xfer c _ _ => s.near level c p
    | _ => false)

/-- An access of an agent with a place in the order of commands, made through a page of a scope, is ordered before what an agent has a clock of:
for the observers of the wider of the release's scope and its page's (R299). -/
def State.covers (s : State) (p : Agent) (k : Clock) (who : Agent) (at_ scope : Nat) : Bool :=
  k.upTo.any fun x => decide (x.1.1 = who) && decide (at_ < x.2) && s.observes (max x.1.2 scope) who p

/-- The same unit, whichever its job. -/
def Agent.sameUnit (a b : Agent) : Bool :=
  match a, b with
  | .unit u _, .unit v _ => decide (u = v)
  | a, b => decide (a = b)

/-- A performed write that a load by an agent is bound to see (R300, R301), with what is ordered before the load: its own unit's, one that is
ordered before the load by an agent or by a byte, one that an earlier load of the address saw. -/
def State.bound (s : State) (p : Agent) (k : Clock) (keys : List Nat) (e : Wrote) : Bool :=
  let v := s.view p
  p.sameUnit e.writer.who || s.covers p k e.writer.who e.writer.at_ e.writer.scope
  || keys.any fun a => (decide (e.seq < Tab.get k.bytes a 0) || decide (e.seq < Tab.get v.seen a 0)) && (e.before a).isSome

/-- The performed writes of some bytes, newest first. -/
def State.writesOf (s : State) (keys : List Nat) : List Wrote :=
  s.hist.filter fun e => keys.any fun k => (e.before k).isSome

/-- Those of them, newest first, that an agent's load need not see: those after the newest one that it is bound to see. -/
def State.unbound (s : State) (p : Agent) (k : Clock) (keys : List Nat) : List Wrote :=
  (s.writesOf keys).takeWhile fun e => !s.bound p k keys e

/-- A load of some bytes has seen every write of them that stands before a place in the order of writes. -/
def State.noteSeen (s : State) (p : Agent) (keys : List Nat) (n : Nat) : State :=
  let v := s.view p
  s.setView p { v with seen := keys.foldl (fun t k => Tab.set t k (max n (Tab.get t k 0))) v.seen }

/-- The place in the order of writes that a load which leaves out the j newest writes of its bytes has reached. -/
def reached (ws : List Wrote) (j : Nat) : Nat :=
  match ws[j]? with
  | some x => x.seq + 1
  | none => 0

/-- The bytes before the j newest of some writes. -/
def State.bytesBefore (s : State) (ws : List Wrote) (j : Nat) (keys : List Nat) : List Byte :=
  keys.map fun k => (ws.take j).foldl (fun b x => (x.before k).getD b) (Mem.get s.mem k)

/-- The writes that some bytes come from: of each the newest. -/
def sources (ws : List Wrote) (keys : List Nat) : List Wrote :=
  keys.filterMap fun k => ws.find? fun e => (e.before k).isSome

/-- The bytes that a load of an agent returns (R301) before which a clock is ordered, with the writes that they come from: each of the newest
writes that it is not bound to see may be missing, which ones is a free choice (log entry 10). The access is single-copy
atomic: its bytes are those of one moment. -/
def State.viewedBy (s : State) (p : Agent) (k : Clock) (pas : List Nat) : State × List Byte × List Wrote :=
  let keys := pas.map s.direct
  let ws := s.writesOf keys
  match (s.unbound p k keys).length with
  | 0 => (s, s.rdAll pas, sources ws keys)
  | n + 1 =>
    let j := Config.freeNat s.fresh % (n + 2)
    ({ s with fresh := s.fresh + 1 }.noteSeen p keys (reached ws j), s.bytesBefore ws j keys, sources (ws.drop j) keys)

/-- The bytes that a load of an agent returns now. -/
def State.viewed (s : State) (p : Agent) (pas : List Nat) : State × List Byte × List Wrote := s.viewedBy p (s.view p).now pas

/-- The bytes that an agent's access to a page finds: a lattice page's replica as it stands (R305), another page's as R301 has it.
Without a page: the core's own memories. -/
def State.lookBy (s : State) (a : Agent) (k : Clock) (p : Option Page) (pas : List Nat) : State × List Byte × List Wrote :=
  match p with
  | some q => if q.ltype ≠ 0 then (s, s.rdAll pas, []) else s.viewedBy a k pas
  | none => s.viewedBy a k pas

/-- The bytes that a unit's access to a page finds now. -/
def State.look (s : State) (u : UnitId) (p : Option Page) (pas : List Nat) : State × List Byte × List Wrote :=
  s.lookBy (s.agentOf u) (s.view (s.agentOf u)).now p pas

/-- What the releases among some writes release to an agent that obtains their values (R298): those of whose scope it is an observer. -/
def State.releasedBy (s : State) (p : Agent) (ws : List Wrote) : Clock :=
  ws.foldl (fun (k : Clock) e => match e.writer.rel with
    | some l => if s.observes l e.writer.who p then k.join e.writer.clock else k
    | none => k) Clock.empty

/-- What the joins that a lattice cell's value holds have released to an agent (R151), by the addresses of the cell. -/
def State.joinsOf (s : State) (p : Agent) (pas : List Nat) : Clock :=
  s.latClocks.foldl (fun (k : Clock) x =>
    if pas.contains x.1.1 && s.observes x.1.2.2 x.1.2.1 p then k.join x.2 else k) Clock.empty

/-- A release has raised or met the cell at an address (R150). -/
def State.noteJoin (s : State) (pa : Nat) (w : Writer) : State :=
  match w.rel with
  | none => s
  | some l =>
    let key := (pa, w.who, l)
    { s with latClocks := Tab.set s.latClocks key ((Tab.get s.latClocks key Clock.empty).join w.clock) }

/-- The end of a work acquired (R271): what it released, and nothing else. -/
def State.acquireWork (s : State) (a : Agent) (w : Work) : State :=
  match Tab.find? s.works w with
  | some k => s.acquire a k
  | none => s

/-- A work has ended on some part: what it releases is kept for those that learn of it. -/
def State.endWork (s : State) (w : Work) (k : Clock) : State :=
  { s with works := Tab.set s.works w ((Tab.get s.works w Clock.empty).join k) }

/-- What some units release together now. -/
def State.joinedNow (s : State) (us : List UnitId) (scope : Nat := 0) : Clock :=
  us.foldl (fun (k : Clock) u => k.join (s.releaseNow (s.agentOf u) scope)) Clock.empty

/-- Units meet (R110, R111, R242, R298): what each did before the meeting is ordered before what every one does after it. -/
def State.meet (s : State) (us : List UnitId) (scope : Nat) : State :=
  let k := s.joinedNow us scope
  us.foldl (fun s u => s.acquire (s.agentOf u) k) s

/-- A full FENCE (R302): the agent's earlier accesses stand before its later ones, and so do those before every earlier full FENCE whose
scope and this one's both include both agents. -/
def State.fenceAt (s : State) (a : Agent) (scope : Nat) : State :=
  let k := s.fences.foldl (fun (k : Clock) x =>
    if s.observes x.1.2 x.1.1 a && s.observes scope a x.1.1 then k.join x.2 else k) (s.releaseNow a scope)
  { s.acquire a k with fences := Tab.set s.fences (a, scope) k }

/-- A performed write that an LDRO on a core is bound to see (R133, R306): one of before the job-issue tick at a scope whose
observers include the core's streams, or one that the core's tracker held for an earlier job. -/
def State.roBound (s : State) (c j : Nat) (e : Wrote) : Bool :=
  (decide (e.seq < (s.core c).roFloor) && (decide (2 ≤ e.writer.scope) || s.observes e.writer.scope e.writer.who (.unit (.eng .cx c) j)))
  || (match e.writer.tracked with
    | some (d, k) => decide (d = c) && s.earlierJob c k j
    | none => false)

/-- The bytes that a reader finds which is bound to see some writes only: each of the newest of the others may be missing. -/
def State.readBound (s : State) (must : Wrote → Bool) (pas : List Nat) : State × List Byte :=
  let keys := pas.map s.direct
  let ws := s.writesOf keys
  match (ws.takeWhile fun e => !must e).length with
  | 0 => (s, s.rdAll pas)
  | n + 1 => ({ s with fresh := s.fresh + 1 }, s.bytesBefore ws (Config.freeNat s.fresh % (n + 2)) keys)

/-- What a core's read-only path returns (R133, log entry 12). -/
def State.readOnly (s : State) (c j : Nat) (pas : List Nat) : State × List Byte := s.readBound (s.roBound c j) pas

/-- Addresses split where a neighbour falls into another class. -/
def splitBy (f : Nat → Nat) : List Nat → List (List Nat)
  | [] => []
  | a :: as => match splitBy f as with
    | (b :: bs) :: rest => if f a = f b then (a :: b :: bs) :: rest else [a] :: (b :: bs) :: rest
    | rest => [a] :: rest

/-- The single-copy atomic units in which a command reads addresses (R223, R307): 64-byte pieces, else 8-byte words, else aligned elements
of es bytes, read wholly; else single bytes. -/
def readUnits (es : Nat) (pas : List Nat) : List (List Nat) :=
  (splitBy (· / 64) pas).flatMap fun p =>
    if p.length = 64 then [p]
    else (splitBy (· / 8) p).flatMap fun w =>
      if w.length = 8 then [w]
      else (splitBy (· / es) w).flatMap fun e => if e.length = es then [e] else e.map fun a => [a]

/-- Units read one by one, each in the state that the one before it leaves. -/
def State.readEach (s : State) (read : State → List Nat → State × List Byte) : List (List Nat) → State × List Byte
  | [] => (s, [])
  | x :: xs =>
    let (s, bs) := read s x
    let (s, cs) := s.readEach read xs
    (s, bs ++ cs)

/-- The bytes that a command of an agent finds in a page, unit by unit, with what is ordered before it. -/
def State.lookEach (s : State) (a : Agent) (k : Clock) (p : Option Page) (es : Nat) (pas : List Nat) : State × List Byte :=
  s.readEach (fun s x => ((s.lookBy a k p x).1, (s.lookBy a k p x).2.1)) (readUnits es pas)

/-- The bytes that a command of a unit finds in a page now, unit by unit. -/
def State.lookUnits (s : State) (u : UnitId) (p : Option Page) (es : Nat) (pas : List Nat) : State × List Byte :=
  s.lookEach (s.agentOf u) (s.view (s.agentOf u)).now p es pas

/-- An access that is made at its home at this moment has seen every write of its bytes (R138, R141). -/
def State.seenNow (s : State) (p : Agent) (pas : List Nat) : State :=
  let keys := pas.map s.direct
  if (s.unbound p (s.view p).now keys).isEmpty then s else s.noteSeen p keys s.histNow

/-! ### Waiting for unperformed writes -/

/-- Whether two lists of addresses share one. -/
def share (xs ys : List Nat) : Bool := xs.any ys.contains

/-- The lowest and the highest of some addresses, as a retirement tracker entry records them (R287). -/
def spanOf : List Nat → Option (Nat × Nat)
  | [] => none
  | a :: as => some (as.foldl (fun r x => (min r.1 x, max r.2 x)) (a, a))

/-- An address lies inside the range of a tracker entry (R288). -/
def inSpan (pas : List Nat) (r : Option (Nat × Nat)) : Bool :=
  match r with
  | none => false
  | some (lo, hi) => pas.any fun a => decide (lo ≤ a) && decide (a ≤ hi)

/-- Addresses as ranges (start, length): an address that follows the one before it prolongs a range. -/
def rangesOf (as : List Nat) : List (Nat × Nat) :=
  (as.foldl (fun (r : List (Nat × Nat)) a => match r with
    | (b, n) :: rs => if a = b + n then (b, n + 1) :: rs else (a, 1) :: (b, n) :: rs
    | [] => [(a, 1)]) []).reverse

/-- What some destinations are of a core's own memories, as (veneer, offset, length). -/
def ownRanges (pkg c : Nat) (ds : List Dest) : List (Bool × Nat × Nat) :=
  let base := scratchPa pkg c 0
  ((rangesOf (ds.filterMap fun d => match d with
    | .mem pa => if base ≤ pa ∧ pa < base + scratchSize then some (pa - base) else none
    | .veneer _ => none)).map fun r => (false, r.1, r.2))
  ++ (rangesOf (ds.filterMap fun d => match d with
    | .mem _ => none
    | .veneer o => some o)).map fun r => (true, r.1, r.2)

/-- The physical address of a destination outside the veneer. -/
def Dest.pa? : Dest → Option Nat
  | .mem pa => some pa
  | .veneer _ => none

/-- The addresses a CX command in flight writes. -/
def CxFlight.addrs (f : CxFlight) : List Nat := f.parts.flatMap fun p => p.dst.filterMap fun d => d.1.pa?

/-- The addresses an SB entry writes. -/
def SbEntry.addrs (e : SbEntry) : List Nat := e.dst.map (·.2)

/-- A channel takes no access to these addresses through a page of a HASH (none: the bytes' own): it is being repaired (R454), or
a write to the block is still being sent (R453). -/
def State.chanShut (s : State) (pas : List Nat) (hash : Option Nat) : Bool :=
  !s.chans.isEmpty && pas.any fun pa =>
    let a := s.direct pa
    decide (kindOf a < 2) && decide (pkgOf a = s.pkg) && (
      let (m, n) := s.memVia a hash
      let c := s.chan m n
      c.closed.isSome || c.writeWait.any fun w => decide (w.2 = a / 256))

/-- The ranges of the tracker entries that the jobs of some hold on a core (R287, R288). -/
def State.trackerSpans (s : State) (c : Nat) (jobs : Nat → Bool) : List (Option (Nat × Nat)) :=
  ((s.pending.filter fun p => decide (p.core = some c) && jobs p.job).map fun p => spanOf (p.bytes.map (·.1)))
  ++ (((s.core c).cx.filter fun f => f.xfer.isNone && jobs f.job).map (·.span))
  ++ ((s.core c).sb.filter fun e => jobs e.job && e.data.isSome).map (·.span)

/-- These addresses lie in such a range. -/
def State.trackedBy (s : State) (c : Nat) (jobs : Nat → Bool) (pas : List Nat) : Bool :=
  (s.trackerSpans c jobs).any (inSpan pas)

/-- These addresses lie in the range of a tracker entry that a job earlier than j holds on a core. -/
def State.trackedBefore (s : State) (c j : Nat) (pas : List Nat) : Bool := s.trackedBy c (fun k => s.earlierJob c k j) pas

/-- Writes that are accepted and not performed, and loads of VL that have not been made, with their agents, their places, their pages' scopes
and their addresses. -/
def State.unperformed (s : State) : List (Agent × Nat × Nat × List Nat) :=
  (s.pending.map fun p => (.unit p.who p.job, p.seq, p.scope, p.bytes.map (·.1)))
  ++ s.cores.flatMap fun kc =>
    (kc.2.cx.flatMap fun f =>
      let a : Agent := match f.xfer with
        | some (i, id) => .xfer kc.1 i id
        | none => .unit (.eng .cx kc.1) f.job
      f.parts.map fun p => (a, f.seq, p.scope, p.dst.filterMap fun d => d.1.pa?))
    ++ (kc.2.sb.map fun e => (.unit (.eng .vl kc.1) e.job, e.seq, e.scope, e.addrs))
    ++ (kc.2.lq.filter fun e => !e.filled).map fun e =>
      (.unit (.eng .vl kc.1) e.job, e.seq, ((e.of.map (·.2.scope)).getD 0), e.src.map (·.2.1))

/-- An access of an agent is ordered after one of another to one of these addresses that is not performed (R300, R301). -/
def State.ordersAfter (s : State) (a : Agent) (pas : List Nat) : Bool :=
  let k := (s.view a).now
  !k.upTo.isEmpty && s.unperformed.any fun w => !a.sameUnit w.1 && s.covers a k w.1 w.2.1 w.2.2.1 && share pas w.2.2.2

/-- An access of a unit to these addresses waits: for a channel, for its own unperformed access to one of them (R131, R300), for another
agent's that is ordered before it (R300), or for an earlier job's tracker entry on its core (R288). -/
def State.mustWait (s : State) (u : UnitId) (pas : List Nat) (hash : Option Nat := none) : Bool :=
  let c := s.coreOf u
  s.chanShut pas hash || s.ordersAfter (s.agentOf u) pas
  || (s.pending.any fun p => decide (p.who = u) && share pas (p.bytes.map (·.1)))
  || (match u with
    | .eng .cx _ => (s.core c).cx.any fun f => f.xfer.isNone && share pas f.addrs
    | .eng .vl _ => ((s.core c).sb.any fun e => share pas e.addrs)
        || (s.core c).lq.any fun e => !e.filled && share pas (e.src.map (·.2.1))
    | _ => false)
  || (u.isEngine && s.trackedBefore c ((s.stream u).job.getD 0) pas)

/-- Everything a unit has accessed before is performed (R107, R147, R271): its accepted stores, and, for a stream, the
commands of its own engine. -/
def State.allPerformed (s : State) (u : UnitId) : Bool :=
  (s.pending.all fun p => decide (p.who ≠ u))
  && (match u with
    | .eng .cx c => (s.core c).cx.all (·.xfer.isSome)
    | .eng .vl c => (s.core c).sb.isEmpty && (s.core c).lq.all (·.filled)
    | .eng .mx c => (s.core c).mx.flight.isEmpty
    | .nx d => (s.die d).sends.isEmpty
    | _ => true)

/-- Everything a unit accessed before a place in the order of commands and accepted writes is performed. -/
def State.performedBefore (s : State) (u : UnitId) (n : Nat) : Bool :=
  (s.pending.all fun p => decide (p.who ≠ u) || decide (n ≤ p.seq))
  && (match u with
    | .eng .cx c => (s.core c).cx.all fun f => f.xfer.isSome || decide (n ≤ f.seq)
    | .eng .vl c => ((s.core c).sb.all fun e => decide (n ≤ e.seq)) && (s.core c).lq.all fun e => e.filled || decide (n ≤ e.seq)
    | .eng .mx c => (s.core c).mx.flight.all fun f => decide (n ≤ f.seq)
    | .nx d => (s.die d).sends.all fun x => decide (n ≤ x.seq)
    | _ => true)

/-- What an agent's own accesses are that an acquire or a FENCE before place n has ordered before those after it (R300). -/
def State.ownFloor (s : State) (a : Agent) (n : Nat) : Nat :=
  ((s.view a).at_ n).upTo.foldl (fun m x => if x.1.1 = a then max m x.2 else m) 0

/-- A write of a unit for a job with place n may be performed: what an acquire or a FENCE has ordered before it is. -/
def State.inOrder (s : State) (u : UnitId) (job n : Nat) : Bool :=
  let f := s.ownFloor (.unit u job) n
  decide (f = 0) || s.performedBefore u f

/-- The writer of what a unit's access for a job writes, with its place among commands, through a page of a HASH and a scope; of a release
with the scope at which it is one. -/
def State.writerOf (s : State) (u : UnitId) (job n : Nat) (hash : Option Nat) (scope : Nat) (rel : Option Nat) : Writer :=
  let a : Agent := .unit u job
  { who := a, at_ := n, hash := hash, scope := scope, rel := rel,
    clock := match rel with
      | some l => s.releaseOf a n l
      | none => (s.view a).at_ n }

/-- The stores of a unit are performed (R147): what a FENCE of kind 1 waits for. -/
def State.storesPerformed (s : State) (u : UnitId) : Bool :=
  (s.pending.all fun p => decide (p.who ≠ u))
  && (match u with
    | .eng .cx c => (s.core c).cx.all (·.xfer.isSome)
    | .eng .vl c => (s.core c).sb.isEmpty
    | .eng .mx c => (s.core c).mx.flight.isEmpty
    | .nx d => (s.die d).sends.isEmpty
    | _ => true)

/-- The stores of a unit that were accepted before a place in the order are performed (R140). -/
def State.storesBefore (s : State) (u : UnitId) (n : Nat) : Bool :=
  (s.pending.all fun p => decide (p.who ≠ u) || decide (n ≤ p.seq))
  && (match u with
    | .eng .cx c => (s.core c).cx.all fun f => f.xfer.isSome || decide (n ≤ f.seq)
    | .eng .vl c => (s.core c).sb.all fun e => decide (n ≤ e.seq)
    | _ => true)

/-- The tracker entries of a core in use (R287, R420). -/
def State.trackerUsed (s : State) (c : Nat) : Nat :=
  (s.pending.filter fun p => decide (p.core = some c)).length + (s.core c).cx.length
    + ((s.core c).sb.filter (·.data.isSome)).length
    + ((s.dies.flatMap fun d => d.2.sends).filter fun x => decide (x.core = c)).length
    + (s.posts.filter fun p => !p.fromPkg && decide (p.core = c)).length

/-- The tracker holds entries of a job on a core. -/
def State.trackerHas (s : State) (c j : Nat) : Bool :=
  (s.pending.any fun p => decide (p.core = some c) && decide (p.job = j))
  || ((s.core c).cx.any fun f => f.xfer.isNone && decide (f.job = j))
  || ((s.core c).sb.any fun e => decide (e.job = j) && e.data.isSome)
  || ((s.dies.flatMap fun d => d.2.sends).any fun x => decide (x.core = c) && decide (x.job = j))
  || (s.posts.any fun p => !p.fromPkg && decide (p.core = c) && decide (p.source = j))

/-- The virtual channel of the seam links that carries an access of n bytes to another package (R408): 0 for loads, stores of 64 bytes or
less, atomics, and table reads; 1 for bulk data. Lattice exchange, watch traffic and message headers are on 0, responses on 2. -/
def vcOf (n : Nat) : Nat := if n ≤ 64 then 0 else 1

/-- The units of a compute die. -/
def dieUnits (d : Nat) : List UnitId := (List.range 4).flatMap (fun c => (coreUnits (4 * d + c)).take 4) ++ [.nx d]

/-- Whether bytes lie in another package. -/
def State.remote (s : State) (pas : List Nat) : Bool := pas.any fun pa => decide (pkgOf pa ≠ s.pkg)

/-- The VC0 requests to other packages that a die has outstanding (R409): accepted stores, VL loads that have not filled, and VL stores. -/
def State.remoteOut (s : State) (d : Nat) : Nat :=
  (s.pending.filter fun p => (dieUnits d).contains p.who && s.remote (p.bytes.map (·.1))).length
  + ((List.range 4).map fun c =>
      ((s.core (4 * d + c)).lq.filter fun e => !e.filled && s.remote (e.src.map (·.2.1))).length
      + ((s.core (4 * d + c)).sb.filter fun e => s.remote e.addrs).length).sum

/-- A request of a unit to these bytes waits for one of the 64 of its die to be answered (R409). -/
def State.remoteFull (s : State) (u : UnitId) (pas : List Nat) : Bool :=
  u.isEngine && s.remote pas && decide (vcOf pas.length = 0) && decide (64 ≤ s.remoteOut (siteOf u))

/-- The number under which a scratchpad's core is known: a core of another package above those of this one. -/
def State.coreKey (s : State) (pa : Nat) : Nat :=
  if pkgOf pa = s.pkg then scratchCore pa else 32 * (1 + pkgOf pa) + scratchCore pa

/-- Whether a core is gated, of this package or of another. -/
def State.isGated (s : State) (key : Nat) : Bool :=
  if key < 32 then (s.core key).gated else (s.far (key / 32 - 1)).gated.contains (key % 32)

/-- A core whose inbound port is closed to this access: another core's scratchpad frame, that core gated (R411). -/
def State.gatedCore (s : State) (u : UnitId) (pas : List Nat) : Option Nat :=
  (pas.find? fun pa => decide (kindOf pa = 2) && !(u.isEngine && decide (s.coreKey pa = s.coreOf u))
    && s.isGated (s.coreKey pa)).map s.coreKey

end Sys2Proof.Machine
end

