-- ==== Sys2Proof/Machine/Translate.lean ====
section
/-!
DEFINITION. The page-table walk (spec/14_virtual_memory.md R356 to R364) and the handles it makes (R125, R126).
-/

namespace Sys2Proof.Machine

/-- The number under which the root of LCi of a package is known: those of other packages above those of this one. -/
def State.rootKey (s : State) (pkg i : Nat) : Nat := if pkg = s.pkg then i else 32 * (1 + pkg) + i

/-- The package that translates through a root. -/
def State.rootPkg (s : State) (key : Nat) : Nat := if key < 32 then s.pkg else key / 32 - 1

/-- A root (R356, R372), of this package or of another (R232). -/
def State.rootOf (s : State) (key : Nat) : DWord :=
  if key < 32 then (s.lc key).rootReg else Tab.get (s.far (key / 32 - 1)).roots (key % 32) 0

/-- A layout record of a package. -/
def State.layoutOf (s : State) (pkg n : Nat) : List Word :=
  if pkg = s.pkg then Tab.get s.layouts n [] else Tab.get (s.far pkg).layouts n []

/-- A walk report (R363). -/
def walkReport (level reason retries eaddr : Nat) : DWord :=
  dw (level * 2 ^ 62 + reason * 2 ^ 56 + retries * 2 ^ 48 + eaddr % 2 ^ 48)

/-- A node address that R360 gives to no memory, or that disagrees with PKG (R358). -/
def badNode (e : Nat) : Bool :=
  let pa := bits e 47 13 * 2 ^ 13
  decide (bits e 63 58 ≠ bits e 47 42) || !paExists pa

/-- A table entry that is malformed (R358). -/
def badTable (e : Nat) : Bool :=
  decide (bits e 57 52 ≠ 0) || decide (bits e 12 3 ≠ 0) || !([0, 3].contains (bits e 51 48)) || badNode e

/-- A ROOT value that is malformed (R358, R372). -/
def badRoot (e : Nat) : Bool := badNode e

/-- The size exponent of a leaf at a level (R357). -/
def leafBits (level : Nat) : Nat := if level = 2 then 36 else if level = 1 then 26 else 16

/-- A leaf that a package finds malformed (R362). -/
def State.badLeaf (s : State) (pkg e level : Nat) : Bool :=
  let mig := bits e 51 48
  let tier := bits e 53 52
  let pfn := bits e 47 16 * 2 ^ 16
  let kind := kindOf pfn
  let layout := bits e 15 4
  let ltype := bits e 63 60
  let scope := bits e 57 56
  decide (level = 3) || decide (3 < mig) || decide (1 < tier)
  || decide (kind = 3) || (if kind = 1 then decide (tier ≠ 1) else decide (tier ≠ 0)) || !paExists pfn
  || decide (pfn % 2 ^ leafBits level ≠ 0)
  || (decide (kind = 2) && (decide (level ≠ 0) || decide (layout ≠ 0)))
  || (decide (layout ≠ 0) && (decide (tier ≠ 0) || decide (pfn ≠ 0) || decide (wd (s.layoutOf pkg layout) 4 = 0)))
  || (decide (1 ≤ ltype) && decide (ltype ≤ 8) && decide (2 ≤ scope) && decide (tier = 1) && decide (bits pfn 39 36 ≠ 0))

/-- What the walker of a package makes of a leaf (R126, R359). -/
def State.pageOf (s : State) (pkg va e level : Nat) : Page where
  va := va / 2 ^ leafBits level * 2 ^ leafBits level
  bits := leafBits level
  pa := bits e 47 16 * 2 ^ 16
  ltype := bits e 63 60
  watched := bit e 59
  trellis := bit e 58
  scope := bits e 57 56
  hash := bits e 55 54
  tier := bits e 53 52
  writable := bit e 3
  layout := if bits e 15 4 = 0 then none else some (s.layoutOf pkg (bits e 15 4))
  pkg := pkg

/-- How a stretch of a walk ends. -/
inductive WalkEnd where
  | page (p : Page)
  | fault (c : Cause) (report : DWord) (bits : Nat)
  /-- at a locked entry, or at an entry in a gated core's scratchpad: the walk stands there. -/
  | stuck (w : Walk) (gated : Option Nat)
  deriving DecidableEq, Repr

/-- The physical address of the entry that a walk reads next (R357). -/
def Walk.entryPa (w : Walk) (va : Nat) : Nat := w.node + 8 * bits va (25 + 10 * w.level) (16 + 10 * w.level)

/-- The entry can stand among the walker's copies (R364): it is valid, resident, unlocked and well-formed. -/
def State.keepable (s : State) (pkg e level : Nat) : Bool :=
  bit e 0 && bit e 1 && decide (bits e 51 48 ≠ 3)
    && (if bit e 2 then !s.badLeaf pkg e level else decide (level ≠ 0) && !badTable e)

/-- The copies of an entry that the walker may hold (R364): what the entry held since the last invalidation that covers its
range under the root, where that can be kept, newest first (log entry 64). -/
def State.entryCopies (s : State) (root va level ea : Nat) : List Nat :=
  let bits := 16 + 10 * level
  let floor := (s.walkFloors.filter fun f => decide (f.1 = root)
    && meets (va / 2 ^ bits * 2 ^ bits) (2 ^ bits) f.2.1 (2 ^ f.2.2.1)).foldl (fun n f => max n f.2.2.2.1) 0
  let keys := (List.range 8).map fun i => s.direct (ea + i)
  let ws := (s.hist.takeWhile fun e => decide (floor ≤ e.seq)).filter fun e => keys.any fun k => (e.before k).isSome
  ((List.range ws.length).map fun j => leNat (s.bytesBefore ws (j + 1) keys)).filter fun e => s.keepable (s.rootPkg root) e level

/-- The entry that a walk reads: as memory holds it, or a copy (R364). -/
def State.readEntry (s : State) (root va level ea : Nat) : Nat :=
  let now := leNat (s.rdAt ea 8)
  match s.entryCopies root va level ea with
  | [] => now
  | c :: cs =>
    let n := Config.walkerCopy s.now ea % (cs.length + 2)
    if n = 0 then now else (c :: cs).getD (n - 1) now

/-- A node's entry cannot be read (R361): its package is absent, or its die is mapped out. -/
def State.unreachable (s : State) (ea : Nat) : Bool :=
  let d := if kindOf ea = 0 then dieOf ea else scratchCore ea / 4
  !(s.exchange.present.contains (pkgOf ea))
  || (decide (kindOf ea ≠ 1) && (if pkgOf ea = s.pkg then (s.die d).mappedOut else (s.far (pkgOf ea)).mapped.contains d))

/-- The walk through a root from where it stands (R361): one entry per level. -/
def State.walkFrom (s : State) (root va : Nat) : Nat → Walk → WalkEnd
  | 0, w => .stuck w none
  | n + 1, w =>
    let ea := w.entryPa va
    if decide (kindOf ea = 2) && s.isGated (s.coreKey ea) then .stuck w (some (s.coreKey ea))
    else if s.unreachable ea then .fault .tableNotResident (walkReport w.level 6 w.retries ea) 16
    else if (s.firstBad ((List.range 8).map (ea + ·))).isSome then .fault .pageNotResident (walkReport w.level 5 w.retries ea) 16
    else
      let e := s.readEntry root va w.level ea
      if bits e 51 48 = 3 then
        if 64 ≤ w.retries then .fault .tableNotResident (walkReport w.level 4 w.retries ea) 16
        else .stuck { w with retries := w.retries + 1, due := s.tick + 1700 } none
      else if !bit e 0 then .fault .pageNotResident (walkReport w.level 1 w.retries ea) 16
      else if bit e 2 then
        if s.badLeaf (s.rootPkg root) e w.level then
          .fault .pageNotResident (walkReport w.level 5 w.retries ea) (leafBits w.level)
        else if !bit e 1 then .fault .pageNotResident (walkReport w.level 2 w.retries ea) (leafBits w.level)
        else
          let p := s.pageOf (s.rootPkg root) va e w.level
          if 9 ≤ p.ltype ∨ (p.trellis ∧ p.ltype ≠ 0) then
            .fault .latticeType (walkReport w.level 0 w.retries ea) (leafBits w.level)
          else .page p
      else if decide (w.level = 0) || badTable e then .fault .pageNotResident (walkReport w.level 5 w.retries ea) 16
      else if !bit e 1 then .fault .tableNotResident (walkReport (w.level - 1) 3 w.retries ea) 16
      else s.walkFrom root va n { w with level := w.level - 1, node := bits e 47 13 * 2 ^ 13, retries := 0 }

/-- The start of a walk through a root (R356, R361): the cause it ends in at once, or where it stands. -/
def walkStart (root : DWord) : Sum (Cause × DWord) Walk :=
  if root.toNat % 2 = 0 then .inl (.pageNotResident, walkReport 3 1 0 0)
  else if badRoot root.toNat then .inl (.pageNotResident, walkReport 3 5 0 0)
  else .inr ⟨3, bits root.toNat 47 13 * 2 ^ 13, 0, 0⟩

/-- A walk that a unit of the package or an instruction makes for itself through a root (R361), from where an earlier
attempt of it stands: where it meets a locked entry it goes on when 1,700 ticks have passed, up to 64 times; where it meets a
gated core it asks for that core. -/
def State.deviceWalk (s : State) (i va : Nat) : State × WalkEnd :=
  let key := (i, va / 65536)
  let step := fun (w : Walk) =>
    match s.walkFrom i va 4 w with
    | .stuck w g =>
      let s := { s with deviceWalks := Tab.set s.deviceWalks key w }
      ((match g with
        | some c => s.askUngate c
        | none => s), WalkEnd.stuck w g)
    | e => ({ s with deviceWalks := Tab.erase s.deviceWalks key }, e)
  match walkStart (s.rootOf i) with
  | .inl (c, r) => ({ s with deviceWalks := Tab.erase s.deviceWalks key }, .fault c r 16)
  | .inr w => match Tab.find? s.deviceWalks key with
    | some w' => if s.tick < w'.due then (s, .stuck w' none) else step w'
    | none => step w

/-- The state of the handle that a finished stretch of its walk gives (R125). -/
def WalkEnd.handle (e : WalkEnd) (va : Nat) : HandleState :=
  match e with
  | .page p => .valid p
  | .fault c r b => .walkfault c r (va / 2 ^ b * 2 ^ b) b
  | .stuck w _ => .pending w

/-- The bounce buffer that is mapped at a VA for the contexts of LC16 and LC17 (R317, R375): always resident, its writes performed at PKG
scope; where each die's lies is a free choice (log entry 66). -/
def State.bouncePage (s : State) (root va : Nat) : Option Page :=
  if root < 16 then none
  else ((List.range 8).find? fun d => decide (Config.bounceVa d / 2 ^ 26 = va / 2 ^ 26)).map fun d =>
    { va := va / 2 ^ 26 * 2 ^ 26, bits := 26, pa := bouncePa s.pkg d 0, ltype := 0, watched := false, trellis := false, scope := 2,
      hash := 0, tier := 0, writable := true, layout := none, pkg := s.pkg }

/-- The handle that TRANS makes of a register's value (R125), `ctx` in a context (the bounce buffers are mapped for those alone, R317): PERMISSION when bits 63:56 are nonzero, else a walk that
starts now. -/
def State.newHandle (s : State) (root : Nat) (ctx : Bool) (va : DWord) : Handle :=
  let v := va.toNat % 2 ^ 56
  let st := if dbits va 63 56 ≠ 0 then HandleState.walkfault .permission 0 (v / 2 ^ 16 * 2 ^ 16) 16
    else match if ctx then s.bouncePage root v else none with
      | some p => .valid p
      | none => match walkStart (s.rootOf root) with
        | .inl (c, r) => .walkfault c r (v / 2 ^ 16 * 2 ^ 16) 16
        | .inr w => .pending w
  ⟨root, va, st, false⟩

/-- The range of VAs that revokes a handle (R126, R373): its page, or the page its walkfault records. -/
def Handle.range (h : Handle) : Nat × Nat :=
  match h.state with
  | .pending _ => (h.va.toNat % 2 ^ 56, 0)
  | .valid p => (p.va, p.bits)
  | .walkfault _ _ va b => (va, b)

/-- A handle after an invalidation of a range of its root (R126, R373): revoked, or, when pending, walking afresh. -/
def State.revokeHandle (s : State) (root va b : Nat) (h : Handle) : Handle :=
  let (hv, hb) := h.range
  if h.root = root ∧ meets hv (2 ^ hb) va (2 ^ b) then
    match h.state with
    | .pending _ => s.newHandle h.root false h.va
    | _ => { h with revoked := true }
  else h

end Sys2Proof.Machine
end

