-- ==== Sys2Proof/Machine/Lattice.lean ====
section
/-!
DEFINITION. Lattice cells (R85), writes to replicas and their dirty marks (R135, R150, R229, R381 to R384).
-/

namespace Sys2Proof.Machine

/-- Lattice types by LTYPE (R85, R359): 1 MAXU32, 2 MAXU64, 3 MINU32, 4 MINU64, 5 OR32, 6 OR64, 7 GCNT64, 8 PAIR64. -/
def cellSize (t : Nat) : Nat := if t = 1 ∨ t = 3 ∨ t = 5 then 4 else if t = 7 then 128 else 8

/-- The access size of a type (R135, R149): 4 for the 32-bit types, 8 for the others, a GCNT64 slot too. -/
def accessSize (t : Nat) : Nat := if t = 1 ∨ t = 3 ∨ t = 5 then 4 else 8

/-- Join(t, a, b) on a cell or on one slot of a GCNT64 cell (R85). -/
def join (t a b : Nat) : Nat :=
  if t = 1 ∨ t = 2 ∨ t = 7 then max a b
  else if t = 3 ∨ t = 4 then min a b
  else if t = 5 ∨ t = 6 then a ||| b
  else max (a % 2 ^ 32) (b % 2 ^ 32) + 2 ^ 32 * max (a / 2 ^ 32) (b / 2 ^ 32)

/-- Geq(t, a, b) on a cell or on one slot (R85). -/
def geq (t a b : Nat) : Bool :=
  if t = 1 ∨ t = 2 ∨ t = 7 then decide (b ≤ a)
  else if t = 3 ∨ t = 4 then decide (a ≤ b)
  else if t = 5 ∨ t = 6 then decide (a &&& b = b)
  else decide (b % 2 ^ 32 ≤ a % 2 ^ 32) && decide (b / 2 ^ 32 ≤ a / 2 ^ 32)

/-- The partners that a schedule gives a site (R381). -/
def partners (sched : List Round) (site : Nat) : List Nat :=
  (sched.flatMap fun r => r.pairs.filterMap fun p =>
    if p.1 = site then some p.2 else if p.2 = site then some p.1 else none).eraseDups

/-- The packages that the outer cycle pairs a package with (R388): ranks that differ in one bit. -/
def outerPartners (pkg : Nat) (ranks : List Nat) : List Nat :=
  match findIdx (fun p => decide (p = pkg)) ranks with
  | none => []
  | some x => (List.range 6).filterMap fun r => ranks[x ^^^ 2 ^ r]?

/-- A mark added unless it stands already. -/
def addDirty (ds : List Dirty) (d : Dirty) : List Dirty := if ds.contains d then ds else ds ++ [d]

/-- The line of a PKG or SYS replica at o is dirty at a site towards every partner but one (R381, R384); a SYS line of
site 8 also towards the other packages (R388). -/
def State.markDirty (s : State) (site o ltype : Nat) (sys : Bool) (except : Option Nat) (fromPkg : Option Nat) :
    State :=
  let x := s.exchange
  let ps := (partners x.sched site).filter fun p => some p ≠ except
  let line := o / 64 * 64
  let ds := ps.foldl (fun ds p => addDirty ds ⟨site, line, ltype, sys, p⟩) x.dirty
  let os := if sys && decide (site = 8) then
      ((outerPartners s.pkg x.ranks).filter fun p => decide (some p ≠ fromPkg)).foldl
        (fun os p => if os.contains (p, line, ltype) then os else os ++ [(p, line, ltype)]) x.outerDirty
    else x.outerDirty
  { s with exchange := { x with dirty := ds, outerDirty := os } }

/-- A replica's cell at pa rises: its line is dirty at the site, in the package that holds it; another package's controller
marks its own. -/
def State.cellRose (s : State) (repl sys : Bool) (t site pa : Nat) : State :=
  if repl && decide (pkgOf pa = s.pkg) then s.markDirty site (pa % 2 ^ 36) t sys none none else s

/-- A cell (or slot) of n bytes at pa raised to a value in one step at its home, compared with the watched ranges, and
marked dirty when the page is replicated and the cell changes; a release's clock stays with it. `old` is what it held. -/
def State.setCell (s : State) (p : Page) (by_ : Writer) (site pa n old new : Nat) : State :=
  let s' := (s.perform (cellsAt pa (leBytes n new)) true by_).noteJoin pa by_
  if new = old then s' else s'.cellRose p.replicated (decide (p.scope = 3)) p.ltype site pa

/-- The value of n bytes at pa. -/
def State.rdNat (s : State) (pa n : Nat) : Nat := leNat (s.rdAt pa n)

/-- The bytes of a lattice cell through a leaf of a HASH: free ones where it was written under another (R367, R369). -/
def State.cellBytes (s : State) (hash : Nat) (pas : List Nat) : State × List Byte := s.hashBytes hash pas (s.rdAll pas)

/-- The value of a cell or slot of n bytes at pa through a leaf of a HASH. -/
def State.cellNat (s : State) (hash pa n : Nat) : State × Nat :=
  let (s, bs) := s.cellBytes hash ((List.range n).map (pa + ·))
  (s, leNat bs)

/-- Bytes joined with those of cells, cell by cell; a GCNT64 cell slot by slot. -/
def joinedLine (t : Nat) (old new : List Byte) : List Byte :=
  let w := accessSize t
  (List.range (old.length / w)).flatMap fun i =>
    leBytes w (join t (leNat ((old.drop (w * i)).take w)) (leNat ((new.drop (w * i)).take w)))

/-- Bytes joined into whole cells of a page at a site, as one single-copy atomic unit of a lattice copy (R229, R307, R393). `pas` lists the
physical address of each byte. -/
def State.joinUnit (s : State) (t site : Nat) (repl sys : Bool) (by_ : Writer) (pas : List Nat) (bs : List Byte) : State :=
  let w := accessSize t
  let (s, old) := s.cellBytes (by_.hash.getD 0) pas
  let new := joinedLine t old bs
  let s := s.perform (pas.zip new) true by_
  (List.range (pas.length / w)).foldl (fun s i =>
    let pa := pas.getD (w * i) 0
    let s := s.noteJoin pa by_
    if (old.drop (w * i)).take w = (new.drop (w * i)).take w then s else s.cellRose repl sys t site pa) s

/-- The single-copy atomic units of a lattice copy (R229, R307): 64-byte pieces of cells, else 8-byte words, else cells of 4 bytes. -/
def cellUnits (t : Nat) (cells : List (Nat × Byte)) : List (List (Nat × Byte)) := unitsOf cells (accessSize t)

/-- The sum of the slots of a GCNT64 cell's 128 bytes (R85, R151). -/
def slotSum (bs : List Byte) : Nat := ((List.range 16).map fun i => leNat ((bs.drop (8 * i)).take 8)).sum

end Sys2Proof.Machine
end

