-- ==== Sys2Proof/Machine/Operands.lean ====
section
/-!
DEFINITION. Operand forms: immediates and offsets with their prefixes (R58, R62), handles (R86), memory operands (R129), records
read through a handle (R255), card and core numbers (R256), places of CX and NX (R222).
-/

namespace Sys2Proof.Machine

/-! ### Immediates (R58, R62) -/

/-- A signed field of n bits, or of n + 20 bits under a kind 0 prefix. -/
def Stream.simm {n : Nat} (x : Stream) (f : BitVec n) : Int :=
  match x.pfx.imm with
  | none => f.toInt
  | some p => (p ++ f).toInt

/-- off8, or the unsigned 28-bit offset under a kind 0 prefix. -/
def Stream.uoff (x : Stream) (f : BitVec 8) : Nat :=
  match x.pfx.imm with
  | none => f.toNat
  | some p => (p ++ f).toNat

/-- A + 4 × off. -/
def Stream.target (x : Stream) (off : Int) : DWord := x.a + dwi (4 * off)

/-- The bytes of a size code. -/
def sizeOf (z : BitVec 2) : Nat := 2 ^ z.toNat

/-! ### Handles (R86) -/

/-- A lattice page of SYS scope and type GCNT64 (R382). -/
def Page.sysCount (p : Page) : Bool := decide (p.ltype = 7) && decide (p.scope = 3)

/-- Handle(n, off, size, acc) (R86): the checks in their order, with an alignment to `al` bytes. Then LATTICE_TYPE for a
SYS-scope GCNT64 page (R382). -/
def handleTo (s : State) (n : BitVec 4) (off size al : Nat) (write : Bool) : M (Handle × Page) := do
  match s.me.hr n with
  | none => fault .handleInvalid (dw n.toNat)
  | some h =>
    match h.state with
    | .pending _ => .error (.wait s)
    | .walkfault c r va _ =>
      if h.revoked then fault .handleRevoked (dw n.toNat)
      else .error (.trap ⟨c, some (dw (va + off)), .raw r, .none⟩)
    | .valid p =>
      let e := dw (p.va + off)
      if h.revoked then fault .handleRevoked (dw n.toNat)
      else if 2 ^ p.bits < off + size then fault .handleBound e
      else if off % al ≠ 0 then fault .misalign e
      else if write && p.trellis then fault .trellisWrite e
      else if write && !p.writable then fault .permission e
      else if p.sysCount then fault .latticeType e
      else .ok (h, p)

/-- Handle; `align` is false where a command omits the alignment check (R222). -/
def handle (s : State) (n : BitVec 4) (off size : Nat) (write align : Bool) : M (Handle × Page) :=
  handleTo s n off size (if align then size else 1) write

/-- The physical addresses of n bytes at an offset of a page, for an access at a site; HANDLE_BOUND with EINFO the first VA
outside the tensor (R366). -/
def Page.addrs (p : Page) (site off n : Nat) : M (List Nat) :=
  (List.range n).mapM fun i => match p.byte site (off + i) with
    | some pa => .ok pa
    | none => fault .handleBound (dw (p.va + off + i))

/-- An access to these addresses by the executing unit goes ahead: REMOTE_GATED for another core's closed port (R411), a
wait for unperformed writes (R288, R300) and, by the leaf's HASH, for a channel. -/
def reach (s : State) (pas : List Nat) (einfo : DWord) (hash : Option Nat := none) : M Unit :=
  match s.gatedCore s.cur pas with
  | some c => .error (.trap ⟨.remoteGated, some einfo, .std 1 0, .ungate c⟩)
  | none => if s.mustWait s.cur pas hash || s.remoteFull s.cur pas then .error (.wait s) else .ok ()

/-- n offsets from one on. -/
def run (off n : Nat) : List Nat := (List.range n).map (off + ·)

/-- Bytes read from memory by the executing unit, through a page of a HASH: UNCORRECTABLE where one cannot be corrected (R130, R450). `read` gives them,
and what the read leaves behind. -/
def readBy {α : Type} (s : State) (hash : Option Nat) (pas : List Nat) (einfo : Nat → DWord) (read : State → α) : M α :=
  match s.firstBad pas with
  | some i =>
    let pa := pas.getD i 0
    .error (.trap ⟨.uncorrectable, some (einfo i), .std 1 0, .errorRecord (badKind pa) (codewordOf (s.direct pa)) hash⟩)
  | none => .ok (read (s.noteReads s.cur pas hash))

/-- Bytes that the executing unit finds as they stand. -/
def readPas (s : State) (hash : Option Nat) (pas : List Nat) (einfo : Nat → DWord) : M (State × List Byte) :=
  readBy s hash pas einfo fun s => (s, s.rdAll pas)

/-- Bytes of a page, or of the core's own memory, that a plain load of the executing unit returns (R301), free ones under a
disagreeing HASH (R367). -/
def readPlain (s : State) (p : Option Page) (pas : List Nat) (einfo : Nat → DWord) : M (State × List Byte) :=
  readBy s (p.map (·.hash)) pas einfo fun s =>
    let (s, bs, _) := s.look s.cur p pas
    s.hashBytes ((p.map (·.hash)).getD 0) pas bs

/-- Bytes that a command of the executing unit reads from a page or from the core's own memory, unit by unit. -/
def readPieces (s : State) (p : Option Page) (pas : List Nat) (einfo : Nat → DWord) : M (State × List Byte) :=
  readBy s (p.map (·.hash)) pas einfo fun s =>
    let (s, bs) := s.lookUnits s.cur p 1 pas
    s.hashBytes ((p.map (·.hash)).getD 0) pas bs

/-- n bytes at an offset of a handle's page, checked, reached and read (acc = read). -/
def readVia (s : State) (h : BitVec 4) (off n align : Nat) : M (State × Page × List Byte) := do
  let (_, p) ← handle s h off n false false
  faultIf (off % align ≠ 0) .misalign (dw (p.va + off))
  let pas ← p.addrs (siteOf s.cur) off n
  reach s pas (dw (p.va + off)) (some p.hash)
  let (s, bs) ← readPlain s (some p) pas fun _ => dw (p.va + off)
  .ok (s, p, bs)

/-- A record of n bytes at g[ga] of h's page (R255): inside the page, aligned to its own size. -/
def readRecord (s : State) (h : BitVec 4) (a : BitVec 5) (n : Nat) : M (State × Nat × List Byte) := do
  let off := (s.rg a).toNat
  let (s, p, bs) ← readVia s h off n n
  .ok (s, p.va + off, bs)

/-- The first of a record's words that fails a check (EWORD.FIELD, R82). -/
def firstWord (cs : List (Nat × Bool)) : Option Nat := minBy id ((cs.filter (·.2)).map (·.1))

/-- FORMAT for a record whose words fail a check, POINT 4, with FIELD the first such word (R82). -/
def recordIf (cs : List (Nat × Bool)) (einfo : DWord) : M Unit :=
  match firstWord cs with
  | some f => faultAt .format einfo 4 f
  | none => .ok ()

/-! ### Walks that an instruction makes for itself (R324, R361, R392, R415) -/

/-- The trap of such a walk: EINFO by the size exponent of what was reached, EWORD the walk report where the rule says so (R363),
else the standard word (R82); an uncorrectable entry is recorded. -/
def State.walkTrap (s : State) (c : Cause) (r : DWord) (va : Nat) (report : Bool) : Trap :=
  let ea := dbits r 47 0
  ⟨c, some (dw va), if report then .raw r else .std 0 0,
    if s.badAt ea then .errorRecord (badKind ea) (codewordOf (s.direct ea)) none else .none⟩

/-- A page walked through LCi's root: the instruction waits while the walk stands at a locked entry or at a gated core. -/
def walkFor (s : State) (i va : Nat) (report : Bool) (einfo : Nat → Nat) : M (State × Page) :=
  match s.deviceWalk i va with
  | (s, .page p) => .ok (s, p)
  | (s, .fault c r b) => .error (.trapIn s (s.walkTrap c r (einfo b) report))
  | (s, .stuck _ _) => .error (.wait s)

/-! ### Control-core operands (R255, R256) -/

/-- A private word of a control core: counted when it completes (R333). -/
def lcWord (s : State) (r : M State) : Host.Outcome State Fault Refusal :=
  finish s (r.map fun t => t.setMe { t.me with cmdIndex := t.me.cmdIndex + 1 })

/-- The control core and context executing; ILLEGAL outside the contexts named. -/
def lcContext (s : State) (l c t : Bool) : M (Nat × Ctx) :=
  match s.cur with
  | .ctx i .l => if l then .ok (i, .l) else faultFree .illegal
  | .ctx i .c => if c then .ok (i, .c) else faultFree .illegal
  | .ctx i .s => if t then .ok (i, .s) else faultFree .illegal
  | _ => faultFree .illegal

/-- ILLEGAL except on LC16 and LC17 (R267, R338). -/
def firmwareOnly (i : Nat) : M Unit := if 16 ≤ i then .ok () else faultFree .illegal

/-- A card id in a register (R256). -/
def cardId (s : State) (a : BitVec 5) : M Nat :=
  let v := s.rg a
  if v.toNat < 65536 then .ok v.toNat else fault .illegal v

/-- A core number in a register (R256). -/
def coreNo (s : State) (a : BitVec 5) : M Nat :=
  let v := s.rg a
  if v.toNat < 32 then .ok v.toNat else fault .illegal v

/-- Whether LCi serves a core (R6). -/
def serves (i core : Nat) : Bool := decide (core / 2 = i)

/-- EINFO of LINING_MISMATCH (R273): what of the request differs. -/
def liningCode : LiningPart → Nat
  | .kind => 0
  | .address => 1
  | .data => 2

/-- A request leaves a context only when its lining core produces the same (R272): else LINING_MISMATCH (R273). -/
def lining (s : State) : M Unit :=
  match s.cur with
  | .ctx i k => match Tab.find? (s.lc i).lining k with
    | none => .ok ()
    | some w => faultAt .liningMismatch (dw (liningCode w)) 6 0
  | _ => .ok ()

/-- The stores that the executing context has not seen performed: a release waits for them (R271). -/
def released (s : State) : M Unit := waitUntil s (s.allPerformed s.cur)

/-! ### Generation, tokens and masks of a private word (R62, R64, R73) -/

/-- The pop and push masks of a private word: a kind 2 prefix, or the preset that tk3 selects, or none. -/
def Stream.masks (x : Stream) (tk : BitVec 3) : BitVec 5 × BitVec 5 :=
  match x.pfx.tokens with
  | some t => (t.extractLsb' 5 5, t.extractLsb' 0 5)
  | none =>
    if tk = 0 then (0, 0)
    else
      let v := x.tp[tk.toNat]'(tk.isLt)
      (v.extractLsb' 5 5, v.extractLsb' 0 5)

/-- The generation tag of a private word's command: a kind 3 prefix, or GEN. -/
def Stream.tagOf (x : Stream) : Byte := x.pfx.gen.getD x.gen

end Sys2Proof.Machine
end

