-- ==== Sys2Proof/Machine/Cards.lean ====
section
/-!
DEFINITION. Job cards and jobs (spec/12_scheduling_job_cards.md R319 to R331; spec/08_control_core.md R256 to R262): the card's
fields and checks, estimates, admission, queues, and how a job is made.
-/

namespace Sys2Proof.Machine

/-! ### The card's fields (R319) -/

def cardPrio (c : List Word) : Nat := bits (wd c 0) 23 16
def cardFlag (c : List Word) (n : Nat) : Bool := bit (wd c 0) (8 + n)
def cardEngines (c : List Word) : Nat := bits (wd c 0) 7 0
def cardTrip (c : List Word) : Nat := wd c 1
def cardSched (c : List Word) : Nat := bits (wd c 3) 31 24
def cardRdvn (c : List Word) : Nat := bits (wd c 3) 23 16
def cardDies (c : List Word) : Nat := bits (wd c 3) 15 8
def cardCores (c : List Word) : Nat := bits (wd c 3) 7 4
def cardPlace (c : List Word) : Nat := bits (wd c 3) 3 0
/-- Entry k (0 prologue, 1 kernel, 2 epilogue) of engine e (0 CX .. 4 NX). -/
def cardEntry (c : List Word) (e k : Nat) : Nat := wd c (4 + 3 * e + k)
def cardLoopKind (c : List Word) (n : Nat) : Nat := bits (wd c 19) (8 * n + 7) (8 * n + 6)
def cardLoopLog (c : List Word) (n : Nat) : Nat := bits (wd c 19) (8 * n + 5) (8 * n)
def cardXfer (c : List Word) (j : Nat) : Nat := bits (wd c (20 + j / 2)) (16 * (j % 2) + 15) (16 * (j % 2))
def cardCell (c : List Word) : Nat := wd2 c 24
def cardThresh (c : List Word) : Nat := wd2 c 26
def cardLive (c : List Word) : Nat := bits (wd c 28) 23 0
def cardGen (c : List Word) : Nat := bits (wd c 29) 31 24
def cardArgs (c : List Word) : Nat := wd2 c 30

/-- E = ⌈EST × 425 / 4⌉ ticks (R320). -/
def cardEst (c : List Word) : Nat := ceilDiv (wd c 2 * 425) 4

/-- The absent entry (R276). -/
def absent : Nat := 0xFFFFFFFF

/-- The product of the extents of a loop kind (R322). -/
def extents (c : List Word) (k : Nat) : Nat :=
  (List.range 4).foldl (fun p n => if cardLoopKind c n = k then p * 2 ^ cardLoopLog c n else p) 1

/-- The placement rules that depend on the card alone (R321, R322). -/
def placementOk (c : List Word) : Bool :=
  let spatial := (List.range 4).any fun n => decide (cardLoopKind c n = 1) || decide (cardLoopKind c n = 2)
  let neither := decide (cardDies c = 0) && decide (cardCores c = 0)
  let both := decide (cardDies c ≠ 0) && decide (cardCores c ≠ 0)
  let released := cardFlag c 2 || cardFlag c 3
  match cardPlace c with
  | 0 => neither && !spatial
  | 1 => both && !released && decide (extents c 1 = popcount 4 (cardCores c))
      && decide (extents c 2 = popcount 8 (cardDies c))
  | 2 => neither && !spatial && released
  | 3 => both && !spatial
  | _ => false

/-- The layout rules of a card (R319): each with the word it concerns; the placement rules with the word of PLACE. -/
def cardChecks (c : List Word) : List (Nat × Bool) :=
  [ (0, decide (bits (wd c 0) 31 24 ≠ 1) || decide (63 < cardPrio c) || decide (bits (wd c 0) 15 13 ≠ 0)
      || decide (cardEngines c = 0) || decide (32 ≤ cardEngines c) || decide (1 < popcount 4 (bits (wd c 0) 12 9))),
    (3, !placementOk c), (19, (List.range 4).any fun n => decide (cardLoopKind c n = 3)),
    (24, !cardFlag c 4 && decide (wd c 24 ≠ 0)),
    (25, decide (2 ^ 56 ≤ cardCell c) || (!cardFlag c 4 && decide (wd c 25 ≠ 0))),
    (26, !cardFlag c 4 && decide (wd c 26 ≠ 0)), (27, !cardFlag c 4 && decide (wd c 27 ≠ 0)),
    (28, decide (bits (wd c 28) 31 24 ≠ 0)), (29, decide (bits (wd c 29) 23 16 ≠ 0)) ]
  ++ (List.range 5).flatMap fun e =>
    (4 + 3 * e, bit (cardEngines c) e && decide (cardEntry c e 0 = absent) && decide (cardEntry c e 1 = absent))
    :: (List.range 3).map fun k =>
      let x := cardEntry c e k
      (4 + 3 * e + k, decide (x ≠ absent) && (!bit (cardEngines c) e || decide (x % 4 ≠ 0)))

/-- A card keeps the layout rules. -/
def cardOk (c : List Word) : Bool := (firstWord (cardChecks c)).isNone

/-- The cores of a gang, ascending in global index (R321). -/
def gangCores (c : List Word) : List Nat :=
  (setBits 8 (cardDies c)).flatMap fun d => (setBits 4 (cardCores c)).map fun k => 4 * d + k

/-- A card id taken as prepared (R256): its slot has been written since it was last released, and the card keeps the
layout. -/
def State.prepared (s : State) (id : Nat) : Bool := decide ((s.card id).state ≠ .empty) && cardOk (s.card id).words

/-- A slot is read for an instruction: UNCORRECTABLE where a word of it cannot be corrected (R450, R452), with an EINFO that no rule states. -/
def readCard (s : State) (id : Nat) : M State :=
  let pas := run (cardPa id 0) 128
  match s.firstBad pas with
  | some i => .error (.trap ⟨.uncorrectable, none, .std 1 0, .errorRecord 10 (codewordOf (pas.getD i 0)) none⟩)
  | none => .ok (s.noteReads s.cur pas)

/-- Bytes written into a slot from offset o on, the slot then as given: what that does to its words' errors (R452). -/
def State.writeCard (s : State) (id o : Nat) (bs : List Byte) (x : CardSlot) : State :=
  (s.setCard id x).heal (cellsAt (cardPa id o) bs)

/-- The bytes of a slot. -/
def CardSlot.image (x : CardSlot) : List Byte := (List.range 32).flatMap fun i => leBytes 4 (wd x.words i)

/-- A watch entry, or a running coded operator, names the slot as its template (R397, R417). -/
def State.isTemplate (s : State) (id : Nat) : Bool :=
  (s.watches.any fun w => decide (w.2.card = id))
  || (s.coded.any fun k => k.2.running && !(bit (wd k.2.desc 0) 18) && decide (bits (wd k.2.desc 24) 15 0 = id))

/-! ### Jobs -/

/-- The instances of a card on a core, or, for a gang, on each of its cores (R321, R322). -/
def instancesOf (c : List Word) (core : Nat) : List Inst :=
  if cardPlace c = 1 then
    let cs := setBits 4 (cardCores c)
    let ds := setBits 8 (cardDies c)
    (gangCores c).map fun g =>
      let rc := (findIdx (fun x => decide (x = g % 4)) cs).getD 0
      let rd := (findIdx (fun x => decide (x = g / 4)) ds).getD 0
      ⟨g, rd * cs.length + rc, .waiting, 0, rc, rd⟩
  else [⟨core, 0, .waiting, 0, 0, 0⟩]

/-- The job's lowest-numbered core. -/
def Job.lowCore (j : Job) : Nat := (minBy id (j.insts.map (·.core))).getD 0

/-- A job made from a card, with what released it (R271). -/
def newJob (id : Nat) (c : List Word) (o : Origin) (root core now : Nat) (reserved : Bool) (deadline : Nat) (clock : Clock) : Job where
  card := id
  words := c
  origin := o
  root := root
  reserved := reserved
  deadline := deadline
  admitted := now
  est := cardEst c
  ready := false
  readyTick := now
  issued := false
  started := false
  effPrio := cardPrio c
  insts := instancesOf c core
  pend := 0
  lastVa := 0
  cause := 0
  missed := false
  phase := none
  first := false
  cutSlot := none
  ending := false
  barred := false
  homeDie := core / 4
  cellPage := none
  clock := clock

/-- A job entered in the table of jobs. -/
def State.addJob (s : State) (j : Job) : Nat × State :=
  (s.nextJob, { s.setJob s.nextJob j with nextJob := s.nextJob + 1 })

/-- Jobs in a core's queue (R269 JQFREE: 16 less these). -/
def State.queueLen (s : State) (c : Nat) : Nat := (s.core c).jobq.length

/-- Whether an instance of a job on a core has not started. -/
def State.unstarted (s : State) (c j : Nat) : Bool :=
  match s.job? j with
  | some x => x.insts.any fun i => decide (i.core = c) && (decide (i.state = .queued) || decide (i.state = .waiting))
  | none => false

/-- A job put into a core's queue (R328): a reserved one ahead of every unreserved one that has not started. -/
def State.enqueueOn (s : State) (j : Nat) (reserved : Bool) (c : Nat) : State :=
  let k := s.core c
  let behind := fun (x : Nat) => s.unstarted c x && (match s.job? x with
    | some y => !y.reserved
    | none => false)
  let q := if reserved then (k.jobq.takeWhile fun x => !behind x) ++ [j] ++ (k.jobq.dropWhile fun x => !behind x)
    else k.jobq ++ [j]
  s.setCore c { k with jobq := q }

/-- A job's effective priority at a tick (R327). -/
def Job.effAt (j : Job) (tick : Nat) : Nat := cardPrio j.words + min 8 ((tick - j.readyTick) / 108800)

/-- A job issues into the queues of its instances in one step (R321, R323, R327); an instance that was saved keeps its
slot and is restored at its start. -/
def State.issueJob (s : State) (n : Nat) : State :=
  match s.job? n with
  | none => s
  | some j =>
    let cs := (j.insts.filter fun i => decide (i.state = .waiting) || (match i.state with
      | .saved _ => true
      | _ => false)).map (·.core)
    let s := s.setJob n { j with effPrio := j.effAt s.tick, ready := false, issued := true, insts := j.insts.map fun i =>
        if i.state = .waiting then { i with state := .queued } else i }
    let s := cs.foldl (fun s c => s.enqueueOn n j.reserved c) s
    if j.origin.isCopy then s else s.setCard j.card { s.card j.card with state := .queued }

/-- The jobs with an instance that runs on a core, the oldest first. -/
def State.runningJobs (s : State) (c : Nat) : List (Nat × Job) :=
  (s.core c).jobq.filterMap fun n => (s.job? n).bind fun j =>
    if j.insts.any fun i => decide (i.core = c) && decide (i.state = .running) then some (n, j) else none

/-- The job whose instance runs on a core (the oldest). -/
def State.runningOn (s : State) (c : Nat) : Option (Nat × Job) := (s.runningJobs c).head?

/-- The jobs that have started on a core and have not completed there. -/
def State.activeJobs (s : State) (c : Nat) : List (Nat × Job) :=
  s.jobs.filter fun k => k.2.started && k.2.insts.any fun i => decide (i.core = c) && (decide (i.state = .running) || decide (i.state = .halted))

/-- A job has started on a core and has not completed there (R289, R323): its streams may all have halted. -/
def State.activeOn (s : State) (c : Nat) : Bool :=
  !(s.activeJobs c).isEmpty

/-- The streams of a job's instance on its lowest core, as they stand: none for an instance that has not started, those that a
checkpoint saved, those that run or have halted there. -/
def State.lowStreams (s : State) (n : Nat) (j : Job) : Option (List (UnitId × Stream)) :=
  let c := j.lowCore
  match j.insts.find? fun i => decide (i.core = c) with
  | none => none
  | some i => match i.state with
    | .waiting => none
    | .queued => none
    | .saved slot => ((s.saved.find? fun y => decide (y.slot = slot)).map (·.streams))
    | _ => some ((coreUnits c).filterMap fun u => if (s.stream u).job = some n ∧ s.coreOf u = c then some (u, s.stream u) else none)

/-- Job-loop iterations completed on the job's lowest core, by the stream that completed the fewest (R320); a halted stream counts
TRIP. -/
def State.turnsOf (s : State) (n : Nat) (j : Job) : Nat :=
  let c := j.lowCore
  let es := (setBits 5 (cardEngines j.words)).filter fun e => decide (cardEntry j.words e 1 ≠ absent)
  match s.lowStreams n j with
  | none => 0
  | some xs =>
    let ts := es.map fun e =>
      match xs.find? fun x => decide (some x.1 = (coreUnits c)[e]?) with
      | none => cardTrip j.words
      | some (_, x) =>
        if x.run.live then (match x.jl with
          | some l => l.turns
          | none => cardTrip j.words) else cardTrip j.words
    (minBy id ts).getD 0

/-- The tick at which the first instance of a job started; none before that. -/
def Job.startTick (j : Job) : Option Nat :=
  minBy id (j.insts.filterMap fun i => match i.state with
    | .waiting => none
    | .queued => none
    | _ => some i.start)

/-- The ticks for which a job has run since its job-issue tick. -/
def State.elapsed (s : State) (j : Job) : Nat :=
  match j.startTick with
  | some t => s.tick - t
  | none => 0

/-- The remaining estimate of a running job (R320). -/
def State.remaining (s : State) (n : Nat) (j : Job) : Nat :=
  let trip := cardTrip j.words
  let hasKernel := (setBits 5 (cardEngines j.words)).any fun e => decide (cardEntry j.words e 1 ≠ absent)
  if hasKernel && decide (trip ≠ 0) then ceilDiv (j.est * (trip - s.turnsOf n j)) trip
  else j.est - s.elapsed j

/-- The reserved kernels admitted for a core and not started (R325). -/
def State.reservedUnstarted (s : State) (c : Nat) : List (Nat × Job) :=
  s.jobs.filter fun k => k.2.reserved && !k.2.ending
    && k.2.insts.any fun i => decide (i.core = c) && (decide (i.state = .queued) || decide (i.state = .waiting))

/-- B(x) of R325. -/
def State.backlog (s : State) (c : Nat) : Nat :=
  (match s.runningOn c with
    | some (n, j) => s.remaining n j
    | none => 0) + ((s.reservedUnstarted c).map fun k => k.2.est).sum

/-- D(x) of R325. -/
def State.deadlineOn (s : State) (c a est : Nat) : Nat := s.tick + a + ceilDiv ((s.backlog c + est) * 9) 8 + 64

/-! ### The scoreboard (R260) -/

/-- The lowest free entry of the 64. -/
def Lc.freeEntry (x : Lc) : Option Nat := (List.range 64).find? fun i => x.scb.all fun e => decide (e.ix ≠ i)

/-- The id of an entry: index and allocation sequence. -/
def ScbEntry.id (e : ScbEntry) : Nat := e.ix + 64 * e.seq

/-- The allocation sequence that an entry takes: one that would make the id 0xFFFF is passed over. -/
def Lc.takeSeq (x : Lc) (ix : Nat) : Nat := if ix + 64 * x.scbSeq = 0xFFFF then 0 else x.scbSeq

/-- An entry put into the scoreboard. -/
def Lc.alloc (x : Lc) (e : ScbEntry) : Lc :=
  let q := x.takeSeq e.ix
  { x with scb := x.scb ++ [{ e with seq := q }], scbSeq := (q + 1) % 1024 }

/-- The entries that stay (R260): those not finished, the failed ones not collected, and the succeeded ones that an admitted
kernel still waiting to issue names. -/
def State.sweepScb (s : State) (i : Nat) : State :=
  let x := s.lc i
  let named := fun (e : ScbEntry) => x.scb.any fun k => match k.kernel with
    | some n => (match s.job? n with
      | some j => (j.insts.any fun t => decide (t.state = .waiting))
          && ((List.range 8).any fun q => decide (cardXfer j.words q = e.id))
      | none => false)
    | none => false
  s.setLc i { x with scb := x.scb.filter fun e => !e.finished || decide (e.cause ≠ 0) || (e.kernel.isNone && named e) }

/-- The transfers of a control core that a card names and that are held (R261). -/
def Lc.xfersOf (x : Lc) (c : List Word) : List ScbEntry :=
  (List.range 8).filterMap fun j => x.scb.find? fun e => decide (cardXfer c j ≠ 0xFFFF) && decide (cardXfer c j = e.id)

end Sys2Proof.Machine
end

