-- ==== Sys2Proof/Machine/Fetch.lean ====
section
/-!
DEFINITION. Fetching an instruction: the words at the PC, with the prefix words that stand before them
(spec/02_words_registers_assembly.md R61 to R63, R66, R67).
-/

namespace Sys2Proof.Machine

/-- The fields a kind 0 prefix widens (R62): the immediates of SI (other than shifts, MFS, MTS) and SL, the offset of
SB, the offset of SM. -/
def extendable : Instr → Bool
  | .addi _ _ _ => true
  | .andi _ _ _ => true
  | .ori _ _ _ => true
  | .xori _ _ _ => true
  | .slti _ _ _ => true
  | .sltiu _ _ _ => true
  | .muli _ _ _ => true
  | .li _ _ => true
  | .lui _ _ => true
  | .auipc _ _ => true
  | .beq _ _ _ => true
  | .bne _ _ _ => true
  | .blt _ _ _ => true
  | .bge _ _ _ => true
  | .bltu _ _ _ => true
  | .bgeu _ _ _ => true
  | .ld _ _ _ _ _ => true
  | .st _ _ _ _ _ => true
  | .lda _ _ _ _ _ => true
  | .stl _ _ _ _ _ => true
  | .ldro _ _ _ _ _ => true
  | .ldlk _ _ _ _ _ => true
  | .stul _ _ _ _ _ => true
  | _ => false

/-- The stamp field of an MX word that carries one (R163). -/
def stampField : Instr → Option (BitVec 11)
  | .mma _ _ _ _ st _ => some st
  | .mmas _ _ _ _ st _ => some st
  | .mzero _ _ st _ => some st
  | .mrnd _ _ _ st _ => some st
  | .mnorm _ _ st => some st
  | .msave _ _ _ st => some st
  | .mload _ _ _ st => some st
  | .mtbl _ _ st => some st
  | .mxpt _ _ _ _ st => some st
  | _ => none

/-- The MX words that carry a stamp field. -/
def stamped (i : Instr) : Bool := (stampField i).isSome

/-- The delta of a stamped command: stamp11, or 31 bits under a kind 1 prefix (R62, R163). -/
def Pfx.delta (p : Pfx) (stamp : BitVec 11) : Nat :=
  match p.stamp with
  | none => stamp.toNat
  | some x => (x ++ stamp).toNat

/-- A prefix word added to those before it; none where R61 or R62 calls it ILLEGAL: a kind that stands already, a
reserved kind, a res0 bit of its payload. -/
def Pfx.add (p : Pfx) (tmr : Bool) (kind : BitVec 3) (payload : BitVec 20) : Option Pfx :=
  let p := { p with tmr := p.tmr || tmr }
  match kind.toNat with
  | 0 => if p.imm.isSome then none else some { p with imm := some payload }
  | 1 => if p.stamp.isSome then none else some { p with stamp := some payload }
  | 2 =>
    if p.tokens.isSome || decide (1024 ≤ payload.toNat) then none
    else some { p with tokens := some (payload.extractLsb' 0 10) }
  | 3 =>
    if p.gen.isSome || decide (256 ≤ payload.toNat) then none
    else some { p with gen := some (payload.extractLsb' 0 8) }
  | _ => none

/-- Whether the prefixes apply to the word after them (R62, R63). -/
def Pfx.fits (p : Pfx) (priv : Bool) (h : Half) (i : Instr) : Bool :=
  let carries := decide (h ≠ .lc) && decide (h ≠ .te)
  (match p.imm with
    | none => true
    | some x => !priv && (extendable i || (p.tmr && decide (x = 0))))
  && (match p.stamp with
    | none => true
    | some _ => priv && stamped i && decide (h = .mx))
  && (p.tokens.isNone || (priv && carries))
  && (p.gen.isNone || (priv && carries))
  && (!p.tmr || !priv)

/-- What a fetch delivers: the address and bits of the non-PFX word, the prefixes, the instruction. -/
structure Fetched where
  a : DWord
  word : Word
  pfx : Pfx
  instr : Instr
  deriving DecidableEq, Repr

/-- A cause raised at a fetch; the spec states no EINFO for it. -/
def fetchFault (c : Cause) (point : Nat) : Except Trap Fetched := .error ⟨c, none, .std point 0, .none⟩

/-- The tick of a stamped command with this delta (R163, R315). -/
def State.stampTick (s : State) (c delta : Nat) : Nat :=
  let k := s.core c
  match k.stretch with
  | none => k.mx.tref + delta
  | some (n, d) => k.mx.tref + ceilDiv (delta * n) d

/-- The op6 of the stamped commands (R163, R170). -/
def stampedOps : List Nat := [0x00, 0x01, 0x02, 0x04, 0x05, 0x06, 0x07, 0x0A, 0x0B]

/-- EWORD of a private word of MX on a core that is ILLEGAL (R169): of a stamped command, as the word names it, its tick and its buffer; 0 for
another. -/
def State.illegalMxWord (s : State) (c : Nat) (p : Pfx) (w : Word) : DWord :=
  let op := bits w.toNat 30 25
  if stampedOps.contains op then
    dw (s.stampTick c (p.delta (w.extractLsb' 2 11)) % 2 ^ 32 * 2 ^ 32 + (if op = 0x0A then 0 else b2n (w.getLsbD 13)))
  else 0

/-- ILLEGAL of a word: EWORD has the standard layout, or, for a private word of MX, that of R169. -/
def illegalWord (s : State) (m : ImemId) (p : Pfx) (w : Word) : Except Trap Fetched :=
  match m with
  | .eng .mx c => if w.getLsbD 31 then .error ⟨.illegal, none, .raw (s.illegalMxWord c p w), .none⟩ else fetchFault .illegal 0
  | _ => fetchFault .illegal 0

/-- The word of an instruction memory at a byte address. -/
def State.imemWord (s : State) (m : ImemId) (a : Nat) : Word := Tab.get (Tab.get s.imem m []) a 0

/-- The words from an address on, up to the first that is no prefix (R61, R66, R67); UNCORRECTABLE at one that cannot be corrected
(R450). -/
def fetchFrom (s : State) (m : ImemId) (h : Half) : Nat → DWord → Pfx → Except Trap Fetched
  | 0, _, _ => fetchFault .illegal 0
  | n + 1, a, p =>
    if a.toNat % 4 ≠ 0 then fetchFault .misalign 3
    else if 16 * Tab.get s.imlim m 0 ≤ a.toNat then fetchFault .runoff 3
    else
      if s.badAt (imemPa m a.toNat) then
        .error ⟨.uncorrectable, some a, .std 3 0, .errorRecord 10 (codewordOf (imemPa m a.toNat)) none⟩
      else
      let w := s.imemWord m a.toNat
      match classify h w with
      | .zero => fetchFault .runoff 3
      | .bad _ => illegalWord s m p w
      | .pfx tmr kind payload =>
        match p.add tmr kind payload with
        | none => fetchFault .illegal 0
        | some q => fetchFrom s m h n (a + 4) q
      | .instr i =>
        if p.fits (w.getLsbD 31) h i then .ok ⟨a, w, p, i⟩ else illegalWord s m p w

/-- The instruction at a unit's PC. -/
def fetch (s : State) (u : UnitId) : Except Trap Fetched :=
  fetchFrom s u.imem u.half 5 (s.stream u).pc Pfx.nil

/-- A fetch at the kernel entry before the job loop is first entered (R276): into the loop, or, when the trip count is
0, to the epilogue. A kernel-iteration boundary is left. -/
def Stream.enterJobLoop (x : Stream) : Stream :=
  match x.jl with
  | none => x
  | some l =>
    let l := { l with boundary := false }
    if l.entered || x.pc ≠ l.kernel then { x with jl := some l }
    else if l.count = 0 then { x with pc := l.epilogue, jl := some l }
    else { x with jl := some { l with entered := true } }

/-- The kernel entry stands without an epilogue above it (R276). -/
def JobLoop.malformed (l : JobLoop) : Bool := decide (l.epilogue = 0xFFFFFFFF) || decide (l.epilogue ≤ l.kernel)

end Sys2Proof.Machine
end

