-- ==== Sys2Proof/Machine/Run.lean ====
section
/-!
DEFINITION. When a unit may run, which rows happen as events, and what an upset does
(spec/09_streams_tokens_timing.md R276, R283, R284; spec/11_power_in_execution.md R310 to R317; spec/23 R449, R452;
log entries 6, 9, 15, 16).
-/

namespace Sys2Proof.Machine

/-- The job a stream belongs to. -/
def State.jobOf (s : State) (u : UnitId) : Option Job :=
  match (s.stream u).job with
  | some j => s.job? j
  | none => none

/-- Reported causes owed to a context (R81). -/
def State.owed (s : State) (i : Nat) (k : Ctx) : List Owed :=
  match k with
  | .l => (s.lc i).owedL
  | .c => (s.lc i).owedC
  | .s => (s.lc i).owedS

/-- A stream of an instance that is being killed, or that has arrived at its stop points (R345): it stops at a word boundary, a command
that has begun goes on (R346). -/
def State.stopped (s : State) (u : UnitId) : Bool :=
  match (s.stream u).job with
  | none => false
  | some j => !(((s.stream u).queued.map (·.started)).getD false) && decide ((s.core (s.coreOf u)).cut = some j) && (match s.job? j with
    | some jb => (match jb.phase with
      | some .kill => true
      | some (.arrived _ _) => true
      | _ => false)
    | none => false)

/-- The package is on (R466) and has begun reduced service, which takes a compute die that has passed (R468). -/
def State.inService (s : State) : Bool :=
  s.mgc.poweredOn && decide (6 ≤ s.mgc.stepDone) && (List.range 8).any fun d => (s.die d).power

/-- Whether a unit executes at its PC now: it exists and runs, its die is on, the package is in service, its core is not changing rail
(R284), its instance is not stopped by a cut (R345), and, for a context, no reported cause waits at
this boundary (R81): one that waits within an instruction first ends it. -/
def State.mayRun (s : State) (u : UnitId) : Bool :=
  okUnit u && decide ((s.stream u).run = .running) && s.inService
  && (match u with
    | .ctx i k => (s.owed i k).isEmpty || (s.stream u).waiting.isSome
    | .te => true
    | v => (s.die (s.coreOf v / 4)).power && decide ((s.core (s.coreOf v)).railHold ≤ s.now)
        && !s.stopped v)

/-- FORMAT at the first word of a stream whose job loop has no epilogue above the kernel entry (R276). -/
def State.formatAtStart (s : State) (u : UnitId) : Option Trap :=
  match (s.stream u).jl with
  | none => none
  | some l => if l.malformed then some ⟨.format, some (dw (s.cardCode u)), .std 0 0, .none⟩ else none

/-- The rows that are register operands of a control context (ports), not events. -/
def isPortRow : Instr → Bool
  | .jqpush _ _ => true
  | .done _ _ => true
  | .faultq _ => true
  | .resumeRetry _ => true
  | .resumeHandler _ => true
  | .abort _ => true
  | .inval _ => true
  | .migcmdStart _ => true
  | .migcmdEnd _ => true
  | .bncq _ => true
  | .bncdone _ => true
  | .hostirq _ => true
  | .registerWrite space _ _ => decide (space = 0)
  | _ => false

/-- The rows that happen on their own: no word, and no port. -/
def isEvent (i : Instr) : Bool := (encode i).isNone && !isPortRow i

/-- Whether MX of a core may issue stamped commands: no forced drop in progress (R315), no stream of the instance
held (R337). -/
def State.mxMayIssue (s : State) (c : Nat) : Bool :=
  !(s.core c).mxHold
  && (match (s.stream (.eng .mx c)).job with
    | none => true
    | some j => (s.jobUnits j c).all fun v => match (s.stream v).run with
      | .held _ => false
      | _ => true)

/-- The words of MX whose whole effect is undone when a stamped command before them turns out to be at fault (R81, R165): the plain words
of the stream's registers and loops, and the words of MX. -/
def undoable : Instr → Bool
  | .add _ _ _ => true
  | .sub _ _ _ => true
  | .mul _ _ _ => true
  | .mulh _ _ _ => true
  | .mulhu _ _ _ => true
  | .div _ _ _ => true
  | .divu _ _ _ => true
  | .rem _ _ _ => true
  | .remu _ _ _ => true
  | .and _ _ _ => true
  | .or _ _ _ => true
  | .xor _ _ _ => true
  | .andn _ _ _ => true
  | .shl _ _ _ => true
  | .shr _ _ _ => true
  | .sra _ _ _ => true
  | .rol _ _ _ => true
  | .slt _ _ _ => true
  | .sltu _ _ _ => true
  | .seq _ _ _ => true
  | .min _ _ _ => true
  | .max _ _ _ => true
  | .minu _ _ _ => true
  | .maxu _ _ _ => true
  | .clz _ _ => true
  | .popc _ _ => true
  | .idx _ _ _ _ => true
  | .extu _ _ _ _ => true
  | .sext _ _ _ => true
  | .cmovnz _ _ _ => true
  | .addi _ _ _ => true
  | .andi _ _ _ => true
  | .ori _ _ _ => true
  | .xori _ _ _ => true
  | .shli _ _ _ => true
  | .shri _ _ _ => true
  | .srai _ _ _ => true
  | .slti _ _ _ => true
  | .sltiu _ _ _ => true
  | .muli _ _ _ => true
  | .li _ _ => true
  | .lui _ _ => true
  | .auipc _ _ => true
  | .beq _ _ _ => true
  | .bne _ _ _ => true
  | .blt _ _ _ => true
  | .bge _ _ _ => true
  | .bltu _ _ _ => true
  | .bgeu _ _ _ => true
  | .j _ => true
  | .call _ => true
  | .jr _ _ => true
  | .loop _ _ _ => true
  | .loopi _ _ _ => true
  | .mfs _ _ => true
  | .mts _ _ => true
  | .cyc _ => true
  | .nop => true
  | .mma _ _ _ _ _ _ => true
  | .mmas _ _ _ _ _ _ => true
  | .mzero _ _ _ _ => true
  | .mpi _ _ _ _ => true
  | .mrnd _ _ _ _ _ => true
  | .mnorm _ _ _ => true
  | .msave _ _ _ _ => true
  | .mload _ _ _ _ => true
  | .mtd _ _ _ _ => true
  | .mstb _ _ _ => true
  | .mtbl _ _ _ => true
  | .mxpt _ _ _ _ _ => true
  | _ => false

/-- A word of MX stands until every command before it is known to be free of faults (R165): one whose effect could not be undone. -/
def State.mxHolds (s : State) (u : UnitId) (i : Instr) : Bool := s.mxOpen u && !undoable i

/-- A stamped command whose issue edge has come (R164). -/
def State.mxDue (s : State) (c : Nat) : Bool :=
  match (s.stream (.eng .mx c)).queued with
  | none => false
  | some q => q.stamped && s.mayRun (.eng .mx c) && s.mxMayIssue c
      && decide (edgeAt (s.core c).level (10 * s.stampTick c q.delta) ≤ s.now)

/-- Whether a multiple of a period has come since the last one served. -/
def periodDue (tick period served : Nat) : Bool := decide (served < tick / period * period)

/-- What an upset does: the codeword or word at an address holds wrong symbols, or the next triple issue or outbound
request of a unit differs. -/
def State.upset (s : State) : Upset → State
  | .array pa m => { s with ecc := Tab.set s.ecc (pa / 32 * 32) (Tab.get s.ecc (pa / 32 * 32) 0 ||| m.toNat) }
  | .miscorrect pa bs n =>
    if kindOf pa < 2 then
      { s with mem := Mem.setAll s.mem (cellsAt (pa / 32 * 32) (bs.take 32)), ecc := Tab.set s.ecc (pa / 32 * 32) (2 ^ n.toNat) }
    else s
  | .sram pa m => { s with ecc := Tab.set s.ecc (pa / 8 * 8) (Tab.get s.ecc (pa / 8 * 8) 0 ||| m.toNat) }
  | .tmr u d b => { s with tmrUpset := Tab.set s.tmrUpset (u, d) b }
  | .lining i k w => s.setLc i { s.lc i with lining := Tab.set (s.lc i).lining k w }

/-- The unit that executes a word row when one is placed for it: the stream of its half on core 0 (die 0), a shared word
on the CX stream of core 0, an LC word in a context that may run it (R255). -/
def placeUnit (i : Instr) : UnitId :=
  match halfOf i with
  | .cx => .eng .cx 0
  | .vl => .eng .vl 0
  | .ve => .eng .ve 0
  | .mx => .eng .mx 0
  | .nx => .nx 0
  | .te => .te
  | .lc => match i with
    | .sxfer _ _ _ => .ctx 0 .l
    | .lxset _ _ _ => .ctx 16 .c
    | .layset _ _ _ => .ctx 16 .c
    | _ => .ctx 0 .c

/-- A word stored at an address of an instruction memory, its limit raised over it (R67). -/
def State.placeWord (s : State) (m : ImemId) (a : Nat) (w : Word) : State :=
  { s with imem := Tab.set s.imem m (Tab.set (Tab.get s.imem m []) a w)
           imlim := Tab.set s.imlim m (max (Tab.get s.imlim m 0) (a / 16 + 1)) }

/-- The word stored at the PC of the unit that executes it, the unit running and its move next (log entry 7). -/
def State.placeNext (s : State) (w : Word) (i : Instr) : State :=
  let u := placeUnit i
  let s := s.placeWord u.imem (s.stream u).pc.toNat w
  { s.setStream u { s.stream u with run := .running } with moves := [.unit u] }

end Sys2Proof.Machine
end

