-- ==== Sys2Proof/Machine/Tokens.lean ====
section
/-!
DEFINITION. Token queues and engine commands (spec/09_streams_tokens_timing.md R277 to R280; spec/03 R104 to R107;
spec/05 R167; spec/06 R193): popping, pushing, closed queues, squashing, and the frame in which a private word of an
engine stream runs.
-/

namespace Sys2Proof.Machine

/-! ### Endpoints -/

/-- The six endpoints in the order of R74. -/
def endpoints : List Endpoint := [.ctl, .cx, .vl, .ve, .mx, .nx]

/-- The code of an endpoint (R59). -/
def endpointCode : Endpoint → Nat
  | .ctl => 0
  | .cx => 1
  | .vl => 2
  | .ve => 3
  | .mx => 4
  | .nx => 5

/-- The endpoint with a code; none for 6 and 7. -/
def endpointOf (n : Nat) : Option Endpoint := endpoints[n]?

/-- The endpoints that the bits of a mask of an engine name (R74): bit i is the i-th endpoint other than its own. -/
def maskEnds (self : Endpoint) (m : BitVec 5) : List Endpoint :=
  ((setBits 5 m.toNat).filterMap fun i => (endpoints.filter (· ≠ self))[i]?)

/-! ### A queue (R277) -/

/-- A queue without tokens. -/
def TokenQueue.empty : TokenQueue := ⟨[], 0, []⟩

/-- A core's queue from one endpoint to another. -/
def Core.queue (k : Core) (p e : Endpoint) : TokenQueue := Tab.get k.tokens (p, e) TokenQueue.empty

def Core.setQueue (k : Core) (p e : Endpoint) (q : TokenQueue) : Core := { k with tokens := Tab.set k.tokens (p, e) q }

/-- A queue has no free entry, net of the reserved ones (R277). -/
def TokenQueue.full (q : TokenQueue) : Bool := decide (16 ≤ q.toks.length + q.reserved)

/-- Tokens that wait in the squash buffer enter when there is room (R104). -/
def TokenQueue.settle (q : TokenQueue) : TokenQueue :=
  let n := 16 - (q.toks.length + q.reserved)
  { q with toks := q.toks ++ q.squash.take n, squash := q.squash.drop n }

/-- A tag is older than a generation (R104): (G − tag) mod 256 in 1..127. -/
def olderTag (g tag : Byte) : Bool := decide (1 ≤ (g - tag).toNat) && decide ((g - tag).toNat ≤ 127)

/-- The queue after a consumer of generation G has discarded the older tokens from its head (R104). -/
def TokenQueue.discard (q : TokenQueue) (g : Byte) : TokenQueue :=
  let all := (q.toks ++ q.squash).dropWhile fun t => olderTag g t.tag
  let n := 16 - q.reserved
  { q with toks := all.take n, squash := all.drop n }

/-- The queue without its head. -/
def TokenQueue.pop (q : TokenQueue) : TokenQueue := ({ q with toks := q.toks.drop 1 } : TokenQueue).settle

/-- A real token pushed; a push finds room by R277. -/
def TokenQueue.push (q : TokenQueue) (t : Token) : TokenQueue := { q with toks := q.toks ++ [t] }

/-- A void token of a squash: into the queue, or its squash buffer (R104). -/
def TokenQueue.pushVoid (q : TokenQueue) (g : Byte) : TokenQueue :=
  ({ q with squash := q.squash ++ [Token.mk g true Clock.empty] } : TokenQueue).settle

/-- The push of a command that had reserved its entry, with what it releases. -/
def TokenQueue.pushReserved (q : TokenQueue) (g : Byte) (k : Clock) : TokenQueue :=
  { q with toks := q.toks ++ [⟨g, false, k⟩], reserved := q.reserved - 1 }

/-! ### Closed queues (R279) -/

/-- The unit at an endpoint of a core. -/
def endUnit (c : Nat) : Endpoint → List UnitId
  | .ctl => [.ctx (c / 2) .l, .ctx (c / 2) .c, .ctx (c / 2) .s]
  | .cx => [.eng .cx c]
  | .vl => [.eng .vl c]
  | .ve => [.eng .ve c]
  | .mx => [.eng .mx c]
  | .nx => [.nx (c / 4)]

/-- A command of an endpoint's engine tagged G has issued and has not finished; a stream transfer is no command (R235). -/
def State.unfinished (s : State) (c : Nat) (p : Endpoint) (g : Byte) : Bool :=
  let k := s.core c
  (match p with
    | .ctl => false
    | .cx => k.cx.any fun f => f.xfer.isNone && decide (f.tag = g)
    | .vl => (k.sb.any fun e => decide (e.tag = g)) || (k.lq.any fun e => !e.filled && decide (e.tag = g))
        || k.vlPushes.any fun e => decide (e.tag = g)
    | .ve => false
    | .mx => k.mx.flight.any fun f => decide (f.tag = g)
    | .nx => (s.die (c / 4)).sends.any fun x => decide (x.core = c) && decide (x.tag = g))
  || ((endUnit c p).any fun u => match (s.stream u).queued with
    | some q => decide (q.tag = g) && decide (s.coreOf u = c)
    | none => false)

/-- A queue from p is closed for G: the stream at p has left G, and no command of its engine tagged G is unfinished.
The CTL endpoint has left G when one of its contexts has and none of them is at G (log entry 23). -/
def State.closedFor (s : State) (c : Nat) (p : Endpoint) (g : Byte) : Bool :=
  let us := endUnit c p
  (us.any fun u => (s.stream u).left.contains g)
  && (decide (p ≠ .ctl) || us.all fun u => decide ((s.stream u).gen ≠ g))
  && (decide (p ≠ .nx) || us.all fun u => decide (s.coreOf u = c))
  && !s.unfinished c p g

/-- What a queue offers a consumer of generation G (R278, R279), after the older tokens are gone: its head, tagged G; or
a void token that is not stored; or nothing. -/
inductive Offer where
  | head (t : Token)
  | closed
  | nothing
  deriving DecidableEq, Repr

/-- Of a closed queue whose head is younger while a token tagged G stands behind it, R106's pseudocode returns a void token and R279 offers
none: DESIGN CHOICE, the model follows R279 and offers nothing. -/
def State.offer (s : State) (c : Nat) (p e : Endpoint) (g : Byte) : Offer :=
  let q := ((s.core c).queue p e).discard g
  match q.toks with
  | t :: _ => if t.tag = g then .head t
      else if s.closedFor c p g && q.toks.all fun x => decide (x.tag ≠ g) then .closed else .nothing
  | [] => if s.closedFor c p g then .closed else .nothing

/-- The queues into an endpoint after their older tokens are gone. -/
def State.discardInto (s : State) (c : Nat) (e : Endpoint) (ps : List Endpoint) (g : Byte) : State :=
  s.setCore c (ps.foldl (fun k p => k.setQueue p e ((k.queue p e).discard g)) (s.core c))

/-- One token taken from each queue that offered one, the pop of a real one an acquire of the executing stream (R108); whether one of
them was void. -/
def State.popInto (s : State) (c : Nat) (e : Endpoint) (g : Byte) : List Endpoint → State × Bool
  | [] => (s, false)
  | p :: ps =>
    match s.offer c p e g with
    | .head t =>
      let s := s.setCore c ((s.core c).setQueue p e (((s.core c).queue p e).discard g).pop)
      let s := if t.isVoid then s else s.acquire (s.agentOf s.cur) t.clock
      let (s, v) := s.popInto c e g ps
      (s, t.isVoid || v)
    | _ => ((s.popInto c e g ps).1, true)

/-- Void tokens pushed by a squashed command (R104, R193). -/
def State.pushVoids (s : State) (c : Nat) (e : Endpoint) (m : BitVec 5) (g : Byte) : State :=
  s.setCore c ((maskEnds e m).foldl (fun k p => k.setQueue e p ((k.queue e p).pushVoid g)) (s.core c))

/-- Real tokens pushed by a command that finishes as it issues, with what they release. -/
def State.pushNow (s : State) (c : Nat) (e : Endpoint) (m : BitVec 5) (g : Byte) (r : Clock) : State :=
  s.setCore c ((maskEnds e m).foldl (fun k p => k.setQueue e p ((k.queue e p).push ⟨g, false, r⟩)) (s.core c))

/-- Entries reserved for the pushes of a command that has issued (R277). -/
def State.reserve (s : State) (c : Nat) (e : Endpoint) (m : BitVec 5) : State :=
  s.setCore c ((maskEnds e m).foldl
    (fun k p => k.setQueue e p { k.queue e p with reserved := (k.queue e p).reserved + 1 }) (s.core c))

/-- The pushes of a command that finishes (R167, R193, R223), with what they release. -/
def State.pushFinished (s : State) (c : Nat) (e : Endpoint) (m : BitVec 5) (g : Byte) (r : Clock) : State :=
  s.setCore c ((maskEnds e m).foldl (fun k p => k.setQueue e p ((k.queue e p).pushReserved g r)) (s.core c))

/-- The pushes of a command of an engine for a job, with its place in the order of commands, when it finishes: what came before it and its
own effects are released (R108, R299). -/
def State.pushDone (s : State) (u : UnitId) (c job n : Nat) (m : BitVec 5) (g : Byte) : State :=
  if m = 0 then s else s.pushFinished c u.endpoint m g (s.releaseOf (.unit u job) n 0)

/-- The entries that a command had reserved are given up: it will not push (R186). -/
def State.unreserve (s : State) (c : Nat) (e : Endpoint) (m : BitVec 5) : State :=
  s.setCore c ((maskEnds e m).foldl
    (fun k p => k.setQueue e p ({ k.queue e p with reserved := (k.queue e p).reserved - 1 } : TokenQueue).settle) (s.core c))

/-- The first queue of a push mask without a free entry. -/
def State.fullQueue (s : State) (c : Nat) (e : Endpoint) (m : BitVec 5) : Option Endpoint :=
  (maskEnds e m).find? fun p => ((s.core c).queue e p).full

/-! ### Private words of an engine stream (R193, R223, R278, R333) -/

/-- What a command captures when the sequencer reaches it (R117). -/
def Stream.capture (x : Stream) (tk : BitVec 3) (now : Nat) : Queued :=
  match x.queued with
  | some q => q
  | none =>
    let (pops, pushes) := x.masks tk
    ⟨x.a, x.word, 0, x.tagOf, pops, pushes, 0, now, false, false⟩

/-- The sequencer goes on from a command: it counts (R333). -/
def Stream.counted (x : Stream) : Stream := { x with queued := none, cmdIndex := x.cmdIndex + 1 }

/-- A command waits: it takes no effect, but stands at the head of its engine's queue (R84, R104). -/
def State.waitQueued (s : State) (q : Queued) : State :=
  s.setMe { s.me with queued := some q, waiting := some (s.me.waiting.getD ⟨s.now, none⟩) }

/-- When a command's tokens are pushed: as it issues, or at its finish. -/
inductive PushAt where
  | issue | finish
  deriving DecidableEq, Repr

/-- A push that is made as its command issues releases what the stream accessed before (R108, R299). -/
def State.pushReady (s : State) (u : UnitId) : Bool :=
  match u with
  | .nx _ => s.pending.all fun p => decide (p.who ≠ u)
  | _ => s.allPerformed u

/-- What the walks of a word that waits leave behind: where they stand, and the cores that they asked for (R361, R411). -/
def State.keepWalks (s t : State) : State :=
  { s with deviceWalks := t.deviceWalks
           cores := s.cores.map fun kc => (kc.1, { kc.2 with ungate := kc.2.ungate || (t.core kc.1).ungate }) }

/-- The frame of an unstamped private word (R193, R278): it waits for its tokens, is squashed by a void one, raises
TOKEN_OVERFLOW where a queue to be pushed is full, waits where a push at issue has earlier accesses to release, and otherwise has the
effect of `body`, which also sets the next PC. A wait of the body leaves no effect; a body that goes on at its next turn takes its tokens at
the end, or, with `early`, before its first turn (R219). -/
def command (s : State) (tk : BitVec 3) (at_ : PushAt) (body : State → Queued → M State) (early : Bool := false) : M State :=
  let u := s.cur
  let c := s.coreOf u
  let e := u.endpoint
  let q := s.me.capture tk s.now
  let ps := maskEnds e q.pops
  let s0 := s.discardInto c e ps q.tag
  if ps.any fun p => decide (s0.offer c p e q.tag = .nothing) then .error (.wait (s0.waitQueued q))
  else
    let (s1, squashed) := s0.popInto c e q.tag ps
    if squashed then .ok (((s1.pushVoids c e q.pushes q.tag).setMe s1.me.counted).retire)
    else match s1.fullQueue c e q.pushes with
      | some p => faultAt .tokenOverflow (dw (endpointCode p)) 5 0
      | none =>
        if decide (at_ = .issue) && decide (q.pushes ≠ 0) && !s.pushReady u then
          .error (if early then .goOn (s1.waitQueued { q with started := true, pops := 0 }) else .wait (s0.waitQueued q)) else
        match body s1 q with
        | .error (.trap t) => .error (.trap t)
        | .error (.trapIn t x) => .error (.trapIn (t.setCore c { t.core c with tokens := (s0.core c).tokens }) x)
        | .error (.wait t) => .error (.wait ((s0.keepWalks t).waitQueued q))
        | .error (.goOn t) =>
          if early then .error (.goOn (t.waitQueued { q with started := true, pops := 0 }))
          else .error (.goOn ((t.setCore c { t.core c with tokens := (s0.core c).tokens }).waitQueued { q with started := true }))
        | .ok t =>
          let t := t.setMe t.me.counted
          match at_ with
          | .issue => .ok (t.pushNow c e q.pushes q.tag (t.releaseNow (t.agentOf u)))
          | .finish => .ok (t.reserve c e q.pushes)

/-- An unstarted command discarded by a squash (R104): void tokens by its push mask, the sequencer past it; a stamped one
moves the reference tick (R163). One that has begun goes on. -/
def State.squashQueued (s : State) (c : Nat) (u : UnitId) (g : Byte) (tickOf : State → Nat → Nat → Nat) : State :=
  match (s.stream u).queued with
  | none => s
  | some q =>
    if q.tag ≠ g ∨ q.started then s else
    let t := tickOf s c q.delta
    let s := s.pushVoids c u.endpoint q.pushes q.tag
    let s := if q.stamped then s.setCore c { s.core c with mx := { (s.core c).mx with tref := t } } else s
    let x := s.stream u
    s.setStream u ({ x with a := q.addr }.counted.next)

/-! ### Leaving a generation (R104, R113, R279) -/

/-- A stream goes from its generation to n: every generation passed has been left. -/
def Stream.leaveFor (x : Stream) (n : Byte) : Stream :=
  let passed := (List.range (n - x.gen).toNat).map fun i => x.gen + BitVec.ofNat 8 i
  { x with gen := n, left := ((passed ++ x.left).eraseDups).filter fun t => olderTag n t }

end Sys2Proof.Machine
end

