-- ==== Sys2Proof/Machine/Branch.lean ====
section
/-!
DEFINITION. Shared subset: branches, jumps and hardware loops (spec/03_shared_integer_control.md R97 to R104).
-/

namespace Sys2Proof.Machine

/-! ### Branches and jumps -/

/-- A conditional branch (R97): to A + 4 × off when the condition holds, else on. -/
def branch (c : Bool) (o : BitVec 14) (s : State) : Host.Outcome State Fault Refusal :=
  shared s fun s => .ok (if c then s.jump (s.me.target (s.me.simm o)) else s.retire)

def execBeq (a b : BitVec 5) (o : BitVec 14) (s : State) : Host.Outcome State Fault Refusal :=
  branch (decide (s.rg a = s.rg b)) o s

def execBne (a b : BitVec 5) (o : BitVec 14) (s : State) : Host.Outcome State Fault Refusal :=
  branch (decide (s.rg a ≠ s.rg b)) o s

def execBlt (a b : BitVec 5) (o : BitVec 14) (s : State) : Host.Outcome State Fault Refusal :=
  branch ((s.rg a).slt (s.rg b)) o s

def execBge (a b : BitVec 5) (o : BitVec 14) (s : State) : Host.Outcome State Fault Refusal :=
  branch (!(s.rg a).slt (s.rg b)) o s

def execBltu (a b : BitVec 5) (o : BitVec 14) (s : State) : Host.Outcome State Fault Refusal :=
  branch ((s.rg a).ult (s.rg b)) o s

def execBgeu (a b : BitVec 5) (o : BitVec 14) (s : State) : Host.Outcome State Fault Refusal :=
  branch (!(s.rg a).ult (s.rg b)) o s

/-- R98. -/
def execJ (o : BitVec 24) (s : State) : Host.Outcome State Fault Refusal :=
  shared s fun s => .ok (s.jump (s.me.target o.toInt))

/-- R98: the link is the address of the word after the CALL. -/
def execCall (o : BitVec 24) (s : State) : Host.Outcome State Fault Refusal :=
  shared s fun s => .ok ((s.wg 31 (s.me.a + 4)).jump (s.me.target o.toInt))

/-- R66, R98: the target is read before the link is written; a misaligned one raises MISALIGN and writes nothing. -/
def execJr (d a : BitVec 5) (s : State) : Host.Outcome State Fault Refusal :=
  shared s fun s =>
    let t := s.rg a
    if t.toNat % 4 ≠ 0 then fault .misalign t else .ok ((s.wg d (s.me.a + 4)).jump t)

/-! ### Loops (R100, R103) -/

/-- The coordinate of an instance at spatial level n of its loop kind (R322): its rank in mixed radix over the levels of
the kind in ascending lp order, the lowest level the least digit (log entry 26). -/
def spatialCoord (c : List Word) (kind rank n : Nat) : Nat :=
  let below := ((List.range n).filter fun m => decide (cardLoopKind c m = kind)).map fun m => 2 ^ cardLoopLog c m
  rank / below.foldl (· * ·) 1 % 2 ^ cardLoopLog c n

/-- The count that a loop of a gang's instance takes in place of c (R322). -/
def spatialCount (x r c : Nat) : Nat := if r < c then ceilDiv (c - r) x else 0

/-- The count with which a loop register starts (R100, R322). -/
def State.loopCount (s : State) (l : BitVec 2) (c : DWord) : DWord :=
  match s.jobOf s.cur with
  | none => c
  | some j =>
    let kind := cardLoopKind j.words l.toNat
    match j.insts.find? fun i => decide (i.core = s.coreOf s.cur) with
    | none => c
    | some i =>
      if cardPlace j.words = 1 ∧ (kind = 1 ∨ kind = 2) then
        let rank := if kind = 1 then i.coreRank else i.dieRank
        dw (spatialCount (2 ^ cardLoopLog j.words l.toNat) (spatialCoord j.words kind rank l.toNat) c.toNat)
      else c

/-- The effect of LOOP and LOOPI: the loop register set, and the body skipped for a count of 0. -/
def startLoop (l : BitVec 2) (n : DWord) (words : Nat) (s : State) : State :=
  let c := s.loopCount l n
  let x := s.me
  let last := x.a + dw (4 * words)
  let s := s.setMe { x with lp := x.lp.set l.toNat ⟨c, x.a + 4, last⟩ l.isLt }
  if c = 0 then s.jump (last + 4) else s.retire

def execLoop (l : BitVec 2) (a : BitVec 5) (e : BitVec 17) (s : State) : Host.Outcome State Fault Refusal :=
  shared s fun s => if e = 0 then faultFree .illegal else .ok (startLoop l (s.rg a) e.toNat s)

def execLoopi (l : BitVec 2) (c : BitVec 12) (e : BitVec 10) (s : State) : Host.Outcome State Fault Refusal :=
  shared s fun s => if e = 0 then faultFree .illegal else .ok (startLoop l (dw c.toNat) e.toNat s)

/-- The loops after a loop has been left (R103): it and every active loop that lies within its body end. -/
def Stream.leaveLoop (x : Stream) (l : BitVec 2) : Stream :=
  let m := x.lp[l.toNat]'(l.isLt)
  let inside := fun (k : LoopReg) => decide (m.start ≤ k.start) && decide (k.start ≤ m.stop)
    && decide (m.start ≤ k.stop) && decide (k.stop ≤ m.stop)
  { x with lp := (x.lp.map fun k => if inside k then { k with count := 0 } else k).set l.toNat { m with count := 0 } l.isLt }

/-- The effect of LEAVE without squash. -/
def leaveLoop (l : BitVec 2) (s : State) : State :=
  let m := s.me.lp[l.toNat]'(l.isLt)
  if m.count = 0 then s.retire else (s.setMe (s.me.leaveLoop l)).jump (m.stop + 4)

/-- The cores whose command queues a squash reaches (R104): the stream's own, or the two that a context serves. -/
def State.squashCores (s : State) : List Nat :=
  match s.cur with
  | .ctx i _ => if i < 16 then [2 * i, 2 * i + 1] else []
  | .te => []
  | u => [s.coreOf u]

/-- The command that a stream's sequencer would reach next, as its queue would hold it: a private word of an unstamped engine, a stamped
one of MX. -/
def State.nextQueued (s : State) (u : UnitId) : Option Queued :=
  let x := (s.stream u).enterJobLoop
  match fetch (s.setStream u x) u with
  | .error _ => none
  | .ok f =>
    if !f.word.getLsbD 31 || (decide (u.half = .mx) && !stamped f.instr) then none
    else
      let q := ({ x with a := f.a, word := f.word, pfx := f.pfx } : Stream).capture (f.word.extractLsb' 22 3) s.now
      match stampField f.instr with
      | some st => some { q with delta := f.pfx.delta st, stamped := true }
      | none => some q

/-- Commands of a squashed one's queue behind it, at most n, go too: the next words of the stream while they are commands of that
generation. -/
def State.squashBehind (s : State) (c : Nat) (u : UnitId) (g : Byte) : Nat → State
  | 0 => s
  | n + 1 =>
    match s.nextQueued u with
    | none => s
    | some q =>
      if q.tag ≠ g then s
      else ((s.setStream u { (s.stream u).enterJobLoop with queued := some q }).squashQueued c u g State.stampTick).squashBehind c u g n

/-- The command queue of a stream squashed (R104): the command that waits, and a free number of those behind it, of which R350 lets an
engine hold 16 in all (log entry 38). -/
def State.squashQueue (s : State) (c : Nat) (u : UnitId) (g : Byte) : State :=
  match (s.stream u).queued with
  | none => s
  | some q =>
    if q.tag ≠ g ∨ q.started then s
    else
      let (k, s) := s.draw
      (s.squashQueued c u g State.stampTick).squashBehind c u g (Config.freeNat k % 16)

/-- The squash of LEAVE (R104): the unstarted commands of the executing generation in the named engines' queues go, and
the stream leaves its generation. -/
def squash (m : BitVec 5) (s : State) : State :=
  let g := s.me.gen
  let us := s.squashCores.flatMap fun c => (setBits 5 m.toNat).filterMap fun e =>
    ((coreUnits c)[e]?).map fun u => (c, u)
  let s := us.foldl (fun s p => if s.coreOf p.2 = p.1 then s.squashQueue p.1 p.2 g else s) s
  s.setMe (s.me.leaveFor (g + 1))

/-- R103, R104. -/
def execLeave (l : BitVec 2) (sb : BitVec 1) (m : BitVec 5) (s : State) : Host.Outcome State Fault Refusal :=
  shared s fun s =>
    if sb = 0 then (if m = 0 then .ok (leaveLoop l s) else faultFree .illegal)
    else .ok (leaveLoop l (squash m s))

end Sys2Proof.Machine
end

