-- ==== Sys2Proof/Machine/Channel.lean ====
section
/-!
DEFINITION. HBM and LPDDR channels (spec/23_reliability_repair.md R453 to R457): transfers that fail parity, lane swaps, the
scrubber.
-/

namespace Sys2Proof.Machine

/-! ### Transfers (R453) -/

/-- A transfer of a channel exceeded the limit at this tick: recorded with its consumer, and counted with those of the last second. -/
def State.exceed (s : State) (die chan addr unit card : Nat) : State :=
  let c := s.chan die chan
  let recent := c.exceeded.filter fun t => decide (s.tick < t + secondTicks)
  (s.setChan die chan { c with exceeded := recent ++ [s.tick] }).record ⟨4, 1, die, chan, unit, addr, 3, 0, 0, 0, card⟩

/-- R453: a transfer of 256 bytes at an address fails parity. It passes at one of three retries (which one is free), or
exceeds the limit: a read counts as uncorrectable for its consumer, a write waits. Whose transfer a read is, is free too (log entry 15). -/
def execHbmTransferRetry (die chan addr : Nat) (wr pass : Bool) (s : State) : Host.Outcome State Fault Refusal :=
  let a := addr / 256 * 256
  let (n, s) := s.draw
  let (m, s) := s.draw
  let unit := if wr then 0xFF else Config.freeNat m % 256
  let card := if wr then 0xFFFF else Config.freeNat m / 256 % 65536
  if pass then .next (s.record ⟨3, 0, die, chan, unit, a, Config.freeNat n % 3 + 1, 0, 0, 0, card⟩)
  else
    let s := s.exceed die chan a unit card
    let c := s.chan die chan
    if wr then .next (s.setChan die chan { c with writeWait := c.writeWait ++ [(s.tick, a / 256)] })
    else .next { s with busBad := if s.busBad.contains (a / 256) then s.busBad else s.busBad ++ [a / 256] }

/-- R453: 850 ticks after it exceeded the limit, a write has four attempts again; the one that has waited longest. -/
def execHbmWriteReattempt (die chan : Nat) (pass : Bool) (s : State) : Host.Outcome State Fault Refusal :=
  happen s <|
    match (s.chan die chan).writeWait with
    | [] => none
    | (t, b) :: ws =>
      if s.tick < t + 850 then none
      else if pass then some (s.setChan die chan { s.chan die chan with writeWait := ws })
      else
        let s := s.exceed die chan (256 * b) 0xFF 0xFFFF
        some (s.setChan die chan { s.chan die chan with writeWait := ws ++ [(s.tick, b)] })

/-! ### Lane swaps (R454) -/

/-- The fourth excess within a second has come. -/
def State.swapDue (s : State) (die chan : Nat) : Bool :=
  let c := s.chan die chan
  c.closed.isNone && !c.failed
    && decide (4 ≤ (c.exceeded.filter fun t => decide (s.tick < t + secondTicks)).length)

/-- R454: the failing lane that the walking pattern finds is mapped onto the lower-numbered free spare (64, then 65), and the
channel is closed meanwhile; with no spare free it is recorded as failed. -/
def execLaneSwap (die chan lane : Nat) (s : State) : Host.Outcome State Fault Refusal :=
  happen s <|
    if s.swapDue die chan then
      let c := { s.chan die chan with exceeded := [] }
      if 0 < c.spares then
        let spare := 66 - c.spares
        let c := { c with closed := some s.tick, spares := c.spares - 1, swaps := c.swaps ++ [(lane, spare)] }
        let s := (s.setChan die chan c).record ⟨5, 2, die, chan, 0xFF, 0, 0, lane, spare, 0, 0xFFFF⟩
        some { s with mgc := { s.mgc with params := Tab.set s.mgc.params (die, chan) c.swaps } }
      else some ((s.setChan die chan { c with failed := true }).record ⟨6, 1, die, chan, 0xFF, 0, 0, 0, 0, 0, 0xFFFF⟩)
    else none

/-- R454: the channel accepts accesses again. -/
def execLaneSwapResume (die chan : Nat) (s : State) : Host.Outcome State Fault Refusal :=
  happen s <|
    if (s.chan die chan).closed.isSome then some (s.setChan die chan { s.chan die chan with closed := none }) else none

/-! ### The scrubber (R456, R457) -/

/-- Sectors of a channel. -/
def channelSectors (mem : Nat) : Nat := if mem = 8 then 2 ^ 25 else 2 ^ 21

/-- The codewords of a sector that hold wrong symbols. -/
def State.sectorWrong (s : State) (key : Nat) : List Nat :=
  (s.ecc.map (·.1)).filter fun cw => decide (kindOf cw < 2) && decide (pkgOf cw = s.pkg) && decide (sectorKey (s.memVia cw none) cw = key)

/-- A codeword that the scrubber reads is recorded: corrected, or uncorrectable. -/
def State.scrubWord (s : State) (mem chan cw : Nat) : State :=
  s.arrayRecord (if s.wrong cw = 1 then 7 else 8) 0xFF cw (Tab.get s.ecc cw 0) 0xFFFF (mem, chan)

/-- The number of the sector at the scrubber's place. -/
def Chan.sector (c : Chan) (mem chan : Nat) : Nat := (mem * 32 + chan) * 2 ^ 32 + c.scrubPos

/-- The scrubber goes on to the next sector. -/
def Chan.nextSector (c : Chan) (mem : Nat) : Chan := { c with scrubPos := (c.scrubPos + 1) % channelSectors mem, visit := none }

/-- The read of a visit (R456): every codeword of the sector, four transfers of the channel; the visit ends where none was corrected. -/
def State.scrubRead (s : State) (mem chan : Nat) (again : Bool) : State :=
  let c := s.chan mem chan
  let key := c.sector mem chan
  let cws := s.sectorWrong key
  let ws := cws.filter fun cw => decide (s.wrong cw = 1)
  let c' := if ws.isEmpty then c.nextSector mem else { c with visit := some ⟨Tab.get s.seqNums key 0, s.tick, again, ws⟩ }
  let s := { s.setChan mem chan c' with
    counts := tallied s.counts ((List.range 4).map fun i => (if mem = 8 then 2 ^ 40 + 256 * i else 256 * i, (mem, chan))) }
  cws.foldl (fun s cw => s.scrubWord mem chan cw) s

/-- The check of a visit (R456), one step at the home: the corrected codewords are written back unless the sector has been written since or
1,700 ticks have passed; then a first visit begins again. -/
def State.scrubCheck (s : State) (mem chan : Nat) (v : Visit) : State :=
  let c := s.chan mem chan
  let key := c.sector mem chan
  let n := Tab.get s.seqNums key 0
  if n = v.seq ∧ s.tick - v.began ≤ 1700 then
    { s.setChan mem chan (c.nextSector mem) with
      ecc := s.ecc.filter fun e => !v.words.contains e.1
      seqNums := Tab.set s.seqNums key ((n + (v.words.map (· / 64)).eraseDups.length) % 65536) }
  else if v.again then s.setChan mem chan (c.nextSector mem)
  else s.scrubRead mem chan true

/-- R456, R457: a visit reads its sector when it is due, and checks and writes back at a later moment; a channel that is closed takes no
access (R454). -/
def execScrubVisit (mem chan : Nat) (s : State) : Host.Outcome State Fault Refusal :=
  happen s <|
    let c := s.chan mem chan
    if c.closed.isSome then none
    else match c.visit with
      | some v => some (s.scrubCheck mem chan v)
      | none =>
        if s.tick < c.scrubDue then none
        else some ((s.setChan mem chan { c with scrubDue := c.scrubDue + 1700000 }).scrubRead mem chan false)

end Sys2Proof.Machine
end

