-- ==== Sys2Proof/Machine/Choose.lean ====
section
/-!
DEFINITION. Which card a core takes next, and what it pre-empts for it (spec/12_scheduling_job_cards.md R321, R326 to R329;
spec/13_traps_preemption_contexts.md R342; spec/08_control_core.md R258).
-/

namespace Sys2Proof.Machine

/-- A job has not been issued into a queue. -/
def Job.unissued (j : Job) : Bool := !j.issued

/-! ### Issue (R321, R326 to R328) -/

/-- The cores that a job's issue puts an instance on: those of instances that wait or are saved; for a least-loaded job the
one of its masks whose queue is shortest. -/
def State.issueCores (s : State) (j : Job) : List Nat :=
  let cs := (j.insts.filter fun i => match i.state with
    | .waiting => true
    | .saved _ => true
    | _ => false).map (·.core)
  if cardPlace j.words = 3 ∧ j.unissued then (minBy s.queueLen (gangCores j.words)).toList else cs

/-- Ready jobs whose issue the controller of a core decides: those whose lowest core it is. -/
def State.candidates (s : State) (c : Nat) : List (Nat × Job) :=
  s.jobs.filter fun k => k.2.ready && !k.2.ending
    && decide ((minBy id (s.issueCores k.2)) = some c)

/-- The order of candidates (R328): effective priority, then ready tick, then card id; a newcomer that waits for a drained
job comes first (R343). -/
def State.before (s : State) (x y : Nat × Job) : Bool :=
  let key := fun (k : Nat × Job) => (b2n (!k.2.first), 71 - k.2.effAt s.tick, k.2.readyTick, k.2.card)
  let (a, b, c, d) := key x
  let (a', b', c', d') := key y
  decide (a < a') || (decide (a = a') && (decide (b < b') || (decide (b = b') && (decide (c < c')
    || (decide (c = c') && decide (d ≤ d'))))))

/-- The reserved, unstarted kernels of a core that are not queued there, in start order (R326). -/
def State.notQueued (s : State) (c : Nat) : List (Nat × Job) :=
  let ks := (s.reservedUnstarted c).filter fun k => !(s.core c).jobq.contains k.1
  let key := fun (k : Nat × Job) =>
    if k.2.ready then (0, 71 - k.2.effAt s.tick, k.2.readyTick, k.2.card)
    else (1, 71 - cardPrio k.2.words, k.2.admitted, k.2.card)
  sortBy (fun x y =>
    let (a, b, c, d) := key x
    let (a', b', c', d') := key y
    decide (a < a') || (decide (a = a') && (decide (b < b') || (decide (b = b') && (decide (c < c')
      || (decide (c = c') && decide (d ≤ d')))))) ) ks

/-- The remaining estimate of what runs on a core, and E of the reserved kernels in its queue (R326). -/
def State.queuedBefore (s : State) (c : Nat) : Nat :=
  (match s.runningOn c with
    | some (n, j) => s.remaining n j
    | none => 0)
  + (((s.reservedUnstarted c).filter fun k => (s.core c).jobq.contains k.1).map fun k => k.2.est).sum

/-- Every kernel of a list keeps a slack of at least 0 when `ahead` ticks stand before the first. -/
def slackOk (now : Nat) : Nat → List (Nat × Job) → Bool
  | _, [] => true
  | ahead, k :: ks => decide (now + ahead + k.2.est ≤ k.2.deadline) && slackOk now (ahead + k.2.est) ks

/-- R328: issuing a job on a core keeps the slack of every reserved kernel it would start ahead of. -/
def State.keepsSlack (s : State) (c : Nat) (n : Nat) (j : Job) : Bool :=
  slackOk s.tick (s.queuedBefore c + j.est) ((s.notQueued c).filter fun k => decide (k.1 ≠ n))

/-! ### The policy (R329, R342) -/

inductive Policy where
  | drain | kill | checkpoint
  deriving DecidableEq, Repr

/-- Bytes that a live mask names (R342). -/
def liveBytes (m : Nat) : Nat :=
  65536 + ((setBits 24 m).map fun i =>
    if i < 2 then 4718656 else if i < 18 then 1572864 else if i < 21 then 2048 else if i = 21 then 1792
    else if i = 22 then 16384 else 0).sum

/-- The policy for pre-empting a job, its cost and its time allowance; T is none where it counts as unlimited. -/
def State.policy (s : State) (n : Nat) (j : Job) (t : Option Nat) : Policy × Nat × Nat :=
  let p := s.ports
  let r := s.remaining n j
  let rich := match t with
    | none => true
    | some x => decide (p.costKill.toNat ≤ x)
  if r ≤ p.drainLim.toNat then (.drain, p.costDrain.toNat, r)
  else if cardFlag j.words 0 && decide (p.killLim.toNat < r) && rich then (.kill, p.costKill.toNat, 3400)
  else (.checkpoint, p.costCkpt.toNat, 3400 + ceilDiv (liveBytes (cardLive j.words)) 256)

/-- A running job that has run more than its estimate while a reserved kernel waits for its core (R329); the kernel. -/
def State.overrun (s : State) (c : Nat) (j : Job) : Option Nat :=
  if !j.reserved && decide (j.est < s.elapsed j) then ((s.reservedUnstarted c).head?).map (·.1) else none

/-- Whether a ready card pre-empts a running job (R329), its tokens apart. -/
def State.outranks (s : State) (c : Nat) (n : Nat) (j : Job) (x : Nat × Job) : Bool :=
  let (_, _, time) := s.policy n j (some (s.card x.2.card).tokens)
  decide (j.effPrio < x.2.effAt s.tick)
  && (!j.reserved || decide (s.tick + s.remaining n j + x.2.est + time ≤ j.deadline))
  && (x.2.reserved || s.keepsSlack c x.1 x.2)

/-- A policy can be carried out: a checkpoint takes a free engine slot. -/
def State.policyOpen (s : State) (p : Policy) : Bool := decide (p ≠ .checkpoint) || s.freeSlot.isSome

/-- The newcomer that pre-empts the job of a core now, with the policy and the tokens it costs. -/
def State.preemptor (s : State) (c : Nat) : Option (Nat × Job × Nat × Policy × Nat) :=
  match s.runningOn c with
  | none => none
  | some (n, j) =>
    if j.phase.isSome || j.ending || (s.core c).cut.isSome then none
    else
      let ready := sortBy s.before (s.jobs.filter fun k => k.2.ready && !k.2.ending && (s.issueCores k.2).contains c)
      let able := fun (x : Nat × Job) =>
        let t := (s.card x.2.card).tokens
        let (p, cost, _) := s.policy n j (some t)
        s.outranks c n j x && decide (cost ≤ t) && s.policyOpen p
      match ready.find? able with
      | some x =>
        let (p, cost, _) := s.policy n j (some (s.card x.2.card).tokens)
        some (n, j, x.1, p, cost)
      | none => match s.overrun c j with
        | none => none
        | some k =>
          let (p, _, _) := s.policy n j none
          if s.policyOpen p then some (n, j, k, p, 0) else none

/-- A ready card that would pre-empt the job of a core but for the cost waits (R329): it is not issued behind that job. -/
def State.waitsToCut (s : State) (c : Nat) (x : Nat × Job) : Bool :=
  match s.runningOn c with
  | none => false
  | some (n, j) => j.phase.isNone && !j.ending && s.outranks c n j x

/-! ### Issue (R328) -/

/-- The job that runs on a core is drained for a newcomer, which enters the queue when it has completed (R343). -/
def State.draining (s : State) (c : Nat) : Bool :=
  match s.runningOn c with
  | some (_, j) => decide (j.phase = some .drain)
  | none => false

/-- What runs on a core neither is cut nor drains, and no card pre-empts there now. -/
def State.settledOn (s : State) (c : Nat) : Bool := (s.core c).cut.isNone && !s.draining c && (s.preemptor c).isNone

/-- The posters of a core's line that a claim to its free slots has before it. -/
def State.postersBefore (s : State) (c : Nat) (p : UnitId × Nat → Bool) : Nat := ((s.core c).posters.filter p).length

/-- A core's queue takes a ready job: a slot is free beside those of the posters that began to wait before the job became ready (R258; of one
and the same tick the poster goes first: DESIGN CHOICE, no rule orders them), none was issued at this tick, and nothing is pre-empted there. -/
def State.queueOpen (s : State) (c : Nat) (j : Job) : Bool :=
  decide (s.queueLen c + s.postersBefore c (fun p => decide (p.2 ≤ j.readyTick)) < 16)
  && decide ((s.core c).issueFrom ≤ s.tick) && s.settledOn c

/-- The job that a core's controller issues next. -/
def State.nextIssue (s : State) (c : Nat) : Option (Nat × Job) :=
  (sortBy s.before (s.candidates c)).find? fun k =>
    (s.issueCores k.2).all fun x => s.queueOpen x k.2 && s.keepsSlack x k.1 k.2 && !s.waitsToCut x k

/-! ### The line of posters (R258) -/

/-- The order of posters that began to wait in one cycle: by LC number, then L, C, S. -/
def posterKey : UnitId → Nat
  | .ctx i k => 3 * i + k.num
  | _ => 64

/-- A poster with the tick at which it began to wait takes its place in a line. -/
def joinLine (u : UnitId) (t : Nat) : List (UnitId × Nat) → List (UnitId × Nat)
  | [] => [(u, t)]
  | p :: ps => if t < p.2 ∨ (t = p.2 ∧ posterKey u < posterKey p.1) then (u, t) :: p :: ps else p :: joinLine u t ps

/-- The tick at which the executing unit began to wait. -/
def State.waitTick (s : State) : Nat :=
  match s.me.waiting with
  | some w => w.since / 10
  | none => s.tick

/-- The executing unit stands in the lines of posters of some cores, and in no other. -/
def State.standInLines (s : State) (cs : List Nat) : State :=
  let t := s.waitTick
  let u := s.cur
  cs.foldl (fun s c => s.setCore c { s.core c with posters := joinLine u t (s.core c).posters }) (s.leaveLines u)

/-- The cards that became ready before a tick and wait for a slot of a core's queue, whichever core's controller issues them: nothing but
slots and the one issue of a tick holds them back. -/
def State.claims (s : State) (c t : Nat) : Nat :=
  (s.jobs.filter fun k =>
    let cs := s.issueCores k.2
    k.2.ready && !k.2.ending && decide (k.2.readyTick < t) && cs.contains c
      && cs.all fun x => s.settledOn x && s.keepsSlack x k.1 k.2 && !s.waitsToCut x k).length

/-- A core's queue takes the post of a unit that began to wait at a tick: no cut is in progress there (R344), and a slot is free beside
those of the posters and the cards that began to wait before (R258, R261). -/
def State.posterMayGo (s : State) (c t : Nat) (u : UnitId) : Bool :=
  let before := fun (p : UnitId × Nat) => decide (p.1 ≠ u) && (decide (p.2 < t) || (decide (p.2 = t) && decide (posterKey p.1 < posterKey u)))
  (s.core c).cut.isNone && decide (s.queueLen c + s.postersBefore c before + s.claims c t < 16)

end Sys2Proof.Machine
end

