-- ==== Sys2Proof/Machine/Vm.lean ====
section
/-!
DEFINITION. Virtual memory beside the walk: walks in progress (R361), invalidation (R373), bounce buffers (R374, R375) and
migration units (R376, R377) of spec/14_virtual_memory.md.
-/

namespace Sys2Proof.Machine

/-! ### Walks in progress (R125, R361) -/

/-- A finished or standing stretch of a handle's walk put into its register. A read that met a gated core asks for it to
be ungated (R361); an uncorrectable entry is recorded (R462). -/
def State.endWalk (s : State) (u : UnitId) (n : BitVec 4) (h : Handle) (e : WalkEnd) : State :=
  let s := s.setStream u ((s.stream u).wh n (some { h with state := e.handle (h.va.toNat % 2 ^ 56) }))
  match e with
  | .stuck _ (some c) => s.askUngate c
  | .fault _ r _ =>
    let ea := r.toNat % 2 ^ 48
    if s.badAt ea then s.recordBad (badKind ea) (codewordOf (s.direct ea)) (s.unitCode u) (s.cardCode u) none
    else s
  | _ => s

/-- The walk of a pending handle runs from where it stands; `due` is the tick from which it may. -/
def State.runWalk (s : State) (u : UnitId) (n : BitVec 4) (locked : Bool) : Option State :=
  match (s.stream u).hr n with
  | none => none
  | some h =>
    match h.state with
    | .pending w =>
      if decide (0 < w.retries) = locked ∧ w.due ≤ s.tick then
        some (s.endWalk u n h (s.walkFrom h.root (h.va.toNat % 2 ^ 56) 4 w))
      else none
    | _ => none

/-- R361: a walk that meets no locked entry where it stands ends, or stands at the first locked entry it meets. -/
def execWalkComplete (u : UnitId) (h : BitVec 4) (s : State) : Host.Outcome State Fault Refusal :=
  happen s (s.runWalk u h false)

/-- R361: 1,700 ticks after it found an entry locked, a walk reads it again. -/
def execWalkLockRetry (u : UnitId) (h : BitVec 4) (s : State) : Host.Outcome State Fault Refusal :=
  happen s (s.runWalk u h true)

/-! ### Invalidation (R373) -/

/-- The size exponent of a SIZE code. -/
def invBits (n : Nat) : Nat := if n = 0 then 16 else if n = 1 then 26 else if n = 2 then 36 else 56

/-- The page that a key `va + size exponent` names: its VA and exponent. -/
def keyRange (k : Nat) : Nat × Nat := (k / 65536 * 65536, k % 65536)

/-- A page as a key. -/
def Page.key (p : Page) : Nat := p.va + p.bits

/-- A keyed page of a root meets a range of a root. -/
def keyMeets (root key r va b : Nat) : Bool :=
  decide (root = r) && meets (keyRange key).1 (2 ^ (keyRange key).2) va (2 ^ b)

/-- Every handle of a stream after an invalidation. -/
def Stream.revoke (x : Stream) (f : Handle → Handle) : Stream := { x with h := x.h.map (Option.map f) }

/-- The handle registers that an invalidation revokes in a stream. -/
def Stream.newlyRevoked (x : Stream) (f : Handle → Handle) : List Nat :=
  (List.range 16).filter fun n => match x.h.toList.getD n none with
    | some h => !h.revoked && (f h).revoked
    | none => false

/-- The image of a handle register in a slot has REVOKED set and VALID cleared (R353). -/
def State.revokeImage (s : State) (slot : Nat) (u : UnitId) (n : Nat) : State :=
  let o := blockOf u + 0x200 + 32 * n + 16
  let off := fun (b : Byte) => (b ||| 4) &&& 0xFE
  let s := s.poke [(s.slotPa slot + o, off (s.rd (s.slotPa slot + o)))]
  { s with saved := s.saved.map fun y => if y.slot = slot then { y with image := Mem.set y.image o (off (Mem.get y.image o)) } else y }

/-- The streams whose handle images a taken slot holds: those of a checkpoint, the control context held in it (R349). -/
def State.imagesOf (s : State) (y : Saved) : List (UnitId × Stream) :=
  if y.unit.isCtx then [(y.unit, s.stream y.unit)] else y.streams

/-- The saved images that an invalidation covers are marked (R353). -/
def State.revokeImages (s : State) (f : Handle → Handle) : State :=
  s.saved.foldl (fun s y => (s.imagesOf y).foldl (fun s x => (x.2.newlyRevoked f).foldl (fun s n => s.revokeImage y.slot x.1 n) s) s) s

/-- An invalidation of a range of a root starts: the walker's copies of its entries are dropped (R364) and its walks there start again; every overlapping handle, in
registers and in saved images, is revoked or walks afresh; a saved VL store that it covers is marked (R474). -/
def State.startInval (s : State) (root va b : Nat) : State :=
  let f := s.revokeHandle root va b
  let s := s.revokeImages f
  let mark := fun (e : SbEntry) => if keyMeets e.root e.page root va b then { e with revoked := true } else e
  { s with
    streams := s.streams.map fun x => (x.1, x.2.revoke f)
    saved := s.saved.map fun y => { y with streams := y.streams.map (fun x => (x.1, x.2.revoke f)), sb := y.sb.map mark }
    deviceWalks := s.deviceWalks.filter fun w => !(decide (w.1.1 = root) && meets (w.1.2 * 65536) 65536 va (2 ^ b))
    walkFloors := s.walkFloors ++ [(root, va, b, s.histNow, s.cmdSeq)]
    invals := s.invals ++ [⟨root, va, b, s.cmdSeq⟩] }

/-- A write to INVAL: ignored for a root index of 18..31; it waits while 64 are outstanding. -/
def inval (s : State) (v : DWord) : M State := do
  let root := dbits v 4 0
  if 18 ≤ root then .ok s
  else
    waitUntil s (s.invals.length < 64)
    let b := invBits (dbits v 9 8)
    .ok (s.startInval root (dbits v 55 16 * 2 ^ 16 / 2 ^ b * 2 ^ b) b)

/-- Accesses that Handle checked through a page of the range before the invalidation and that are not performed. -/
def State.heldByInval (s : State) (i : Inval) : Bool :=
  let hit := fun (seq root key : Nat) => decide (seq < i.upTo) && keyMeets root key i.root i.va i.bits
  (s.pending.any fun p => hit p.seq p.root p.page)
  || s.cores.any fun kc =>
    (kc.2.cx.any fun f => f.parts.any fun p => !p.dst.isEmpty && hit f.seq p.root p.page) || (kc.2.sb.any fun e => hit e.seq e.root e.page)
    || (kc.2.lq.any fun e => !e.filled && (match e.of with
      | some (r, p) => hit e.seq r p.key
      | none => false))

/-! ### Bounce buffers (R374, R375) -/

/-- The die whose bounce buffer takes the records of a frame. -/
def bounceDie (pa : Nat) : Nat := if kindOf pa = 0 then dieOf pa else 0

/-- Records of a page not yet completed, or on their way. -/
def State.bouncing (s : State) (root : Nat) (va b : Nat) : Bool :=
  let there := fun (kind r v : Nat) => decide (kind = 0) && decide (r = root) && decide (va ≤ v) && decide (v < va + 2 ^ b)
  (s.dies.any fun d => d.2.bounces.any fun r => there r.kind r.root r.va)
  || s.toBounce.any fun r => there r.kind r.root r.va

/-- The die that takes the records of the leaf that a walk report names: one that is not resident. -/
def State.awayDie (s : State) (r : DWord) : Nat := bounceDie (bits (s.rdNat (dbits r 47 0) 8) 47 16 * 2 ^ 16)

/-- The bytes of a record: a 64-byte header and the data padded to 64. -/
def recordSize (len : Nat) : Nat := 64 + ceilDiv len 64 * 64

/-- Where a record of n bytes goes in a die's buffer: after the newest, else at the start, where nothing outstanding
lies; none while there is no room. -/
def Die.roomFor (d : Die) (n : Nat) : Option Nat :=
  let size := 63 * 2 ^ 20
  let clear := fun (o : Nat) => decide (o + n ≤ size) && d.bounces.all fun r => !meets (64 * r.recNo) (recordSize r.len) o n
  let tail := match d.bounces.getLast? with
    | none => 0
    | some r => 64 * r.recNo + recordSize r.len
  if clear tail then some tail else if clear 0 then some 0 else none

/-- A delivery lands in its die's bounce buffer: header, data, record and notice. -/
def State.bounceIn (s : State) (b : ToBounce) : Option State :=
  let d := s.die b.die
  match d.roomFor (recordSize b.len) with
  | none => none
  | some o =>
    let hd := leBytes 8 (b.va % 2 ^ 56) ++ leBytes 8 (b.len + b.root * 2 ^ 32) ++ leBytes 8 d.bounceSeq
      ++ List.replicate 40 0
    let r : Bounce := ⟨b.kind, d.bounceSeq, o / 64, b.va, b.root, b.len, b.owner⟩
    let notice := dw (2 ^ 63 + b.kind * 2 ^ 62 + b.die * 2 ^ 59 + o / 64 * 2 ^ 32 + d.bounceSeq)
    let d := { d with bounces := d.bounces ++ [r], bounceSeq := (d.bounceSeq + 1) % 2 ^ 32 }
    let s := (s.setDie b.die d).poke (cellsAt (bouncePa s.pkg b.die o) (hd ++ b.data))
    some { s.heal (cellsAt (directoryPa b.die (o / 64)) (List.replicate 8 0)) with bounceq := s.bounceq ++ [notice] }

/-- R374. The deliveries to one page keep their order. -/
def execBounceDelivery (pos : Nat) (s : State) : Host.Outcome State Fault Refusal :=
  happen s <|
    match s.toBounce[pos]? with
    | none => none
    | some b =>
      if (s.toBounce.take pos).any fun x => decide (x.root = b.root) && decide (x.va / 65536 = b.va / 65536) then none
      else ({ s with toBounce := s.toBounce.eraseIdx pos } : State).bounceIn b

/-- A command's bounced writes are not all completed. -/
def State.bouncedOf (s : State) (o : BounceOwner) : Bool :=
  (s.toBounce.any fun b => decide (b.owner = o)) || s.dies.any fun d => d.2.bounces.any fun r => decide (r.owner = o)

/-- The addresses of n bytes from a place of a die's bounce buffer on. -/
def State.bouncePas (s : State) (die o n : Nat) : List Nat := (List.range n).map fun i => bouncePa s.pkg die (o + i)

/-- A read of BNCQ; it acquires the record's header and data (R375). -/
def State.readBncq (s : State) : State × DWord :=
  match s.bounceq with
  | [] => (s, 0)
  | x :: xs =>
    let die := dbits x 61 59
    let len := match (s.die die).bounces.find? fun r => decide (r.recNo = dbits x 51 32) with
      | some r => 64 + r.len
      | none => 64
    ({ s with bounceq := xs }.acquire (s.agentOf s.cur) (Clock.empty.over (s.bouncePas die (64 * dbits x 51 32) len) s.histNow), x)

/-- The bytes that the pager wrote after the header of a read-request record go to its transfer (R375), none of them where one cannot be
corrected (R450). -/
def State.supply (s : State) (n : Nat) (r : Bounce) : State :=
  match r.kind, r.owner with
  | 1, .xfer i ix =>
    let pas := s.bouncePas n (64 * r.recNo + 64) r.len
    let (s, sound) := s.deviceRead pas
    let bs := if sound then s.rdAll pas else []
    let put := fun (e : ScbEntry) => if e.ix = ix then { e with supplied := e.supplied ++ [(r.va, bs)] } else e
    s.setLc i { s.lc i with scb := (s.lc i).scb.map put }
  | _, _ => s

/-- What BNCDONE releases reaches the one whose delivery the record was (R375): its write is then performed, for what comes after it (R374); an
NRECV or a released job acquires it. -/
def State.bounceReleased (s : State) (o : BounceOwner) (k : Clock) : State :=
  match o with
  | .cx c n => match (s.core c).cx.find? fun f => decide (f.seq = n) with
    | some f => (match f.xfer with
      | none => s.acquireFrom (.unit (.eng .cx c) f.job) n k
      | some (i, ix) => match (s.lc i).scb.find? fun e => decide (e.ix = ix) with
        | some e => s.acquireFrom (.xfer e.core i e.id) n k
        | none => s)
    | none => s
  | .xfer i ix => match (s.lc i).scb.find? fun e => decide (e.ix = ix) with
    | some e => s.setLc i { s.lc i with scb := (s.lc i).scb.map fun x => if x.ix = ix then { x with clock := e.clock.join k } else x }
    | none => s
  | .nx d n =>
    let put := fun (r : Receiver) => if r.landed.contains n then { r with clock := r.clock.join k } else r
    s.setDie d { s.die d with receivers := (s.die d).receivers.map put }
  | .route d _ => match (s.die d).route with
    | some r => s.acquireFrom (.unit (.nx d) r.job) r.seq k
    | none => s

/-- A payload of an NROUTE that had bounced is acknowledged (R244, R374). -/
def State.bounceCounted (s : State) (r : Bounce) : State :=
  match r.owner with
  | .route d _ => s.setDie d { s.die d with pendingBytes := (s.die d).pendingBytes - r.len }
  | _ => s

/-- A write to BNCDONE: the record that the notice names is completed and freed; ignored when none is outstanding. An entry of the bounce
directory that cannot be corrected is UNCORRECTABLE for the write (R452, log entry 15). -/
def bncDone (s : State) (v : DWord) : M State := do
  let n := dbits v 61 59
  let is := fun (r : Bounce) => decide (r.recNo = dbits v 51 32) && decide (r.seq = dbits v 31 0)
    && decide (r.kind = dbits v 62 62)
  match (s.die n).bounces.find? is with
  | none => .ok s
  | some r =>
    let pa := directoryPa n r.recNo
    if s.badAt pa then .error (.trap ⟨.uncorrectable, none, .std 1 0, .errorRecord 10 pa none⟩)
    let s := s.noteReads s.cur [pa]
    let s := s.bounceReleased r.owner (s.releaseNow (s.agentOf s.cur))
    .ok ((s.setDie n { s.die n with bounces := (s.die n).bounces.filter fun r => !is r }).bounceCounted r |>.supply n r)

/-! ### Migration units (R376, R377, R458) -/

/-- A frame address in a MIGSRC or MIGDST value. -/
def framePa (v : DWord) : Nat := dbits v 47 16 * 2 ^ 16

/-- The sectors of a unit's frame. -/
def Migration.sectors (m : Migration) : Nat := if m.big then 65536 else 64

/-- The sector that a unit copies next, from and to (R376), or, as it ends after a cause, copies back (R458); none where it copies nothing. -/
def Migration.next (m : Migration) : Option (Nat × Nat) :=
  if !m.busy then none
  else if m.ending then
    (if m.cursor = 0 then none else some (framePa m.dst + 1024 * (m.cursor - 1), framePa m.src + 1024 * (m.cursor - 1)))
  else if m.done || decide (m.cause ≠ 0) then none
  else some (framePa m.src + 1024 * m.cursor, framePa m.dst + 1024 * m.cursor)

/-- The unit after a sector: the cursor stands between what is at the new frame and what is at the old one; a unit that has copied everything
back ends. -/
def Migration.copied (m : Migration) : Migration :=
  if m.ending then { m with cursor := m.cursor - 1, ending := decide (m.cursor ≠ 1), busy := decide (m.cursor ≠ 1) }
  else { m with cursor := m.cursor + 1, done := decide (m.cursor + 1 = m.sectors) }

/-- R376, R458: a sector is copied in one step, or an uncorrectable error in it stops the unit, and the errors are recorded (R462). It waits
for channels that take no access (R454). -/
def State.migrateSector (s : State) (n : Nat) : Option State :=
  let m := s.mig n
  match m.next with
  | none => none
  | some (src, dst) =>
    let pas := (List.range 1024).map (src + ·)
    if s.chanShut pas none || s.chanShut ((List.range 1024).map (dst + ·)) none then none
    else match s.deviceRead pas with
      | (s, false) =>
        let (mm, c) := s.memVia src none
        some ((s.setMig n { m with cause := Cause.uncorrectable.code, ending := false }).record
          ⟨16, 1, mm, c, 0xFF, src, 0, 0, 0, 0, 0xFFFF⟩)
      | (s, true) => some ((s.copyRaw src dst 1024).setMig n m.copied)

/-- A frame address of a unit that copies, where R360 puts no memory: the spec says nothing of what a copy from or to
there does. -/
def Migration.astray (m : Migration) : Option Nat := (m.next.toList.flatMap fun x => [x.1, x.2]).find? fun a => !paExists a

def execMigrationSectorCopy (mu : Nat) (s : State) : Host.Outcome State Fault Refusal :=
  match (s.mig mu).astray with
  | some pa => .fault (.noSuchMemory pa)
  | none => happen s (s.migrateSector mu)

/-- MIGCMD start: ignored while busy. -/
def State.migStart (s : State) (big : Bool) : State :=
  let m := s.mig s.ports.migSel
  if m.busy then s
  else s.setMig s.ports.migSel { m with big := big, busy := true, done := false, cause := 0, cursor := 0 }

/-- MIGCMD end: a unit stopped on a cause first copies its sectors back, and is busy until it has (R458); another ends at once. -/
def State.migEnd (s : State) : State :=
  let m := s.mig s.ports.migSel
  if !m.busy then s
  else if m.cause = 0 ∨ m.cursor = 0 then s.setMig s.ports.migSel { m with busy := false, ending := false }
  else s.setMig s.ports.migSel { m with ending := true }

/-- A write to MIGCMD. -/
def State.migCmd (s : State) (v : DWord) : State :=
  match dbits v 1 0 with
  | 1 => s.migStart (bit v.toNat 4)
  | 2 => s.migEnd
  | _ => s

/-- MIGSTAT. -/
def Migration.stat (m : Migration) : DWord :=
  dw (b2n m.busy * 2 ^ 63 + b2n m.done * 2 ^ 62 + m.cause * 2 ^ 48 + m.cursor)

end Sys2Proof.Machine
end

