-- ==== Sys2Proof/Machine/Control.lean ====
section
/-!
DEFINITION. The control core's own instructions (spec/08_control_core.md R255 to R268): cards, posts, transfers, kernels, the
scoreboard, rings, overlays, priority tokens.
-/

namespace Sys2Proof.Machine

/-- FORMAT with EINFO the card id. -/
def cardFormat (id : Nat) (b : Bool) : M Unit := faultIf b .format (dw id)

/-- The copy of JPREP (R257): the source card checked, the slot written and prepared, its token count 0 (R323). -/
def execJprep (h : BitVec 4) (a b : BitVec 5) (s : State) : Host.Outcome State Fault Refusal :=
  lcWord s do
    let _ ← lcContext s true true true
    lining s
    released s
    let id ← cardId s b
    let (s, va, bs) ← readRecord s h a 128
    let c := wordsOf bs 32
    recordIf (cardChecks c) (dw va)
    let x := s.card id
    cardFormat id (decide (x.state ≠ .empty) && decide (x.state ≠ .prepared))
    cardFormat id (s.isTemplate id)
    .ok ((s.writeCard id 0 bs ⟨c, .prepared, 0, s.releaseNow (s.agentOf s.cur)⟩).retire)

/-- The cores a card's post goes to: the gang's, the least loaded of the masks (R321), or the one named. -/
def State.postCores (s : State) (c : List Word) (core : Nat) : List Nat :=
  if cardPlace c = 1 then gangCores c
  else if cardPlace c = 3 then (minBy s.queueLen (gangCores c)).toList
  else [core]

/-- What the job of a card acquires at its start when the executing context posts it (R271): what the post releases, and what the card's
JPREP did. -/
def State.postClock (s : State) (id : Nat) : Clock := (s.releaseNow (s.agentOf s.cur)).join (s.card id).clock

/-- Posting a prepared card (R258), by JPOST and by the port JQPUSH (R269). -/
def post (s : State) (i : Nat) (k : Ctx) (id core : Nat) : M State := do
  let s ← readCard s id
  cardFormat id (!s.prepared id)
  let c := (s.card id).words
  cardFormat id (cardFlag c 1 || cardFlag c 2 || cardFlag c 3 || cardFlag c 4)
  cardFormat id (decide (cardPlace c = 1) && decide ((gangCores c).head? ≠ some core))
  cardFormat id (decide ((s.card id).state ≠ .prepared))
  let cs := s.postCores c core
  match cs.find? fun x => (s.core x).gated with
  | some x => .error (.trap ⟨.remoteGated, some (dw x), .std 1 0, .ungate x⟩)
  | none =>
    if !(cs.all fun x => s.posterMayGo x s.waitTick s.cur) then .error (.wait (s.standInLines cs))
    else
      let s := s.leaveLines s.cur
      let (n, s) := s.addJob (newJob id c (.post i k) i (cs.headD core) s.tick false 0 (s.postClock id))
      .ok (s.issueJob n)

/-- R258. -/
def execJpost (a b : BitVec 5) (s : State) : Host.Outcome State Fault Refusal :=
  lcWord s do
    let (i, k) ← lcContext s false true false
    lining s
    released s
    let id ← cardId s a
    let core ← coreNo s b
    let s ← post s i k id core
    .ok s.retire

/-- The local bytes a transfer record reaches: run q, byte i (R259). -/
def xferLocal (ws : List Word) (q i : Nat) : Int := (wd ws 3 : Int) + q * sextInt (wd ws 7) 32 + i

/-- The global bytes a transfer record reaches. -/
def xferGlobal (ws : List Word) (q i : Nat) : Int := ((wd2 ws 0 % 2 ^ 56 : Nat) : Int) + q * sextInt (wd ws 6) 32 + i

/-- The words of a transfer record that break R259, for LCi. -/
def xferChecks (i : Nat) (ws : List Word) : List (Nat × Bool) :=
  let w2 := wd ws 2
  let n0 := wd ws 4
  let n1 := wd ws 5
  let limit : Int := if bit w2 8 then veneerSize else scratchSize
  let past := fun (first : Int) => decide (first < 0) || decide (limit < first + n0)
  [ (1, decide (2 ^ 56 ≤ wd2 ws 0)),
    (2, decide (bits w2 7 5 ≠ 0) || decide (bits w2 31 10 ≠ 0) || !serves i (bits w2 4 0) || (bit w2 8 && bit w2 9)),
    (3, past (xferLocal ws 0 0)), (4, decide (n0 = 0) || decide (65536 < n0)),
    (5, decide (n1 = 0) || decide (2 ^ 24 < n0 * n1)), (7, past (xferLocal ws (n1 - 1) 0)) ]

/-- The 64 KiB-aligned VAs that a transfer's global runs touch, run by run. -/
def xferPages (ws : List Word) : List Nat :=
  ((List.range (wd ws 5)).flatMap fun q =>
    let a := (xferGlobal ws q 0 % (2 ^ 56 : Nat)).toNat / 65536
    let b := (xferGlobal ws q (wd ws 4 - 1) % (2 ^ 56 : Nat)).toNat / 65536
    if a = b then [a * 65536] else [a * 65536, b * 65536]).eraseDups

/-- What the translation of a piece of a transfer's global range comes to (R259); none while its walk stands at a locked entry or at a
gated core. An uncorrectable entry is recorded (R462). -/
def State.findPiece (s : State) (i core va : Nat) : State × Option Found :=
  match s.deviceWalk i va with
  | (s, .page p) => (s, some (.page p))
  | (s, .stuck _ _) => (s, none)
  | (s, .fault c r _) =>
    let ea := dbits r 47 0
    if c = .pageNotResident ∧ dbits r 61 56 = 2 then (s, some (.away (s.awayDie r)))
    else (if s.badAt ea then s.recordBad (badKind ea) (codewordOf (s.direct ea)) core 0xFFFF none else s, some (.fault c r))

/-- The pieces of a range that have not been translated, translated as far as they can be. -/
def State.findPieces (s : State) (i core : Nat) (vas : List Nat) (found : List (Nat × Found)) : State × List (Nat × Found) :=
  vas.foldl (fun (sf : State × List (Nat × Found)) va =>
    if sf.2.any fun x => decide (x.1 = va) then sf
    else match sf.1.findPiece i core va with
      | (s, some f) => (s, sf.2 ++ [(va, f)])
      | (s, none) => (s, sf.2)) (s, found)

/-- R259. The global range is translated as the transfer issues; a walk that cannot go on yet is finished by
STREAM_TRANSFER_FINISH. -/
def execSxfer (h : BitVec 4) (a d : BitVec 5) (s : State) : Host.Outcome State Fault Refusal :=
  lcWord s do
    let (i, k) ← lcContext s true false true
    lining s
    released s
    let (s, va, bs) ← readRecord s h a 32
    let ws := wordsOf bs 8
    recordIf (xferChecks i ws) (dw va)
    match (s.lc i).freeEntry with
    | none => .error (.wait s)
    | some ix =>
      let core := bits (wd ws 2) 4 0
      let (s, found) := s.findPieces i core (xferPages ws) []
      let e : ScbEntry := {
        ix := ix, seq := 0, order := s.cmdSeq, clock := s.releaseNow (s.agentOf s.cur), owner := k, kernel := none, core := core, card := 0,
        outbound := bit (wd ws 2) 9, total := wd ws 4 * wd ws 5, record := ws, found := found, run := 0,
        asked := false, finished := false, cause := 0, supplied := [] }
      let q := (s.lc i).takeSeq ix
      let s := (s.nextSeq.2).setLc i ((s.lc i).alloc e)
      .ok ((s.wg d (dw (ix + 64 * q))).retire)

/-- The translation and checks of a lattice-wait card's cell at the issue of its KRUN (R324). -/
def cellCheck (s : State) (i : Nat) (c : List Word) : M (State × Option Page) :=
  if !cardFlag c 4 then .ok (s, none) else
  let va := cardCell c
  match walkFor s i va false (fun _ => va) with
  | .error e => .error e
  | .ok (s, p) =>
    if p.ltype = 0 then fault .latticeType (dw va)
    else if va % cellSize p.ltype ≠ 0 then fault .misalign (dw va)
    else .ok (s, some p)

/-- Whether a card's transfers make KRUN refuse it (R261): one held for another core, for a kernel, or failed. -/
def State.refusesXfer (s : State) (i core : Nat) (c : List Word) : Bool :=
  ((s.lc i).xfersOf c).any fun e => decide (e.core ≠ core) || e.kernel.isSome || (e.finished && decide (e.cause ≠ 0))

/-- The admission of R325: the deadline, or none when the card is refused. -/
def State.admission (s : State) (i core : Nat) (c : List Word) : Option Nat :=
  let cs := if cardPlace c = 1 then gangCores c else [core]
  let a := ((((s.lc i).xfersOf c).filter fun e => !e.finished).map fun e => ceilDiv e.total 64).sum
  let ds := cs.map fun x => s.deadlineOn x a (cardEst c)
  let d := ds.foldl max 0
  if wd c 2 = 0 ∨ 2 ^ 32 < d - s.tick ∨ (cs.any fun x => decide (32 ≤ (s.reservedUnstarted x).length))
    ∨ s.refusesXfer i core c ∨ (cs.any fun x => (s.core x).gated) then none else some d

/-- R261, R324, R325. -/
def execKrun (d a b : BitVec 5) (s : State) : Host.Outcome State Fault Refusal :=
  lcWord s do
    let (i, k) ← lcContext s false true false
    lining s
    released s
    let id ← cardId s a
    let core ← coreNo s b
    faultIf (!serves i core) .illegal (s.rg b)
    let s ← readCard s id
    cardFormat id (!s.prepared id)
    let c := (s.card id).words
    cardFormat id (cardFlag c 1 || cardFlag c 2 || cardFlag c 3)
    cardFormat id (decide (cardPlace c = 1) && decide ((gangCores c).head? ≠ some core))
    cardFormat id (decide ((s.card id).state ≠ .prepared))
    let (s, cell) ← cellCheck s i c
    match (s.lc i).freeEntry with
    | none => .error (.wait s)
    | some ix =>
      match s.admission i core c with
      | none => .ok ((s.wg d 0).retire)
      | some dl =>
        let (n, s) := s.addJob { newJob id c (.krun i k ix) i core s.tick true dl (s.postClock id) with cellPage := cell }
        let e : ScbEntry := {
          ix := ix, seq := 0, order := s.cmdSeq, clock := Clock.empty, owner := k, kernel := some n, core := core, card := id,
          outbound := false, total := 0, record := [], found := [], run := 0, asked := false, finished := false, cause := 0, supplied := [] }
        let s := s.setLc i ((s.lc i).alloc e)
        let s := s.setCard id { s.card id with state := .waiting }
        .ok ((s.wg d (dw dl)).retire)

/-- R262: the status of a finished entry, a failed one freed by the collection; 0 at once where no entry is held. It acquires the kernel's
writes, or an outbound transfer's, also those of a succeeded one that is no longer held (R260, R271). Of two held kernels of one card id (a
failed one that is not collected and a later KRUN of the card prepared again) it takes the one allocated first: DESIGN CHOICE, the spec does not
say which. -/
def execSbwait (d a : BitVec 5) (s : State) : Host.Outcome State Fault Refusal :=
  lcWord s do
    let (i, _) ← lcContext s true true true
    let v := s.rg a
    faultIf (dbits v 63 17 ≠ 0) .illegal v
    let n := dbits v 15 0
    let want := fun (e : ScbEntry) => if bit v.toNat 16 then e.kernel.isSome && decide (e.card = n)
      else e.kernel.isNone && decide (e.id = n)
    let s' := s.acquireWork (s.agentOf s.cur) (if bit v.toNat 16 then .kernel i n else .xfer i n)
    match (s.lc i).scb.find? want with
    | none => .ok ((s'.wg d 0).retire)
    | some e =>
      if !e.finished then .error (.wait s)
      else
        let s := if e.cause = 0 then s'
          else s'.setLc i { s.lc i with scb := (s.lc i).scb.filter fun x => decide (x.ix ≠ e.ix) }
        .ok ((s.wg d (dw (b2n e.kernel.isSome * 2 ^ 8 + e.cause))).retire)

/-- The ring a context pushes to (R263). -/
def Lc.pushRing (x : Lc) : Ctx → List (DWord × Clock)
  | .l => x.ringLC
  | .c => x.ringCS
  | .s => x.ringSL

/-- The ring a context pops from (R263). -/
def Lc.popRing (x : Lc) : Ctx → List (DWord × Clock)
  | .l => x.ringSL
  | .c => x.ringLC
  | .s => x.ringCS

def Lc.setPush (x : Lc) (k : Ctx) (r : List (DWord × Clock)) : Lc :=
  match k with
  | .l => { x with ringLC := r }
  | .c => { x with ringCS := r }
  | .s => { x with ringSL := r }

def Lc.setPop (x : Lc) (k : Ctx) (r : List (DWord × Clock)) : Lc :=
  match k with
  | .l => { x with ringSL := r }
  | .c => { x with ringLC := r }
  | .s => { x with ringCS := r }

/-- R263: waits while the ring is full; a release. -/
def execRpush (a : BitVec 5) (s : State) : Host.Outcome State Fault Refusal :=
  lcWord s do
    let (i, k) ← lcContext s true true true
    lining s
    released s
    let r := (s.lc i).pushRing k
    waitUntil s (r.length < 64)
    .ok ((s.setLc i ((s.lc i).setPush k (r ++ [(s.rg a, s.releaseNow (s.agentOf s.cur))]))).retire)

/-- R263: waits while the ring is empty; it acquires what the push of the entry released (R271). -/
def execRpop (d : BitVec 5) (s : State) : Host.Outcome State Fault Refusal :=
  lcWord s do
    let (i, k) ← lcContext s true true true
    match (s.lc i).popRing k with
    | [] => .error (.wait s)
    | x :: r => .ok ((((s.setLc i ((s.lc i).setPop k r)).acquire (s.agentOf s.cur) x.2).wg d x.1).retire)

/-- A job was posted by a control core (R264): JPOST, JQPUSH or KRUN. -/
def Origin.postedBy (o : Origin) (i : Nat) : Bool :=
  match o with
  | .post l _ => decide (l = i)
  | .krun l _ _ => decide (l = i)
  | _ => false

/-- An engine of a core runs or holds a command of a job that a control core posted (R264). -/
def State.engineBusyFor (s : State) (i c e : Nat) : Bool :=
  let u := (coreUnits c).getD e .te
  let ofLc := fun (j : Nat) => match s.job? j with
    | some x => x.origin.postedBy i
    | none => false
  ((s.stream u).queued.isSome && (match (s.stream u).job with
    | some j => ofLc j
    | none => false))
  || (match e with
    | 0 => (s.core c).cx.any fun f => ofLc f.job
    | 1 => ((s.core c).sb.any fun f => ofLc f.job) || ((s.core c).lq.any fun f => !f.filled && ofLc f.job)
        || (s.core c).vlPushes.any fun f => ofLc f.job
    | 3 => (s.core c).mx.flight.any fun f => ofLc f.job
    | 4 => (s.die (c / 4)).sends.any fun f => decide (f.core = c) && ofLc f.job
    | _ => false)

/-- What the writes of some engines release (R306). -/
def State.enginesClock (s : State) (us : List UnitId) : Clock :=
  s.hist.foldl (fun (k : Clock) e => match e.writer.who with
    | .unit u _ => if us.contains u then k.join (s.releaseNow e.writer.who) else k
    | _ => k) Clock.empty

/-- Words written into an instruction memory from a byte address on (R67). -/
def putWords (t : Tab Nat Word) : Nat → List Word → Tab Nat Word
  | _, [] => t
  | a, w :: ws => putWords (Tab.set t a w) (a + 4) ws

/-- Words stored into an instruction memory; what is written whole is healed (R452). -/
def State.putImem (s : State) (m : ImemId) (a : Nat) (ws : List Word) : State :=
  { s with imem := Tab.set s.imem m (putWords (Tab.get s.imem m []) a ws) }.heal
    (cellsAt (imemPa m a) (List.replicate (4 * ws.length) 0))

/-- A program image in an instruction memory: its words, zero words up to the next 16-byte boundary, and the limit raised
to the padded end (R67, R264). -/
def State.loadWords (s : State) (m : ImemId) (a : Nat) (ws : List Word) : State :=
  let stop := a + 4 * ws.length
  let padded := ceilDiv stop 16 * 16
  let ws := ws ++ List.replicate ((padded - stop) / 4) 0
  let s := s.putImem m a ws
  { s with imlim := Tab.set s.imlim m (max (Tab.get s.imlim m 0) (padded / 16)) }

/-- R264: the header checked, the named engines waited for, the words written, and the program started at its entry; what the
engines have written is acquired (R306). -/
def execOvly (h : BitVec 4) (a : BitVec 5) (m : BitVec 5) (s : State) : Host.Outcome State Fault Refusal :=
  lcWord s do
    let (i, _) ← lcContext s true true true
    lining s
    released s
    let off := (s.rg a).toNat
    let (s, p, hd) ← readVia s h off 16 16
    let va := p.va + off
    let ws := wordsOf hd 4
    let n := wd ws 0
    let base := wd ws 1
    let entry := wd ws 2
    recordIf [ (0, decide (n = 0) || decide (65536 < n) || decide (2 ^ p.bits < off + 16 + 4 * n)),
      (1, decide (base % 16 ≠ 0) || decide (262144 < base + 4 * n)),
      (2, decide (entry % 4 ≠ 0) || decide (4 * n ≤ entry)), (3, decide (wd ws 3 ≠ 0)) ] (dw va)
    waitUntil s ((setBits 5 m.toNat).all fun e => !(s.engineBusyFor i (2 * i) e) && !(s.engineBusyFor i (2 * i + 1) e))
    let (s, _, bs) ← readVia s h (off + 16) (4 * n) 4
    let us := (setBits 5 m.toNat).flatMap fun e => [(coreUnits (2 * i))[e]?, (coreUnits (2 * i + 1))[e]?].filterMap id
    let s := s.acquire (s.agentOf s.cur) (s.enginesClock us)
    let s := s.loadWords (.lc i) base (wordsOf bs n)
    .ok (s.jump (dw (base + entry)))

/-- A context's purse (R330). -/
def Lc.purse (x : Lc) : Ctx → Nat
  | .l => x.purseL
  | .c => x.purseC
  | .s => x.purseS

def Lc.setPurse (x : Lc) (k : Ctx) (n : Nat) : Lc :=
  match k with
  | .l => { x with purseL := n }
  | .c => { x with purseC := n }
  | .s => { x with purseS := n }

/-- The signed count that PTOKEN moves from the purse to the card (R268). -/
def tokensMoved (n : Int) (purse tokens : Nat) : Int :=
  if 0 ≤ n then min n (min (purse : Int) ((2 ^ 32 - 1 : Int) - tokens)) else -(min (-n) (tokens : Int))

/-- R268. -/
def execPtoken (d a b : BitVec 5) (s : State) : Host.Outcome State Fault Refusal :=
  lcWord s do
    let (i, k) ← lcContext s false true false
    lining s
    let id ← cardId s a
    cardFormat id (!s.prepared id)
    let purse := (s.lc i).purse k
    let m := tokensMoved (s.rg b).toInt purse (s.card id).tokens
    let s := s.setLc i ((s.lc i).setPurse k (purse - m).toNat)
    let s := s.setCard id { s.card id with tokens := ((s.card id).tokens + m).toNat }
    .ok ((s.wg d (dwi m)).retire)

end Sys2Proof.Machine
end

