-- ==== Sys2Proof/Machine/Flags.lean ====
section
/-!
DEFINITION. The system registers of R75 to R79: their values as MFS reads them and what MTS changes, and the
sticky flags OFL and SAT. STAT's value stands in Ops.lean (State.stat), where the save slots need it.
-/

namespace Sys2Proof.Machine

/-- A write to STAT (R77, R117): the W1C bits written as 1 are cleared. -/
def Stream.writeStat (x : Stream) (v : DWord) : Stream :=
  { x with ofl := x.ofl && !bit v.toNat 9, sat := x.sat && !bit v.toNat 8 }

/-- The sticky flags after a result that overflowed or saturated (R41, R42). -/
def Stream.stick (x : Stream) (ofl sat : Bool) : Stream := { x with ofl := x.ofl || ofl, sat := x.sat || sat }

/-- The fields of CAUSE that a write sets (R79): ENG, ASYNC, CODE. -/
def causeFields (v : DWord) : DWord := v &&& 0xF1FF

/-- A value that VT takes (R76, R78): its type is not reserved. -/
def vtOk (v : DWord) : Bool := decide (dbits v 3 0 < 8)

/-- COREID of a unit of a package (R75). -/
def coreIdWord (pkg : Nat) (u : UnitId) : DWord := dw (pkg * 2 ^ 8 + u.coreId)

/-- The system registers below 0x100 that a unit reaches (R75, R76), as MFS reads them; none for an index not listed for
it. -/
def State.sysRead (s : State) (u : UnitId) (i : Nat) : Option DWord :=
  let x := s.stream u
  if i = 0x000 then some (s.stat u)
  else if i = 0x001 then some x.cause
  else if i = 0x002 then some x.epc
  else if i = 0x003 then some x.einfo
  else if i = 0x004 then some x.ecmd
  else if i = 0x005 then some x.eword
  else if h : 0x011 ≤ i ∧ i ≤ 0x017 then (if u.isEngine then some (x.tp[i - 0x010]'(by omega)) else none)
  else if i = 0x020 then (if u.half = .ve then some x.vt else none)
  else if i = 0x021 then some x.wto
  else if h : 0x030 ≤ i ∧ i ≤ 0x033 then some (x.lp[i - 0x030]'(by omega)).count
  else if i = 0x040 then (if u.isEngine then some (dw (s.cardCode u)) else none)
  else if i = 0x041 then some (coreIdWord s.pkg u)
  else if i = 0x042 then some (x.gen.setWidth 64)
  else if i = 0x043 then (if u.isEngine then some (dw (s.core (s.coreOf u)).level) else none)
  else if i = 0x044 then some (dw (16 * Tab.get s.imlim u.imem 0))
  else if i = 0x060 then (if u.half = .mx then some (dw (s.core (s.coreOf u)).mx.pi) else none)
  else none

/-- A write to a system register below 0x100 by its own stream, field by field (R75 to R79, R117): a read-only register
keeps its value, a res0 field stays 0. EWORD keeps all 64 bits: DESIGN CHOICE, bits 31:27 are res0 in the standard layout of R82 and carry
fields in those of R169 and R363, and the spec does not say which layout a written value has. -/
def Stream.sysWrite (x : Stream) (i : Nat) (v : DWord) : Stream :=
  if i = 0x000 then x.writeStat v
  else if i = 0x001 then { x with cause := causeFields v }
  else if i = 0x002 then { x with epc := v }
  else if i = 0x003 then { x with einfo := v }
  else if i = 0x004 then { x with ecmd := v }
  else if i = 0x005 then { x with eword := v }
  else if h : 0x011 ≤ i ∧ i ≤ 0x017 then { x with tp := x.tp.set (i - 0x010) (v &&& 0x3FF) (by omega) }
  else if i = 0x020 then { x with vt := v &&& 0x3F }
  else if i = 0x021 then { x with wto := v }
  else if h : 0x030 ≤ i ∧ i ≤ 0x033 then
    { x with lp := x.lp.set (i - 0x030) { x.lp[i - 0x030]'(by omega) with count := v } (by omega) }
  else if i = 0x042 then { x with gen := v.setWidth 8 }
  else x

end Sys2Proof.Machine
end

