-- ==== Sys2Proof/Machine/Ports.lean ====
section
/-!
DEFINITION. The ports of a control context, at indices 0x100 to 0x1FF (R269, R330, R338, R371, R390, R404, R459), and the
rows of the opcode table that stand for single ports. A write-only port reads as 0 and a write to a read-only one is
ignored (R17); a nonzero res0 field of a write is ignored (R18).
-/

namespace Sys2Proof.Machine

/-! ### Reads -/

/-- The core units (R269): 0 and 1, the served cores. -/
def coreUnit (i unit : Nat) : Option Nat := if i < 16 ∧ unit < 2 then some (2 * i + unit) else none

/-- DONE (R270): the oldest completion entry leaves the FIFO; its job's writes are acquired, and no others (R271). -/
def State.readDone (s : State) (c : Nat) : State × DWord :=
  match (s.core c).done with
  | [] => (s, 0)
  | (n, x) :: xs => ((s.setCore c { s.core c with done := xs }).acquireWork (s.agentOf s.cur) (.job n), x)

/-- The bytes of some performed writes. -/
def writtenKeys (ws : List Wrote) : List Nat := (ws.flatMap fun e => e.old.map (·.1)).eraseDups

/-- The writes performed so far of some bytes ordered before what the executing unit does from now on. -/
def State.acquireKeys (s : State) (keys : List Nat) : State := s.acquire (s.agentOf s.cur) (Clock.empty.over keys s.histNow)

/-- The written bytes of n bytes from a physical address on. -/
def State.writtenFrom (s : State) (pa n : Nat) : List Nat := (writtenKeys s.hist).filter fun a => decide (pa ≤ a) && decide (a < pa + n)

/-- FAULTQ (R338): the oldest notice leaves the queue, and what its slot's record was written with is acquired; the slot that keeps an ended
job's record is freed (R355). -/
def State.readFaultq (s : State) : State × DWord :=
  match s.faultq with
  | [] => (s, 0)
  | x :: xs =>
    let slot := dbits x 47 40
    ({ s.acquireKeys (s.writtenFrom (s.slotPa slot) 4096) with faultq := xs }.dropSlots fun y => y.ending && decide (y.slot = slot), x)

/-- INVSTAT (R373): a 0 acquires the accesses that the invalidations waited for. -/
def State.readInvstat (s : State) : State × DWord :=
  let covered := fun (e : Wrote) => match e.writer.page with
    | some (root, key) => s.walkFloors.any fun f => decide (e.writer.at_ < f.2.2.2.2) && keyMeets root key f.1 f.2.1 f.2.2.1
    | none => false
  (if s.invals.isEmpty then s.acquireKeys (writtenKeys (s.hist.filter covered)) else s, dw s.invals.length)

/-- MIGSTAT (R377): DONE acquires every copy. -/
def State.readMigstat (s : State) : State × DWord :=
  let m := s.mig s.ports.migSel
  (if m.done then s.acquireKeys (s.writtenFrom (framePa m.dst) (1024 * m.sectors)) else s, m.stat)

/-- CNTVAL (R378): the selected counter of a channel. The bytes are those of the transfers made; a count of row conflicts, refresh stalls or
activations has gone on since it was last read by a free number of the accesses made since, because no rule says which of them meet one (log
entry 14). -/
def State.readCounter (s : State) : State × DWord :=
  let v := s.ports.cntSel
  let m := dbits v 3 0
  let ch := dbits v 8 4
  let ctr := dbits v 11 10
  let was := Tab.get s.counts (m, ch, ctr) 0
  if ctr = 3 then (s, dw was)
  else
    let (n, s) := s.draw
    let c := was + Config.freeNat n % (Tab.get s.counts (m, ch, 4 + ctr) 0 + 1)
    ({ s with counts := Tab.set (Tab.set s.counts (m, ch, ctr) c) (m, ch, 4 + ctr) 0 }, dw c)

/-- The endpoint code of TKOUTn and TKINn. -/
def portEndpoint (n : Nat) : Endpoint := (endpointOf n).getD .ctl

/-- A read of a core unit (R269); none for an offset that is not listed. -/
def State.readCorePort (s : State) (c o : Nat) : Option (State × DWord) :=
  let k := s.core c
  if o = 0x00 then some (s, 0)
  else if o = 0x01 then some (s, dw (16 - k.jobq.length))
  else if o = 0x02 then some (s.readDone c)
  else if o = 0x03 then some (s, dw k.done.length)
  else if o = 0x04 then some (s, dw (s.trackerUsed c))
  else if 0x11 ≤ o ∧ o ≤ 0x15 then
    let q := k.queue .ctl (portEndpoint (o - 0x10))
    some (s, dw (16 - (q.toks.length + q.reserved)))
  else if 0x19 ≤ o ∧ o ≤ 0x1D then some (s, dw (k.queue (portEndpoint (o - 0x18)) .ctl).toks.length)
  else none

/-- WENTRY (R390). -/
def State.wentry (s : State) (n : Nat) : DWord :=
  match Tab.find? s.watches n with
  | none => 0
  | some e => dw (2 ^ 63 + b2n e.armed * 2 ^ 62 + (3 * e.lc + e.ctx.num) * 2 ^ 48 + e.card * 2 ^ 32 + e.spawns)

/-- Entries that context 3i + ctx holds (R390). -/
def State.watchesOf (s : State) (n : Nat) : Nat := (s.watches.filter fun w => decide (3 * w.2.lc + w.2.ctx.num = n)).length

/-- The quota of a context (R390): 4 unless it was set. -/
def State.quota (s : State) (n : Nat) : Nat := Tab.get s.ports.wQuota n 4

/-- The memory and row that XMSEL selects (R371). -/
def State.xmKey (s : State) : Nat × Nat := (dbits s.ports.xmSel 3 0, dbits s.ports.xmSel 6 4)

/-- A read of a firmware port of the control-core unit. -/
def State.readFirmPort (s : State) (o : Nat) : Option (State × DWord) :=
  let p := s.ports
  if o = 0x10 then some (s, p.drainLim)
  else if o = 0x11 then some (s, p.killLim)
  else if o = 0x12 then some (s, p.costDrain)
  else if o = 0x13 then some (s, p.costCkpt)
  else if o = 0x14 then some (s, p.costKill)
  else if o = 0x15 then some (s, p.purseRate)
  else if o = 0x16 then some (s, p.purseCap)
  else if o = 0x18 then some (s, p.saveBase)
  else if o = 0x19 then some (s, dw p.saveSlots)
  else if o = 0x1A then some s.readFaultq
  else if o = 0x1B ∨ o = 0x1C then some (s, 0)
  else if o = 0x1D then some (s, dw s.faultq.length)
  else if o = 0x20 then some (s, dw p.vmSel)
  else if o = 0x21 then some (s, s.rootOf p.vmSel)
  else if o = 0x22 then some (s, 0)
  else if o = 0x23 then some s.readInvstat
  else if o = 0x24 then some (s, dw p.migSel)
  else if o = 0x25 then some (s, (s.mig p.migSel).src)
  else if o = 0x26 then some (s, (s.mig p.migSel).dst)
  else if o = 0x27 then some (s, 0)
  else if o = 0x28 then some s.readMigstat
  else if o = 0x29 then some s.readBncq
  else if o = 0x2A then some (s, 0)
  else if o = 0x2B then some (s, p.cntSel)
  else if o = 0x2C then some s.readCounter
  else if o = 0x2D then some (s, p.xmSel)
  else if o = 0x2E then some (s, dw (Tab.get s.xmRows s.xmKey 0))
  else if o = 0x30 then some (s, dw p.wqSel)
  else if o = 0x31 then some (s, dw (s.quota p.wqSel))
  else if o = 0x32 then some (s, dw (s.watchesOf p.wqSel))
  else if o = 0x33 then some (s, dw p.wEntSel)
  else if o = 0x34 then some (s, s.wentry p.wEntSel)
  else if o = 0x35 then some (s, dw s.exchange.cycles)
  else if o = 0x36 then some (s, dw s.exchange.outerCycles)
  else if o = 0x38 then some (s, 0)
  else if o = 0x3A then some (s, p.errBase)
  else none

/-- A read of the control-core unit by LCi's context k. -/
def State.readCtlPort (s : State) (i : Nat) (k : Ctx) (o : Nat) : Option (State × DWord) :=
  let x := s.lc i
  if o = 0x00 then some (s, dw (64 - x.scb.length))
  else if o = 0x01 then some (s, dw x.ringLC.length)
  else if o = 0x02 then some (s, dw x.ringCS.length)
  else if o = 0x03 then some (s, dw x.ringSL.length)
  else if o = 0x04 then some (s, dw (x.purse k))
  else if 16 ≤ i then s.readFirmPort o
  else none

/-- MFS of a port; none where the index raises ILLEGAL (R269). -/
def State.portRead (s : State) (i : Nat) (k : Ctx) (ix : Nat) : Option (State × DWord) :=
  let unit := (ix - 0x100) / 64
  let o := (ix - 0x100) % 64
  match coreUnit i unit with
  | some c => s.readCorePort c o
  | none => if unit = 2 then s.readCtlPort i k o else none

/-! ### Writes -/

/-- HOSTIRQ (R404): the vector is pended and its message sent, unless it is pended already. -/
def State.hostIrq (s : State) (v : DWord) : State :=
  let n := dbits v 5 0
  if bit s.host.irqPend.toNat n then s
  else { s with host := { s.host with irqPend := s.host.irqPend ||| dw (2 ^ n), messages := s.host.messages ++ [n] } }

/-- ABORT (R340): the held unit's job ends with the code, or a held context or TE halts; ignored for another code or
where the slot holds no held unit. -/
def State.abortUnit (s : State) (v : DWord) : State :=
  let code := dbits v 15 8
  let slot := dbits v 7 0
  if code = 0 ∨ 0x1B < code then s
  else
    match s.saved.find? fun y => decide (y.slot = slot) && !y.ending with
    | none => s
    | some y =>
      match (s.stream y.unit).run with
      | .held n =>
        if n ≠ slot then s
        else
          let s := s.dropSlot slot
          match (s.stream y.unit).job with
          | some j => s.endJob j code
          | none => s.haltStream y.unit
      | _ => s

/-- RESUME (R339): by its MODE; a reserved mode is ignored. -/
def State.resumeWrite (s : State) (v : DWord) : State :=
  match dbits v 9 8 with
  | 0 => (s.resume (dbits v 7 0) none).getD s
  | 1 => (s.resume (dbits v 7 0) (some (dw (dbits v 49 32)))).getD s
  | _ => s

/-- The used bits of a frame address port. -/
def frameMask : DWord := 0xFFFFFFFF0000

/-- The ROOT fields that a write sets (R372). -/
def rootFields (v : DWord) : DWord := v &&& 0xFC00FFFFFFFFE001

/-- PURSERATE (R330): the multiples of the new rate that have passed earn nothing. -/
def State.setPurseRate (s : State) (v : DWord) : State :=
  { s with ports := { s.ports with purseRate := v }, served := { s.served with purse := s.tick / v.toNat * v.toNat } }

/-- A write to a firmware port of the control-core unit. -/
def State.writeFirmPort (s : State) (o : Nat) (v : DWord) : Option (M State) :=
  let p := s.ports
  let n := v.toNat
  let set := fun (q : Ports) => some (Except.ok { s with ports := q } : M State)
  let ok := fun (t : State) => some (Except.ok t : M State)
  if o = 0x10 then set { p with drainLim := v }
  else if o = 0x11 then set { p with killLim := v }
  else if o = 0x12 then set { p with costDrain := v }
  else if o = 0x13 then set { p with costCkpt := v }
  else if o = 0x14 then set { p with costKill := v }
  else if o = 0x15 then (if n < 1700 then ok s else ok (s.setPurseRate v))
  else if o = 0x16 then set { p with purseCap := v &&& 0xFFFFFFFF }
  else if o = 0x18 then set { p with saveBase := v &&& frameMask }
  else if o = 0x19 then (if n < 54 ∨ 256 < n then ok s else set { p with saveSlots := n })
  else if o = 0x1A then ok s
  else if o = 0x1B then some (do released s; .ok (s.resumeWrite v))
  else if o = 0x1C then ok (s.abortUnit v)
  else if o = 0x1D then ok s
  else if o = 0x20 then (if 18 ≤ dbits v 4 0 then ok s else set { p with vmSel := dbits v 4 0 })
  else if o = 0x21 then ok (s.setLc p.vmSel { s.lc p.vmSel with rootReg := rootFields v })
  else if o = 0x22 then some (inval s v)
  else if o = 0x23 then ok s
  else if o = 0x24 then set { p with migSel := dbits v 1 0 }
  else if o = 0x25 then ok (s.setMig p.migSel { s.mig p.migSel with src := v &&& frameMask })
  else if o = 0x26 then ok (s.setMig p.migSel { s.mig p.migSel with dst := v &&& frameMask })
  else if o = 0x27 then ok (s.migCmd v)
  else if o = 0x28 ∨ o = 0x29 then ok s
  else if o = 0x2A then some (do released s; bncDone s v)
  else if o = 0x2B then (if 9 ≤ dbits v 3 0 then ok s else set { p with cntSel := v &&& 0xDFF })
  else if o = 0x2C then ok s
  else if o = 0x2D then (if 9 ≤ dbits v 3 0 ∨ 5 ≤ dbits v 6 4 then ok s else set { p with xmSel := v &&& 0x7F })
  else if o = 0x2E then ok ({ s with xmRows := Tab.set s.xmRows s.xmKey (n % 2 ^ 27) }.rowChanged s.xmKey.1)
  else if o = 0x30 then (if 54 ≤ dbits v 5 0 then ok s else set { p with wqSel := dbits v 5 0 })
  else if o = 0x31 then (if 256 < dbits v 8 0 then ok s else set { p with wQuota := Tab.set p.wQuota p.wqSel (dbits v 8 0) })
  else if o = 0x32 then ok s
  else if o = 0x33 then set { p with wEntSel := dbits v 7 0 }
  else if o = 0x34 ∨ o = 0x35 ∨ o = 0x36 then ok s
  else if o = 0x38 then some (do released s; .ok ((s.hostIrq v).acquire .host (s.releaseNow (s.agentOf s.cur) 3)))
  else if o = 0x3A then set { p with errBase := v &&& frameMask }
  else none

/-- The post of JQPUSH (R269): the card of g<15:0>, exactly as JPOST posts it, with its release. -/
def jqPost (s : State) (i : Nat) (k : Ctx) (c : Nat) (v : DWord) : M State := do
  released s
  post s i k (dbits v 15 0) c

/-- MTS of a port by LCi's context k; none where the index raises ILLEGAL (R269). -/
def State.portWrite (s : State) (i : Nat) (k : Ctx) (ix : Nat) (v : DWord) : Option (M State) :=
  let unit := (ix - 0x100) / 64
  let o := (ix - 0x100) % 64
  match coreUnit i unit with
  | some c => if o = 0 then some (jqPost s i k c v) else (s.readCorePort c o).map fun _ => .ok s
  | none =>
    if unit ≠ 2 then none
    else if o ≤ 0x04 then some (.ok s)
    else if 16 ≤ i then s.writeFirmPort o v
    else none

/-! ### The rows of single ports -/

/-- MFS of a port at an offset of the control-core unit, or of a core unit, as a row of its own. -/
def portRow (s : State) (ix : Nat) (d : BitVec 5) : M State :=
  match s.cur with
  | .ctx i k => match s.portRead i k ix with
    | some (s, v) => .ok ((s.wg d v).retire)
    | none => faultFree .illegal
  | _ => faultFree .illegal

/-- MTS of a port as a row of its own: compared by the lining core, then written. -/
def portSet (s : State) (ix : Nat) (v : DWord) : M State :=
  match s.cur with
  | .ctx i k => match s.portWrite i k ix v with
    | some m => do
      lining s
      let s ← m
      .ok s.retire
    | none => faultFree .illegal
  | _ => faultFree .illegal

/-- R269: MTS to JQPUSH, index 0x100 or 0x140. -/
def execJqpush (side : BitVec 1) (a : BitVec 5) (s : State) : Host.Outcome State Fault Refusal :=
  finish s (portSet s (0x100 + 0x40 * side.toNat) (s.rg a))

/-- R270: MFS of DONE, index 0x102 or 0x142. -/
def execDone (side : BitVec 1) (d : BitVec 5) (s : State) : Host.Outcome State Fault Refusal :=
  finish s (portRow s (0x102 + 0x40 * side.toNat) d)

/-- R338: MFS of FAULTQ. -/
def execFaultq (d : BitVec 5) (s : State) : Host.Outcome State Fault Refusal := finish s (portRow s 0x19A d)

/-- R339: MTS to RESUME of a value with MODE 0; with another mode this row does nothing. -/
def execResumeRetry (a : BitVec 5) (s : State) : Host.Outcome State Fault Refusal :=
  if dbits (s.rg a) 9 8 = 0 then finish s (portSet s 0x19B (s.rg a)) else .next s

/-- R339: MTS to RESUME of a value with MODE 1; with another mode this row does nothing. -/
def execResumeHandler (a : BitVec 5) (s : State) : Host.Outcome State Fault Refusal :=
  if dbits (s.rg a) 9 8 = 1 then finish s (portSet s 0x19B (s.rg a)) else .next s

/-- R340: MTS to ABORT. -/
def execAbort (a : BitVec 5) (s : State) : Host.Outcome State Fault Refusal := finish s (portSet s 0x19C (s.rg a))

/-- R373: MTS to INVAL. -/
def execInval (a : BitVec 5) (s : State) : Host.Outcome State Fault Refusal := finish s (portSet s 0x1A2 (s.rg a))

/-- R377: MTS to MIGCMD of a value with OP 1; with another operation this row does nothing. -/
def execMigcmdStart (a : BitVec 5) (s : State) : Host.Outcome State Fault Refusal :=
  if dbits (s.rg a) 1 0 = 1 then finish s (portSet s 0x1A7 (s.rg a)) else .next s

/-- R377, R458: MTS to MIGCMD of a value with OP 2; with another operation this row does nothing. -/
def execMigcmdEnd (a : BitVec 5) (s : State) : Host.Outcome State Fault Refusal :=
  if dbits (s.rg a) 1 0 = 2 then finish s (portSet s 0x1A7 (s.rg a)) else .next s

/-- R375: MFS of BNCQ. -/
def execBncq (d : BitVec 5) (s : State) : Host.Outcome State Fault Refusal := finish s (portRow s 0x1A9 d)

/-- R375: MTS to BNCDONE. -/
def execBncdone (a : BitVec 5) (s : State) : Host.Outcome State Fault Refusal := finish s (portSet s 0x1AA (s.rg a))

/-- R404: MTS to HOSTIRQ. -/
def execHostirq (a : BitVec 5) (s : State) : Host.Outcome State Fault Refusal := finish s (portSet s 0x1B8 (s.rg a))

/-! ### Register writes (R17, R76, R117, R401, R472) -/

/-- MTS by the executing stream or context: the index must be listed for it, a reserved VT encoding is ILLEGAL, PI and the
read-only registers keep their values, a port takes the write. -/
def mts (s : State) (ix : Nat) (v : DWord) : M State :=
  match s.sysRead s.cur ix with
  | some _ =>
    if ix = 0x020 ∧ !vtOk v then faultFree .illegal
    else do
      lining s
      .ok (s.setMe (s.me.sysWrite ix v))
  | none => match s.cur with
    | .ctx i k => if 0x100 ≤ ix ∧ ix < 0x200 then (match s.portWrite i k ix v with
        | some m => do
          lining s
          m
        | none => faultFree .illegal) else faultFree .illegal
    | _ => faultFree .illegal

/-- A write to a host register (R401). -/
def HostSide.write (x : HostSide) (o : Nat) (v : DWord) : HostSide :=
  if o = 0x800000 then (if 18 ≤ dbits v 4 0 then x else { x with apRoot := dbits v 4 0 })
  else if o = 0x800008 then { x with apBase := v &&& 0xFFFFF000000000 }
  else if o = 0x800010 then { x with err := x.err &&& ~~~v }
  else if o = 0x800018 then { x with irqPend := x.irqPend &&& ~~~v }
  else x

/-- A write to a register or port without a row of its own: space 0, a system register or port of the executing stream, as
MTS writes it; 1, a host register by its offset in BAR0; 2, the sideband register LOGSEL, offset 0x28 (R472). -/
def execRegisterWrite (space : BitVec 2) (i : BitVec 24) (v : DWord) (s : State) : Host.Outcome State Fault Refusal :=
  if space = 0 then finish s (mts s i.toNat v)
  else if space = 1 then .next { s with host := s.host.write i.toNat v }
  else if space = 2 ∧ i = 0x28 then .next { s with mgc := { s.mgc with logSel := v &&& 0xFFFFFFFF } }
  else .next s

end Sys2Proof.Machine
end

