-- ==== Sys2Proof/Machine/System.lean ====
section
/-!
DEFINITION. Shared subset: tokens, meeting points, generations and system instructions (spec/03_shared_integer_control.md R105
to R120), with the release of a rendezvous.
-/

namespace Sys2Proof.Machine

/-! ### TKWAIT and TKSIG (R105 to R108) -/

/-- The core and own endpoint of a token word (R105): ILLEGAL in the TE stream, for a core bit outside a control context,
in a context without served cores, for the codes 6 and 7 and for the executing endpoint itself. -/
def tokenPlace (s : State) (c : BitVec 1) (e : BitVec 3) : M (Nat × Endpoint × Endpoint) :=
  match endpointOf e.toNat with
  | none => faultFree .illegal
  | some p =>
    let self := s.cur.endpoint
    match s.cur with
    | .te => faultFree .illegal
    | .ctx i _ => if i < 16 ∧ p ≠ self then .ok (2 * i + c.toNat, self, p) else faultFree .illegal
    | u => if c = 0 ∧ p ≠ self then .ok (s.coreOf u, self, p) else faultFree .illegal

/-- Another context of the control core has waited longer in a TKWAIT on the same queue, or as long and comes first in the
order L, C, S (R105). -/
def State.earlierWaiter (s : State) (c : BitVec 1) (e : BitVec 3) : Bool :=
  match s.cur with
  | .ctx i k =>
    let mine := match s.me.waiting with
      | some w => w.since
      | none => s.now
    [Ctx.l, Ctx.c, Ctx.s].any fun k' =>
      let x := s.stream (.ctx i k')
      decide (k' ≠ k) && decide (x.run = .running) && (match x.waiting with
        | some w => decide (w.since < mine ∨ (w.since = mine ∧ k'.num < k.num))
            && (match decode .lc x.word with
              | .ok (.tkwait _ c' e') => decide (c' = c) && decide (e' = e)
              | _ => false)
        | none => false)
  | _ => false

/-- R106; the pop of a real token is an acquire (R108). -/
def execTkwait (d : BitVec 5) (c : BitVec 1) (e : BitVec 3) (s : State) : Host.Outcome State Fault Refusal :=
  shared s fun s => do
    let (k, self, p) ← tokenPlace s c e
    lining s
    if s.earlierWaiter c e then .error (.wait (s.waitHere none))
    else
      let g := s.me.gen
      let s := s.discardInto k self [p] g
      match s.offer k p self g with
      | .head t =>
        let s := s.setCore k ((s.core k).setQueue p self ((s.core k).queue p self).pop)
        let s := if t.isVoid then s else s.acquire (s.agentOf s.cur) t.clock
        .ok ((s.wg d (dw (t.tag.toNat + b2n t.isVoid * 256))).retire)
      | .closed => .ok ((s.wg d (dw (g.toNat + 256))).retire)
      | .nothing => .error (.wait (s.waitHere none))

/-- R107: a release, then the push; TOKEN_OVERFLOW, EINFO the endpoint, where no entry is free. -/
def execTksig (c : BitVec 1) (e : BitVec 3) (s : State) : Host.Outcome State Fault Refusal :=
  shared s fun s => do
    let (k, self, p) ← tokenPlace s c e
    lining s
    released s
    if ((s.core k).queue self p).full then faultAt .tokenOverflow (dw e.toNat) 5 0
    let q := (s.core k).queue self p
    .ok ((s.setCore k ((s.core k).setQueue self p (q.push ⟨s.me.gen, false, s.releaseNow (s.agentOf s.cur)⟩))).retire)

/-! ### Meeting points and generations (R109 to R113) -/

/-- R109: ILLEGAL outside the engine streams of a job; the job. -/
def inJob (s : State) : M (Nat × Job) :=
  match s.cur.isEngine, s.me.job with
  | true, some j => match s.job? j with
    | some jb => .ok (j, jb)
    | none => faultFree .illegal
  | _, _ => faultFree .illegal

/-- R110: the arrival; the stream waits at the rendezvous until RDV_RELEASE. -/
def execRdv (n : BitVec 8) (s : State) : Host.Outcome State Fault Refusal :=
  shared s fun s => do
    let (_, jb) ← inJob s
    if cardRdvn jb.words ≤ n.toNat then faultFree .illegal
    .ok (s.setMe { s.me with run := .parked (.rdv n.toNat) })

/-- The streams of a job that run. -/
def State.liveStreams (s : State) (j : Nat) : List UnitId :=
  (s.streams.filter fun x => x.1.isEngine && decide (x.2.job = some j) && x.2.run.live).map (·.1)

/-- Every instance of a job has started and none is saved. -/
def Job.allStarted (j : Job) : Bool :=
  j.insts.all fun i => match i.state with
    | .running => true
    | .halted => true
    | .completed => true
    | _ => false

/-- A parked stream goes on after its instruction. -/
def State.unpark (s : State) (u : UnitId) : State :=
  s.setStream u { (s.stream u).next with run := .running }

/-- The scope of a rendezvous (R110): CORE for a job on one core, DIE on one die, else PKG. -/
def Job.meetScope (j : Job) : Nat :=
  let cs := j.insts.map (·.core)
  if (cs.eraseDups).length ≤ 1 then 0 else if ((cs.map (· / 4)).eraseDups).length ≤ 1 then 1 else 2

/-- The meetings at RDV n that a stream has been released from. -/
def Stream.meetings (x : Stream) (n : Nat) : Nat := Tab.get x.rdvArrivals n 0

/-- The meeting at RDV n that a stream has arrived at and waits for: its m-th arrival joins the m-th meeting (R110). -/
def Stream.awaits (x : Stream) (n : Nat) : Option Nat := if x.run = .parked (.rdv n) then some (x.meetings n + 1) else none

/-- A stream has arrived at the m-th meeting at RDV n. -/
def Stream.arrivedAt (x : Stream) (n m : Nat) : Bool := decide (m ≤ x.meetings n) || ((x.awaits n).any fun k => decide (m ≤ k))

/-- Every stream of an instance has arrived at the m-th meeting at RDV n: a halted one has, one of an instance that has not started has
not, and those of a saved one have where they were released from it. -/
def State.instMet (s : State) (j : Nat) (i : Inst) (n m : Nat) : Bool :=
  match i.state with
  | .waiting => false
  | .queued => false
  | .saved slot => match s.saved.find? fun y => decide (y.slot = slot) with
    | some y => y.streams.all fun x => !x.2.run.live || decide (m ≤ x.2.meetings n)
    | none => false
  | _ => (s.jobUnits j i.core).all fun u => !(s.stream u).run.live || (s.stream u).arrivedAt n m

/-- Units meet with a full FENCE of each (R110, R302), which stands in the order of the FENCEs: DEDUCED from its being one. -/
def State.meetFenced (s : State) (us : List UnitId) (scope : Nat) : State :=
  (us ++ us).foldl (fun s u => s.fenceAt (s.agentOf u) scope) s

/-- R110: the lowest meeting that a stream of the job waits for at RDV n is released once every stream has arrived at it, and what each that
waits there accessed before is performed; a full FENCE at the job's scope. Outstanding stores of a halted stream, which only counts as
arrived, are not waited for, and a stream that joins a meeting which the others were released from earlier (R347) is ordered with none of them:
DESIGN CHOICE, the rule does not say which of them are participants (log entry 65). -/
def execRdvRelease (job : Nat) (n : BitVec 8) (s : State) : Host.Outcome State Fault Refusal :=
  happen s <|
    match s.job? job with
    | none => none
    | some jb => match minBy id ((s.liveStreams job).filterMap fun u => (s.stream u).awaits n.toNat) with
      | none => none
      | some m =>
        let us := (s.liveStreams job).filter fun u => decide ((s.stream u).awaits n.toNat = some m)
        if (jb.insts.all fun i => s.instMet job i n.toNat m) && us.all s.allPerformed then
          some (us.foldl (fun s u =>
            let x := s.stream u
            (s.setStream u { x with rdvArrivals := Tab.set x.rdvArrivals n.toNat m }).unpark u)
            (s.meetFenced us jb.meetScope))
        else none

/-- R113: the generation must be younger; every one passed has been left (R279). -/
def execGfence (n : BitVec 8) (s : State) : Host.Outcome State Fault Refusal :=
  shared s fun s => do
    let _ ← inJob s
    let d := (n - s.me.gen).toNat
    if d = 0 ∨ 127 < d then faultFree .illegal
    .ok ((s.setMe (s.me.leaveFor n)).retire)

/-- R111, R285: the checks that do not depend on the level; the stream waits at the switch point until
SWITCH_POINT_RELEASE. -/
def execSwpt (n : BitVec 8) (s : State) : Host.Outcome State Fault Refusal :=
  shared s fun s => do
    let (_, jb) ← inJob s
    let t := cardSched jb.words
    faultIf (decide (t = 0) || decide (128 ≤ t) || decide (64 ≤ n.toNat)) .format (dw n.toNat)
    .ok (s.setMe { s.me with run := .parked (.swpt n.toNat) })

/-- The locks a stream holds (R138, R140): core and lock. -/
def State.locksOf (s : State) (u : UnitId) : List (Nat × Lock) :=
  s.cores.flatMap fun k => (k.2.locks.filter fun l =>
    decide (l.owner = u) && decide (l.job = (s.stream u).job) && !l.granted && l.leaving.isNone).map fun l => (k.1, l)

/-- A checkpoint of the stream's instance looks for stop points, and the stream holds no lock (R140, R345). -/
def State.cutPending (s : State) (u : UnitId) : Bool :=
  (match (s.stream u).job with
    | some j => decide ((s.core (s.coreOf u)).cut = some j) && (match s.job? j with
      | some jb => decide (jb.phase = some .seeking)
      | none => false)
    | none => false) && (s.locksOf u).isEmpty

/-- R112: while a pre-emption is pending, a stop point with its live mask: the stream waits at the PPOINT, at which its PC is saved (R446); it
completes where the stream goes on, after a return (R354) or without a cut (R345). -/
def execPpoint (m : BitVec 24) (s : State) : Host.Outcome State Fault Refusal :=
  shared s fun s => do
    let _ ← inJob s
    .ok (if s.cutPending s.cur then s.setMe { s.me with run := .parked (.stop m true) } else s.retire)

/-! ### System instructions (R114 to R120) -/

/-- R114: a software trap, code 0; EPC is the address of the following instruction. -/
def execTrap (c : BitVec 8) (s : State) : Host.Outcome State Fault Refusal :=
  shared s fun s => .ok (s.raise s.cur 0 false (s.me.a + 4) (dw c.toNat) (s.engineWord s.cur 0 0))

/-- R115, R273: the lining core of a context takes its registers. -/
def execEret (s : State) : Host.Outcome State Fault Refusal :=
  shared s fun s => do
    if !s.me.th then faultFree .illegal
    let s := s.setMe s.me.eret
    .ok (match s.cur with
      | .ctx i k => s.setLc i { s.lc i with lining := Tab.erase (s.lc i).lining k }
      | _ => s)

/-- R116: the register or port read; ILLEGAL for an index not listed for the executing stream. -/
def execMfs (d : BitVec 5) (i : BitVec 14) (s : State) : Host.Outcome State Fault Refusal :=
  shared s fun s =>
    match s.sysRead s.cur i.toNat with
    | some v => .ok ((s.wg d v).retire)
    | none => match s.cur with
      | .ctx n k => if 0x100 ≤ i.toNat ∧ i.toNat < 0x200 then (match s.portRead n k i.toNat with
          | some (s, v) => .ok ((s.wg d v).retire)
          | none => faultFree .illegal) else faultFree .illegal
      | _ => faultFree .illegal

/-- R117. -/
def execMts (a : BitVec 5) (i : BitVec 14) (s : State) : Host.Outcome State Fault Refusal :=
  shared s fun s => do
    let s ← mts s i.toNat (s.rg a)
    .ok s.retire

/-- R118. -/
def execCyc (d : BitVec 5) (s : State) : Host.Outcome State Fault Refusal :=
  shared s fun s => .ok ((s.wg d s.pcyc).retire)

/-- R119. -/
def execHalt (s : State) : Host.Outcome State Fault Refusal :=
  shared s fun s => .ok (s.haltStream s.cur)

/-- R120. -/
def execNop (s : State) : Host.Outcome State Fault Refusal := shared s fun s => .ok s.retire

end Sys2Proof.Machine
end

