-- ==== Sys2Proof/Machine/Trellis.lean ====
section
/-!
DEFINITION. Trellis images and blocks (spec/01_number_formats.md R50 to R53), shared by TRD, VLDT, MX, TENC and TDEC.
-/

namespace Sys2Proof.Machine

/-- A mode's numbers (R50): bits per group, weights per group, bits of the stream, bytes of a block. -/
structure TcwMode where
  b : Nat
  g : Nat
  m : Nat
  bytes : Nat
  deriving DecidableEq, Repr, Inhabited

/-- The modes TCW1, TCW15, TCW175. -/
def tcwMode (code : Nat) : Option TcwMode :=
  if code = 1 then some ⟨1, 1, 256, 36⟩
  else if code = 2 then some ⟨3, 2, 384, 52⟩
  else if code = 3 then some ⟨7, 4, 448, 60⟩
  else none

/-- An image's header (R53): mode, table value function, K and N. -/
structure TcwHeader where
  mode : TcwMode
  table : Bool
  k : Nat
  n : Nat
  deriving DecidableEq, Repr

/-- K-direction blocks of a column. -/
def TcwHeader.rows (h : TcwHeader) : Nat := ceilDiv h.k 256

/-- The offset of a block from the image's start: column n, block row kb (R53). -/
def TcwHeader.blockAt (h : TcwHeader) (n kb : Nat) : Nat :=
  64 + (if h.table then 256 else 0) + (n * h.rows + kb) * h.mode.bytes

/-- The bytes of an image. -/
def TcwHeader.size (h : TcwHeader) : Nat := h.blockAt h.n 0

/-- The header's checks in their order (R53): the header, or the word (FIELD) of the first that fails. -/
def tcwHeader (w : List Word) : Except Nat TcwHeader :=
  let k := wd w 2
  let n := wd w 3
  match tcwMode (bits (wd w 0) 7 0) with
  | none => .error 0
  | some m =>
    if 1 < bits (wd w 0) 15 8 ∨ bits (wd w 0) 31 16 ≠ 0 then .error 0
    else if k = 0 ∨ 2 ^ 24 < k then .error 2
    else if n = 0 ∨ 2 ^ 24 < n then .error 3
    else if wd w 1 + 2 ^ 32 * bits (wd w 4) 8 0 ≠ ceilDiv k 256 * n then .error 1
    else if bits (wd w 4) 31 9 ≠ 0 then .error 4
    else match (List.range 11).find? fun i => decide (wd w (5 + i) ≠ 0) with
      | some i => .error (5 + i)
      | none => .ok ⟨m, bits (wd w 0) 15 8 = 1, k, n⟩

/-- The 16-bit window of group q of a stream (R51), the stream as a number. -/
def window (m : TcwMode) (stream q : Nat) : Nat := (stream + stream * 2 ^ m.m) / 2 ^ (q * m.b % m.m) % 65536

/-- The bytes of a block's stream that hold the window of group q (R51). -/
def windowBytes (m : TcwMode) (q : Nat) : List Nat :=
  ((List.range 16).map fun i => (q * m.b + i) % m.m / 8).eraseDups

/-- The window of group q from those bytes, laid as `windowBytes` lists them. -/
def windowOf (m : TcwMode) (q : Nat) (bs : List Byte) : Nat :=
  let ns := windowBytes m q
  ((List.range 16).map fun i =>
    let p := (q * m.b + i) % m.m
    b2n (bit ((bs.getD (ns.idxOf (p / 8)) 0).toNat) (p % 8)) * 2 ^ i).sum

/-- The hash t of a window at position j of its group (R51). -/
def windowHash (w j : Nat) : Nat := (w * 40503 + 9949 * (j + 1)) % 65536

/-- The value of a window at position j of its group (R51). -/
def windowValue (table : Option (List Byte)) (w j : Nat) : Int :=
  let t := windowHash w j
  match table with
  | none => ((bits t 15 12 + bits t 11 8 + bits t 7 4 + bits t 3 0 : Nat) : Int) - 30
  | some tbl => sextInt (tbl.getD (bits t 15 8) 0).toNat 8

/-- Weight k of a block's stream (R51). -/
def weightAt (m : TcwMode) (table : Option (List Byte)) (stream k : Nat) : Int :=
  windowValue table (window m stream (k / m.g)) (k % m.g)

/-- The S10 code of weight k in a scale word (R50). -/
def scaleOf (sw k : Nat) : Nat := if k < 128 then bits sw 9 0 else bits sw 19 10

end Sys2Proof.Machine
end

