-- ==== Sys2Proof/Machine/Memory.lean ====
section
/-!
DEFINITION. Shared subset: handles, loads and stores, locks, AMO, the tag table, DRAIN and FENCE, lattice joins and waits,
WINFO and TRD (spec/04_shared_memory_lattice_system.md R123 to R154).
-/

namespace Sys2Proof.Machine

/-! ### Where the instructions run (R123) -/

/-- ILLEGAL in an MX stream. -/
def notMx (s : State) : M Unit := if s.cur.half = .mx then faultFree .illegal else .ok ()

/-- ILLEGAL in MX and TE streams. -/
def notMxTe (s : State) : M Unit :=
  match s.cur.half with
  | .mx => faultFree .illegal
  | .te => faultFree .illegal
  | _ => .ok ()

/-- ILLEGAL but in CX, VL and VE streams; the core. -/
def onlyCore (s : State) : M Nat :=
  match s.cur with
  | .eng .cx c => .ok c
  | .eng .vl c => .ok c
  | .eng .ve c => .ok c
  | _ => faultFree .illegal

/-! ### Handles (R125 to R128) -/

/-- The index of the root that the executing unit translates through (R356). -/
def State.rootIx (s : State) : Nat :=
  match s.cur with
  | .ctx i _ => i
  | _ => s.me.root

/-- R125: the register takes a pending handle, or a faulted one where no walk starts. -/
def execTrans (h : BitVec 4) (a : BitVec 5) (s : State) : Host.Outcome State Fault Refusal :=
  shared s fun s => do
    notMx s
    .ok ((s.setMe (s.me.wh h (some (s.newHandle s.rootIx s.cur.isCtx (s.rg a))))).retire)

/-- R127. -/
def execHrel (h : BitVec 4) (s : State) : Host.Outcome State Fault Refusal :=
  shared s fun s => do
    notMx s
    .ok ((s.setMe (s.me.wh h none)).retire)

/-- R128. -/
def execHchk (d : BitVec 5) (h : BitVec 4) (s : State) : Host.Outcome State Fault Refusal :=
  shared s fun s => do
    notMx s
    .ok ((s.wg d (dw (hchkWord (s.me.hr h)))).retire)

/-! ### Memory operands (R129) -/

/-- The in-page offset of an SM word. -/
def State.smOff (s : State) (a : BitVec 5) (o : BitVec 8) (z : BitVec 2) : Nat :=
  (s.rg a + dw (s.me.uoff o * sizeOf z)).toNat

/-- A checked access of n bytes through a handle: its page, the root of the handle, the VA that its faults name, its
physical addresses. -/
structure Access where
  page : Page
  root : Nat
  va : DWord
  pas : List Nat

/-- Handle, and the addresses of the bytes. -/
def access (s : State) (h : BitVec 4) (off n : Nat) (write : Bool) : M Access := do
  let (x, p) ← handle s h off n write true
  let pas ← p.addrs (siteOf s.cur) off n
  .ok ⟨p, x.root, dw (p.va + off), pas⟩

/-- The request leaves: it passes the lining core, its homes answer, and nothing it touches must be waited for. -/
def Access.go (x : Access) (s : State) : M Unit := do
  lining s
  reach s x.pas x.va (some x.page.hash)

/-- The agent that executes. -/
abbrev State.self (s : State) : Agent := s.agentOf s.cur

/-- What an access finds at its home at this moment has released to the executing agent (R298): the newest writes of its bytes. -/
def State.homeReleases (s : State) (pas : List Nat) : Clock :=
  let keys := pas.map s.direct
  s.releasedBy s.self (sources (s.writesOf keys) keys)

/-- The bytes an access finds at its home at this moment, as a number, every write of them seen: UNCORRECTABLE at the VA (R130),
free bytes under a disagreeing HASH. -/
def readNat (s : State) (x : Access) : M (State × Nat) := do
  let (s, bs) ← readPas s (some x.page.hash) x.pas fun _ => x.va
  let (s, bs) := s.hashBytes x.page.hash x.pas bs
  .ok (s.seenNow s.self x.pas, leNat bs)

/-! ### Loads (R132, R133) -/

/-- What a load takes: the bytes that a plain load returns; those of an acquire, which orders what the releases that wrote them have
released, and the agent's own accesses, before what follows it (R132, R148, R298); those of the read-only path. -/
inductive LoadKind where
  | plain | acquire | readOnly
  deriving DecidableEq, Repr

/-- The bytes that a load of a kind returns (R133, R301, R306). A context and the TE stream have no job-issue tick: their LDRO
loads as LD does. -/
def State.loadBytes (s : State) (kind : LoadKind) (x : Access) : State × List Byte :=
  match kind with
  | .readOnly =>
    if s.cur.isEngine && decide (x.page.ltype = 0) then s.readOnly (s.coreOf s.cur) (s.me.job.getD 0) x.pas
    else
      let (s, bs, _) := s.look s.cur (some x.page) x.pas
      (s, bs)
  | .plain =>
    let (s, bs, _) := s.look s.cur (some x.page) x.pas
    (s, bs)
  | .acquire =>
    let (s, bs, ws) := s.look s.cur (some x.page) x.pas
    let k := if x.page.ltype = 0 then s.releasedBy s.self ws else s.joinsOf s.self x.pas
    (s.acquireOwn s.self x.page.scope k, bs)

/-- A load: the bytes at their home, zero-extended. -/
def loadVia (s : State) (kind : LoadKind) (d : BitVec 5) (h : BitVec 4) (a : BitVec 5) (z : BitVec 2) (o : BitVec 8) : M State := do
  notMx s
  let x ← access s h (s.smOff a o z) (sizeOf z) false
  x.go s
  let (s, bs) ← readBy s (some x.page.hash) x.pas (fun _ => x.va) fun s =>
    let (s, bs) := s.loadBytes kind x
    s.hashBytes x.page.hash x.pas bs
  .ok ((s.wg d (dw (leNat bs))).retire)

def execLd (d : BitVec 5) (h : BitVec 4) (a : BitVec 5) (z : BitVec 2) (o : BitVec 8) (s : State) :
    Host.Outcome State Fault Refusal := sharedLoad s fun s => loadVia s .plain d h a z o

def execLda (d : BitVec 5) (h : BitVec 4) (a : BitVec 5) (z : BitVec 2) (o : BitVec 8) (s : State) :
    Host.Outcome State Fault Refusal := sharedLoad s fun s => loadVia s .acquire d h a z o

def execLdro (d : BitVec 5) (h : BitVec 4) (a : BitVec 5) (z : BitVec 2) (o : BitVec 8) (s : State) :
    Host.Outcome State Fault Refusal := sharedLoad s fun s => loadVia s .readOnly d h a z o

/-! ### Stores (R130, R134, R135) -/

/-- A byte of the profile ring, in which every field is read-only: a write to it is ignored (R17, R318). -/
def ringByte (pa : Nat) : Bool := decide (kindOf pa = 3) && decide (63 * 2 ^ 20 ≤ pa % 2 ^ 26)

/-- The bytes that an access writes. -/
def Access.cells (x : Access) (bs : List Byte) : List (Nat × Byte) := (x.pas.zip bs).filter fun c => !ringByte c.1

/-- A write is accepted: for a core's stream it takes a retirement tracker entry, waiting while all 64 are in use
(R287); the numbers of its sectors advance (R455). -/
def State.accept (s : State) (x : Access) (bs : List Byte) (isRelease : Bool) (frees : Option (Nat × Nat × Nat)) :
    M State := do
  let c := s.coreOf s.cur
  let tracked := s.cur.isEngine
  if tracked then waitUntil s (s.trackerUsed c < 64)
  let (q, s) := s.nextSeq
  let e : Pending := {
    seq := q, who := s.cur, core := if tracked then some c else none, job := s.me.job.getD 0, kind := .store,
    bytes := x.cells bs, va := x.va.toNat,
    isRelease := isRelease, frees := frees, scope := x.page.scope, root := x.root, page := x.page.key,
    hash := x.page.hash }
  .ok ({ s with pending := s.pending ++ [e] }.numberWrites (e.bytes.map Prod.fst) (some e.hash))

/-- The executing unit as the writer of what it performs at once through a page, as place n among the accepted writes; a release at
the page's scope. -/
def State.writer (s : State) (n : Nat) (x : Access) (isRelease : Bool) : Writer :=
  { s.writerOf s.cur (s.me.job.getD 0) n (some x.page.hash) x.page.scope (if isRelease then some x.page.scope else none) with
    page := some (x.root, x.page.key) }

/-- A write that is accepted and performed in one step takes a retirement tracker entry for that step: it waits while all 64 are
in use (R287). -/
def trackerFree (s : State) : M Unit :=
  waitUntil s (!s.cur.isEngine || decide (s.trackerUsed (s.coreOf s.cur) < 64))

/-- StoreLattice (R135): the no-move-down check and the write, one step at the replica's home; NMS is an answer of the acceptance
(R130). -/
def storeLattice (s : State) (x : Access) (n v : Nat) (isRelease : Bool) : M State := do
  trackerFree s
  let t := x.page.ltype
  let (s, old) := s.cellNat x.page.hash (x.pas.getD 0 0) n
  if !geq t v old then faultAt .nms x.va 1 0
  let (q, s) := s.nextSeq
  .ok (s.setCell x.page (s.writer q x isRelease) (siteOf s.cur) (x.pas.getD 0 0) n old (join t v old))

/-- The low bytes of a register stored through a handle. -/
def storeVia (s : State) (r : BitVec 5) (h : BitVec 4) (a : BitVec 5) (z : BitVec 2) (o : BitVec 8)
    (isRelease : Bool) : M State := do
  let n := sizeOf z
  let x ← access s h (s.smOff a o z) n true
  let v := (s.rg r).toNat % 2 ^ (8 * n)
  faultIf (x.page.ltype ≠ 0 ∧ n ≠ accessSize x.page.ltype) .latticeType x.va
  x.go s
  if x.page.ltype = 0 then
    let s ← s.accept x (leBytes n v) isRelease none
    .ok s.retire
  else
    if isRelease then released s
    let s ← storeLattice s x n v isRelease
    .ok s.retire

def execSt (r : BitVec 5) (h : BitVec 4) (a : BitVec 5) (z : BitVec 2) (o : BitVec 8) (s : State) :
    Host.Outcome State Fault Refusal :=
  shared s fun s => do
    notMx s
    storeVia s r h a z o false

def execStl (r : BitVec 5) (h : BitVec 4) (a : BitVec 5) (z : BitVec 2) (o : BitVec 8) (s : State) :
    Host.Outcome State Fault Refusal :=
  shared s fun s => do
    notMx s
    storeVia s r h a z o true

/-! ### Accepted writes are performed (R130, R131, R134, R299) -/

/-- An accepted write may be performed: no earlier write of one of its bytes by the same agent, or by an earlier job of the
core, is outstanding; a VL store follows the older loads of its bytes that are not performed (R301); a release waits for everything
its agent accessed before, and for its engine's commands. -/
def State.mayPerform (s : State) (pos : Nat) (p : Pending) : Bool :=
  let before := s.pending.take pos
  (before.all fun q => !(share (q.bytes.map (·.1)) (p.bytes.map (·.1))
      && (decide (q.who = p.who) || (decide (q.core = p.core) && p.core.isSome))))
  && (match p.who with
    | .eng .vl c => (s.core c).lq.all fun e => e.filled || decide (p.seq < e.seq) || !share (e.src.map (·.2.1)) (p.bytes.map (·.1))
    | _ => true)
  && !s.chanShut (p.bytes.map (·.1)) (some p.hash) && s.inOrder p.who p.job p.seq
  && (!p.isRelease || ((before.all fun q => decide (q.who ≠ p.who)) && s.performedBefore p.who p.seq))

/-- The lock that a performed STUL frees (R139). -/
def State.freeLock (s : State) (f : Option (Nat × Nat × Nat)) (u : UnitId) : State :=
  match f with
  | none => s
  | some (c, b, l) => s.setCore c { s.core c with
      locks := (s.core c).locks.filter fun k => !(decide (k.bank = b) && decide (k.bit = l) && decide (k.owner = u)) }

/-- The writer of an accepted write. -/
def State.writerOfPending (s : State) (p : Pending) : Writer :=
  { s.writerOf p.who p.job p.seq (some p.hash) p.scope (if p.isRelease then some p.scope else none) with
    page := some (p.root, p.page), tracked := p.core.map fun c => (c, p.job), numbered := true }

/-- R130. -/
def execWritePerformed (pos : Nat) (s : State) : Host.Outcome State Fault Refusal :=
  happen s <|
    match s.pending[pos]? with
    | none => none
    | some p =>
      if !s.mayPerform pos p then none
      else
        let t := ({ s with pending := s.pending.eraseIdx pos } : State).perform p.bytes true (s.writerOfPending p)
        some (t.freeLock p.frees p.who)

/-! ### Scratchpad locks (R137 to R140, R293) -/

/-- Bank and lock bit of a scratchpad offset (R137, R291). -/
def lockOf (off : Nat) : Nat × Nat := (bits off 11 7, bits off 8 3 ^^^ bits off 14 9)

/-- A lock entry still stands: its stream has not halted, or has stores outstanding (R140). -/
def State.lockStands (s : State) (l : Lock) : Bool :=
  match l.leaving with
  | none => true
  | some n => !s.storesBefore l.owner n

/-- The lock that stands on a bank's bit. -/
def State.lockAt (s : State) (c b n : Nat) : Option Lock :=
  (s.core c).locks.find? fun l => decide (l.bank = b) && decide (l.bit = n) && s.lockStands l

/-- A lock taken for a stream. -/
def State.takeLock (s : State) (c b n : Nat) (u : UnitId) (granted : Bool) : State :=
  let k := s.core c
  let rest := k.locks.filter fun l => !(decide (l.bank = b) && decide (l.bit = n))
  s.setCore c { k with locks := rest ++ [⟨b, n, u, (s.stream u).job, granted, none⟩],
                       lockWaiters := k.lockWaiters.filter fun w => decide (w.2.2 ≠ u) }

/-- PERMISSION off a scratchpad frame, LATTICE_TYPE on a lattice page (R137); the core (one of another package under its own
number), bank and bit. -/
def lockPlace (s : State) (x : Access) : M (Nat × Nat × Nat) :=
  if kindOf x.page.pa ≠ 2 ∨ x.page.layout.isSome then fault .permission x.va
  else if x.page.ltype ≠ 0 then fault .latticeType x.va
  else
    let pa := x.pas.getD 0 0
    let (b, n) := lockOf (bits pa 24 0)
    .ok (s.coreKey pa, b, n)

/-- A stream in the line for a lock. -/
def State.joinLock (s : State) (c b n : Nat) : State :=
  let k := s.core c
  if k.lockWaiters.any fun w => decide (w.2.2 = s.cur) then s.waitHere none
  else (s.setCore c { k with lockWaiters := k.lockWaiters ++ [(b, n, s.cur)] }).waitHere none

/-- R138: LOCK_SELF for the stream's own lock or a third one; the lock is taken free, or after LOCK_GRANT; one that was granted is free again
where the load then raises a cause (R130). -/
def execLdlk (d : BitVec 5) (h : BitVec 4) (a : BitVec 5) (z : BitVec 2) (o : BitVec 8) (s : State) :
    Host.Outcome State Fault Refusal :=
  sharedLoad s fun s => do
    notMxTe s
    let x ← access s h (s.smOff a o z) (sizeOf z) false
    let (c, b, n) ← lockPlace s x
    let held := s.locksOf s.cur
    faultIf (held.any fun l => decide (l.1 = c) && decide (l.2.bank = b) && decide (l.2.bit = n)) .lockSelf x.va
    faultIf (decide (2 ≤ held.length)) .lockSelf x.va
    x.go s
    let first := match s.lockAt c b n with
      | some l => decide (l.owner = s.cur) && l.granted
      | none => (s.core c).lockWaiters.all fun w => decide (w.1 ≠ b) || decide (w.2.1 ≠ n) || decide (w.2.2 = s.cur)
    if !first then .error (.wait (s.joinLock c b n))
    let (s, v) ← readNat s x
    let s := (s.takeLock c b n s.cur false).acquireOwn s.self x.page.scope (s.homeReleases x.pas)
    .ok ((s.wg d (dw v)).retire)

/-- R138: a free lock goes to the stream that has waited longest for it. -/
def execLockGrant (core bank bit : Nat) (s : State) : Host.Outcome State Fault Refusal :=
  happen s <|
    match s.lockAt core bank bit with
    | some _ => none
    | none =>
      let waits := fun (w : Nat × Nat × UnitId) => decide (w.1 = bank) && decide (w.2.1 = bit)
        && decide ((s.stream w.2.2).run = .running) && (s.stream w.2.2).waiting.isSome
      ((s.core core).lockWaiters.find? waits).map fun w => s.takeLock core bank bit w.2.2 true

/-- R139: the store of STL; the lock is freed when it is performed, if the stream holds it. Whether it does is decided as the store is
accepted: DESIGN CHOICE, the rule names no moment. -/
def execStul (r : BitVec 5) (h : BitVec 4) (a : BitVec 5) (z : BitVec 2) (o : BitVec 8) (s : State) :
    Host.Outcome State Fault Refusal :=
  shared s fun s => do
    notMxTe s
    let x ← access s h (s.smOff a o z) (sizeOf z) true
    let (c, b, n) ← lockPlace s x
    x.go s
    let holds := (s.locksOf s.cur).any fun l => decide (l.1 = c) && decide (l.2.bank = b) && decide (l.2.bit = n)
    let s ← s.accept x (leBytes (sizeOf z) (s.rg r).toNat) true (if holds then some (c, b, n) else none)
    .ok s.retire

/-! ### AMO (R141) -/

/-- The new value of an AMO: the old one, the operand b, and for CAS the expected value e. -/
def amoNew (op n old b e : Nat) : Nat :=
  match op with
  | 0 => (old + b) % 2 ^ (8 * n)
  | 1 => b
  | 2 => max old b
  | 3 => min old b
  | 4 => old &&& b
  | 5 => old ||| b
  | 6 => old ^^^ b
  | _ => if old = e then b else old

/-- R141: acquire and release, read, modified and written in one step at the home. -/
def execAmo (d : BitVec 5) (h : BitVec 4) (a b : BitVec 5) (p : BitVec 3) (z : BitVec 2) (s : State) :
    Host.Outcome State Fault Refusal :=
  sharedLoad s fun s => do
    notMx s
    if z.toNat < 2 then faultFree .illegal
    let n := sizeOf z
    let x ← access s h (s.rg a).toNat n true
    faultIf (x.page.ltype ≠ 0) .latticeType x.va
    x.go s
    released s
    trackerFree s
    let (s, old) ← readNat s x
    let m := 2 ^ (8 * n)
    let new := amoNew p.toNat n old ((s.rg b).toNat % m) ((s.rg d).toNat % m)
    let (q, s) := (s.acquire s.self (s.homeReleases x.pas)).nextSeq
    let s := (s.perform (x.cells (leBytes n new)) true (s.writer q x true)).acquireOwn s.self x.page.scope Clock.empty
    .ok ((s.wg d (dw old)).retire)

/-! ### The tag table (R142 to R145) -/

/-- Set and tag of a physical address (R142). -/
def tagKey (pa : Nat) : Nat × Nat := (bits pa 19 12, bits pa 47 12)

/-- The way of a table that holds an address. -/
def wayOf (ws : List Way) (pa : Nat) : Option Way :=
  let (st, tg) := tagKey pa
  ws.find? fun w => decide (w.set = st) && decide (w.tag = tg)

/-- The lowest invalid way of a set. -/
def freeWay (ws : List Way) (st : Nat) : Option Nat :=
  (List.range 4).find? fun n => ws.all fun w => !(decide (w.set = st) && decide (w.way = n))

/-- A mapping of an address to a slot in a state, by the command with a place among commands: in the way that holds the tag, else the lowest
invalid way; none where the set is full. -/
def putWay (ws : List Way) (pa slot : Nat) (st : WayState) (by_ : Nat) : Option (List Way) :=
  let (x, tg) := tagKey pa
  match wayOf ws pa with
  | some w => some (ws.map fun v => if v = w then { w with slot := slot, state := st, by_ := by_, clock := none } else v)
  | none => (freeWay ws x).map fun n => ws ++ [⟨x, n, tg, slot, st, by_, none⟩]

/-- R143; a slot that a CFETCH has filled is acquired (R292). -/
def execLookup (d a : BitVec 5) (s : State) : Host.Outcome State Fault Refusal :=
  shared s fun s => do
    let c ← onlyCore s
    match wayOf (s.core c).ways (s.rg a).toNat with
    | some w =>
      if w.state = .valid then
        let s := match w.clock with
          | some k => s.acquire s.self k
          | none => s
        .ok ((s.wg d (dw w.slot)).retire)
      else .ok ((s.wg d (dwi (-2))).retire)
    | none => .ok ((s.wg d (dwi (-1))).retire)

/-- R144. -/
def execTagset (a b : BitVec 5) (s : State) : Host.Outcome State Fault Refusal :=
  shared s fun s => do
    let c ← onlyCore s
    let slot := (s.rg b).toNat
    if 6144 ≤ slot then faultFree .illegal
    match putWay (s.core c).ways (s.rg a).toNat slot .valid s.cmdSeq with
    | some ws => .ok ((s.setCore c { s.core c with ways := ws }).retire)
    | none => fault .illegal (s.rg a)

/-- R144. -/
def execTagclr (a : BitVec 5) (s : State) : Host.Outcome State Fault Refusal :=
  shared s fun s => do
    let c ← onlyCore s
    let slot := (s.rg a).toNat
    if 6144 ≤ slot then faultFree .illegal
    let k := s.core c
    .ok ((s.setCore c { k with ways := k.ways.filter fun w => decide (w.slot ≠ slot) }).retire)

/-! ### DRAIN and FENCE (R146, R147) -/

/-- A destination lies on a memory path (R146): 0 a scratchpad, 1 a veneer, 3 HBM or LPDDR. -/
def onPath (p : Nat) (d : Dest) : Bool :=
  match d with
  | .veneer _ => p = 1
  | .mem pa => if kindOf pa = 2 then p = 0 else p = 3

/-- What a CX command still writes counts in a DRAIN of a path. -/
def CxPart.onPath (f : CxPart) (p : Nat) : Bool :=
  match f.mode with
  | .join _ _ => p = 4
  | .plain => f.dst.any fun x => Machine.onPath p x.1

/-- A CX command that a DRAIN of a path counts. -/
def CxFlight.onPath (f : CxFlight) (p : Nat) : Bool := (f.remote && decide (p = 5)) || f.parts.any fun x => x.onPath p

/-- A stream transfer of a core that a DRAIN of a path counts; one that writes where a walk has not yet told counts in each that it could be. -/
def ScbEntry.onPath (e : ScbEntry) (pkg p : Nat) : Bool :=
  if e.outbound then
    ((xferPages e.record).any fun va => e.found.all fun q => decide (q.1 ≠ va)) && decide (p ≠ 1) && decide (p ≠ 2)
    || e.found.any fun q => match q.2 with
      | .page q => (if q.ltype ≠ 0 then p = 4 else Machine.onPath p (.mem q.pa)) || (p = 5 && decide (pkgOf q.pa ≠ pkg))
      | .away _ => p = 3
      | .fault _ _ => false
  else if bit (wd e.record 2) 8 then p = 1 else p = 0

/-- Every copy into a path that was issued from a core before place n in the order of commands has completed (R146). -/
def State.drained (s : State) (c p n : Nat) : Bool :=
  let k := s.core c
  (k.cx.all fun f => decide (n ≤ f.seq) || f.xfer.isSome || !(f.onPath p || (p = 5 && s.remote f.addrs)))
  && (k.sb.all fun e => decide (n ≤ e.seq)
      || !((e.addrs.any fun pa => onPath p (.mem pa)) || (p = 5 && s.remote e.addrs)))
  && (p ≠ 2 || k.mx.flight.all fun f => decide (n ≤ f.seq) || !f.image)
  && (p ≠ 3 || s.dies.all fun d => d.2.sends.all fun x => decide (n ≤ x.seq) || decide (x.core ≠ c))
  && (p ≠ 5 || s.pending.all fun w => decide (n ≤ w.seq) || decide (w.core ≠ some c) || !s.remote (w.bytes.map (·.1)))
  && s.lcs.all fun l => l.2.scb.all fun e =>
    decide (n ≤ e.order) || decide (e.core ≠ c) || e.kernel.isSome || e.finished || !e.onPath s.pkg p

/-- An agent whose copies a DRAIN of a path counts for a core (R146): its CX, VL and NX streams and stream transfers; for remote stores each
of its streams. -/
def State.drainsAgent (s : State) (c p : Nat) (a : Agent) : Bool :=
  match a with
  | .unit (.eng .cx k) _ => decide (k = c)
  | .unit (.eng .vl k) _ => decide (k = c)
  | .unit (.eng _ k) _ => decide (k = c) && decide (p = 5)
  | .unit (.nx d) _ => decide (d = c / 4) && decide (s.coreOf (.nx d) = c)
  | .xfer k _ _ => decide (k = c)
  | _ => false

/-- The writes that a DRAIN of a path has waited for (R146), byte by byte. -/
def State.drainClock (s : State) (cs : List Nat) (p : Nat) : Clock :=
  s.hist.foldl (fun (k : Clock) e =>
    if cs.any fun c => s.drainsAgent c p e.writer.who then
      k.over ((e.old.map (·.1)).filter fun a => if p = 5 then decide (pkgOf a ≠ s.pkg) else onPath p (.mem a)) (e.seq + 1)
    else k) Clock.empty

/-- R146: the served cores in a control context; the TE stream has no core. The copies counted are those issued before the
DRAIN: while it waits it keeps their bound. -/
def execDrain (p : BitVec 3) (s : State) : Host.Outcome State Fault Refusal :=
  shared s fun s => do
    notMx s
    if 6 ≤ p.toNat then faultFree .illegal
    let cs := match s.cur with
      | .ctx i _ => if i < 16 then [2 * i, 2 * i + 1] else []
      | .te => []
      | u => [s.coreOf u]
    let n := match s.me.waiting with
      | some w => w.limit.getD s.cmdSeq
      | none => s.cmdSeq
    waitUntil (s.waitHere (some n)) (cs.all fun c => s.drained c p.toNat n)
    .ok (s.acquire s.self (s.drainClock cs p.toNat)).retire

/-- What a FENCE of an op waits for (R147): every earlier access; the stores; the loads. -/
def State.fenced (s : State) (op : Nat) : Bool :=
  match op with
  | 0 => s.allPerformed s.cur
  | 1 => s.storesPerformed s.cur
  | _ => match s.cur with
    | .eng .vl c => (s.core c).lq.all (·.filled)
    | _ => true

/-- What a FENCE of an op at a scope orders before what follows it (R147, R302): with op 0 the agent's accesses, and those before earlier
full FENCEs; with op 1 its stores; with op 2 its loads, which are performed when it completes and have shown the agent what they saw. -/
def State.fenceView (s : State) (op scope : Nat) : State :=
  match op with
  | 0 => s.fenceAt s.self scope
  | 1 => s.acquireOwn s.self scope Clock.empty
  | _ => s

/-- R147: the handle supplies its scope; the stream's earlier accesses of the kind are performed before later ones. -/
def execFence (h : BitVec 4) (p : BitVec 3) (s : State) : Host.Outcome State Fault Refusal :=
  shared s fun s => do
    notMx s
    if 3 ≤ p.toNat then faultFree .illegal
    match s.me.hr h with
    | none => fault .handleInvalid (dw h.toNat)
    | some x => match x.state with
      | .pending _ => .error (.wait s)
      | .walkfault c r va _ => .error (.trap ⟨c, some (dw va), .raw r, .none⟩)
      | .valid q =>
        waitUntil s (s.fenced p.toNat)
        .ok (s.fenceView p.toNat q.scope).retire

/-! ### Lattice joins and waits (R149 to R152) -/

/-- LATTICE_TYPE on an untyped page or for another size, MISALIGN for a GCNT64 cell that is not at a multiple of 128; the
access covers the whole cell. -/
def latticeCell (s : State) (h : BitVec 4) (a : BitVec 5) (z : BitVec 2) (write : Bool) : M Access := do
  let off := (s.rg a).toNat
  let x ← access s h off (sizeOf z) write
  faultIf (x.page.ltype = 0 ∨ sizeOf z ≠ accessSize x.page.ltype) .latticeType x.va
  faultIf (x.page.ltype = 7 ∧ off % 128 ≠ 0) .misalign x.va
  let pas ← x.page.addrs (siteOf s.cur) off (if x.page.ltype = 7 then 128 else sizeOf z)
  let y := { x with pas := pas }
  y.go s
  .ok y

/-- R150: a release, joined at the executing site's replica in one step; a GCNT64 cell by adding, saturating, to the
site's slot. -/
def execLjoin (h : BitVec 4) (a b : BitVec 5) (z : BitVec 2) (s : State) : Host.Outcome State Fault Refusal :=
  shared s fun s => do
    notMx s
    let x ← latticeCell s h a z true
    released s
    trackerFree s
    let site := siteOf s.cur
    let n := sizeOf z
    if x.page.ltype = 7 then
      let slot := x.pas.getD (8 * site) 0
      let (s, old) := s.cellNat x.page.hash slot 8
      let (q, s) := s.nextSeq
      .ok ((s.setCell x.page (s.writer q x true) site slot 8 old (min (old + (s.rg b).toNat) (2 ^ 64 - 1))).retire)
    else
      let pa := x.pas.getD 0 0
      let (s, old) := s.cellNat x.page.hash pa n
      let new := join x.page.ltype old ((s.rg b).toNat % 2 ^ (8 * n))
      let (q, s) := s.nextSeq
      .ok ((s.setCell x.page (s.writer q x true) site pa n old new).retire)

/-- The value of a cell for LWAIT (R151), and whether it has reached a threshold. -/
def State.cellReached (s : State) (x : Access) (n thr : Nat) : State × Bool × Nat :=
  if x.page.ltype = 7 then
    let (s, bs) := s.cellBytes x.page.hash x.pas
    let v := slotSum bs
    (s, decide (thr ≤ v), min v (2 ^ 64 - 1))
  else
    let (s, v) := s.cellNat x.page.hash (x.pas.getD 0 0) n
    (s, geq x.page.ltype v (thr % 2 ^ (8 * n)), v)

/-- The tick at which an LWAIT times out: PCYC as it was issued plus WTO (R151). -/
def State.waitLimit (s : State) : Option Nat :=
  match s.me.waiting with
  | some w => w.limit
  | none => if s.me.wto = 0 then none else some (s.tick + s.me.wto.toNat)

/-- The wait of an LWAIT: its timeout counts from the issue, whatever it waits for. -/
def keepLimit (limit : Option Nat) (r : M State) : M State :=
  match r with
  | .error (.wait t) => .error (.wait (if t.me.run = .running then t.waitHere limit else t))
  | r => r

/-- R151, R152: completes at the threshold or the timeout, and acquires the joins that the value includes; while it waits it is a
stop point of a pending pre-emption. -/
def lwait (s : State) (d : BitVec 5) (h : BitVec 4) (a b : BitVec 5) (z : BitVec 2) : M State :=
  let limit := s.waitLimit
  keepLimit limit do
    notMx s
    let x ← latticeCell s h a z false
    let (s, _) ← readPas s (some x.page.hash) x.pas fun _ => x.va
    let (s, r, v) := s.cellReached x (sizeOf z) (s.rg b).toNat
    let expired := match limit with
      | some t => decide (t ≤ s.tick)
      | none => false
    if r || expired then .ok (((s.acquireOwn s.self x.page.scope (s.joinsOf s.self x.pas)).wg d (dw v)).retire)
    else
      .error (.wait (if s.cutPending s.cur then s.setMe { s.me with run := .parked (.stop 0xFFFFFF false), waiting := none } else s))

def execLwait (d : BitVec 5) (h : BitVec 4) (a b : BitVec 5) (z : BitVec 2) (s : State) :
    Host.Outcome State Fault Refusal :=
  sharedLoad s fun s => lwait s d h a b z

/-- R151: WTO expires for a stream or context that waits in an LWAIT, which then completes with the cell's value. -/
def execLwaitTimeout (u : UnitId) (s : State) : Host.Outcome State Fault Refusal :=
  let x := s.stream u
  let expired := match x.waiting with
    | some w => (match w.limit with
      | some t => decide (t ≤ s.tick)
      | none => false)
    | none => false
  if expired && s.mayRun u then
    match decode u.half x.word with
    | .ok (.lwait d h a b z) =>
      sharedLoad { s with cur := u } fun t => lwait t d h a b z
    | _ => .next s
  else .next s

/-! ### WINFO (R153) -/

/-- R153: what the watch trigger that spawned the job left; 0 in any other job. -/
def execWinfo (d : BitVec 5) (f : BitVec 1) (s : State) : Host.Outcome State Fault Refusal :=
  shared s fun s => do
    let _ ← onlyCore s
    let v := match s.jobOf s.cur with
      | some jb => (match jb.origin with
        | .watch _ _ _ => if f = 0 then dw jb.pend else jb.lastVa
        | _ => 0)
      | none => 0
    .ok ((s.wg d v).retire)

/-! ### TRD (R154) -/

/-- Bytes at offsets of a page that is already checked, read by the executing unit as a plain load reads them; EINFO is the VA of the
first. -/
def readOffs (s : State) (p : Page) (offs : List Nat) : M (State × List Byte) := do
  let e := dw (p.va + offs.headD 0)
  let pas ← offs.mapM fun o => match p.byte (siteOf s.cur) o with
    | some pa => .ok pa
    | none => fault .handleBound (dw (p.va + o))
  reach s pas e (some p.hash)
  readPlain s (some p) pas fun _ => e

/-- n bytes at an offset of such a page. -/
def readPage (s : State) (p : Page) (off n : Nat) : M (State × List Byte) := readOffs s p ((List.range n).map (off + ·))

/-- The image header at an offset of a page, checked by R53: FORMAT names it. -/
def readTcwHeader (s : State) (p : Page) (off : Nat) : M (State × TcwHeader) := do
  let (s, hd) ← readPage s p off 64
  match tcwHeader (wordsOf hd 16) with
  | .error f => faultAt .format (dw (p.va + off)) 4 f
  | .ok x => .ok (s, x)

/-- The value of weight k of a block at an offset of a page, whose image stands at o: the bytes of its window and its entry of TBL are
read (R51, R154). -/
def readWeight (s : State) (p : Page) (hd : TcwHeader) (o ob k : Nat) : M (State × Int) := do
  let q := k / hd.mode.g
  let (s, bs) ← readOffs s p ((windowBytes hd.mode q).map (ob + 4 + ·))
  let w := windowOf hd.mode q bs
  let j := k % hd.mode.g
  if hd.table then
    let (s, e) ← readPage s p (o + 64 + bits (windowHash w j) 15 8) 1
    .ok (s, sextInt (e.headD 0).toNat 8)
  else .ok (s, windowValue none w j)

/-- R154. EINFO of the HANDLE_BOUND for the block is its VA: DESIGN CHOICE, the rule states none there. -/
def execTrd (d : BitVec 5) (h : BitVec 4) (a b : BitVec 5) (s : State) : Host.Outcome State Fault Refusal :=
  sharedLoad s fun s => do
    notMx s
    let v := s.rg b
    faultIf (dbits v 63 48 ≠ 0) .format v
    let o := (s.rg a).toNat
    let (_, p) ← handle s h o 64 false true
    lining s
    let (s, hd) ← readTcwHeader s p o
    let k := dbits v 23 0
    let n := dbits v 47 24
    faultIf (decide (hd.k ≤ k) || decide (hd.n ≤ n)) .format v
    let ob := o + hd.blockAt n (k / 256)
    faultIf (2 ^ p.bits < ob + hd.mode.bytes) .handleBound (dw (p.va + ob))
    let (s, scale) ← readPage s p ob 4
    let sw := leNat scale
    if bits sw 31 20 ≠ 0 then faultAt .format (dw (p.va + ob)) 4 0
    let (s, w) ← readWeight s p hd o ob (k % 256)
    .ok ((s.wg d (dw (scaleOf sw (k % 256) * 2 ^ 32 + unsignedOf w 32))).retire)

end Sys2Proof.Machine
end

