-- ==== Sys2Proof/Machine/Sched.lean ====
section
/-!
DEFINITION. The stream controllers (spec/12_scheduling_job_cards.md R324 to R331; spec/09_streams_tokens_timing.md R274, R275,
R284, R285, R289; spec/08_control_core.md R270): ready cards, issue, job start and completion, switch points, deadlines,
reported causes, purses, hold notices.
-/

namespace Sys2Proof.Machine

/-! ### Ready (R324) -/

/-- Every transfer of LCi that a card names has finished inbound, or is held no more (R261). A kernel's entry that has since
taken a named id is no transfer (log entry 34). -/
def State.xfersDone (s : State) (i : Nat) (c : List Word) : Bool :=
  ((s.lc i).xfersOf c).all fun e => e.kernel.isSome || (e.finished && decide (e.cause = 0))

/-- The threshold test of a lattice-wait card at the site of a die (R324), on the cell's low bytes as LWAIT reads them. -/
def State.thresholdMet (s : State) (j : Job) : Bool :=
  match j.cellPage with
  | none => true
  | some p =>
    let va := cardCell j.words
    let thr := cardThresh j.words
    match (List.range (cellSize p.ltype)).mapM fun i => p.byte (j.lowCore / 4) (va - p.va + i) with
    | none => false
    | some pas =>
      let bs := (s.cellBytes p.hash pas).2
      if p.ltype = 7 then decide (thr ≤ slotSum bs) else geq p.ltype (leNat bs) (thr % 2 ^ (8 * accessSize p.ltype))

/-- The job of a kernel's scoreboard entry. -/
def State.kernelAt (s : State) (i ix : Nat) : Option (Nat × Job) :=
  match (s.lc i).scb.find? fun e => decide (e.ix = ix) with
  | none => none
  | some e => match e.kernel with
    | none => none
    | some n => (s.job? n).map fun j => (n, j)

/-- A submitted kernel becomes ready now; one that names a transfer which failed never does (R259). -/
def State.readyNow (s : State) (lc : Nat) (j : Job) : Bool :=
  !j.ready && j.unissued && !j.ending && !j.barred && s.xfersDone lc j.words && s.thresholdMet j

/-- R324: a submitted kernel becomes ready. `pos` is the index of its scoreboard entry. -/
def execCardReady (lc pos : Nat) (s : State) : Host.Outcome State Fault Refusal :=
  happen s <|
    match s.kernelAt lc pos with
    | none => none
    | some (n, j) =>
      if s.readyNow lc j then
        some ((s.setJob n { j with ready := true, readyTick := s.tick }).setCard j.card
          { s.card j.card with state := .ready })
      else none

/-! ### Job start (R274, R275) -/

/-- The engines of a card on a core: NX only on the lowest of its cores on the die. -/
def engineUnits (j : Job) (c : Nat) : List UnitId :=
  let cs := (j.insts.map (·.core)).filter fun x => decide (x / 4 = c / 4)
  ((setBits 5 (cardEngines j.words)).filterMap fun e => (coreUnits c)[e]?).filter fun u =>
    match u with
    | .nx _ => decide (minBy id cs = some c)
    | _ => true

/-- The units whose earlier jobs a start on a core waits for (R274): those that the card's mask names, but for an NX that runs this
job already. -/
def State.waitUnits (s : State) (n : Nat) (j : Job) (c : Nat) : List UnitId :=
  ((setBits 5 (cardEngines j.words)).filterMap fun e => (coreUnits c)[e]?).filter fun u =>
    match u with
    | .nx _ => decide ((s.stream u).job ≠ some n)
    | _ => true

/-- A job has a running stream on a core. -/
def State.liveOn (s : State) (n c : Nat) : Bool := (s.jobUnits n c).any fun u => (s.stream u).run.live

/-- No command of an earlier job is unfinished on a unit (R274); a store of VL that gets no data any more is none (R186, R289). -/
def State.idleUnit (s : State) (u : UnitId) : Bool :=
  !(s.stream u).run.live && (s.stream u).queued.isNone
  && (match u with
    | .eng .cx c => (s.core c).cx.all (·.xfer.isSome)
    | .eng .vl c => ((s.core c).sb.all fun e => e.data.isNone && !s.liveOn e.job c) && (s.core c).lq.all (·.filled)
        && (s.core c).vlPushes.isEmpty
    | .eng .mx c => (s.core c).mx.flight.isEmpty
    | .nx d => (s.die d).sends.isEmpty && (s.die d).route.isNone
    | _ => true)

/-- Every token queue between two engine endpoints of the units is empty. -/
def State.tokensClear (s : State) (c : Nat) (us : List UnitId) : Bool :=
  us.all fun u => us.all fun v =>
    let q := (s.core c).queue u.endpoint v.endpoint
    q.toks.isEmpty && q.squash.isEmpty && decide (q.reserved = 0)

/-- The first job of a core's queue that has not started on it. -/
def State.headJob (s : State) (c : Nat) : Option (Nat × Job × Inst) :=
  (s.core c).jobq.findSome? fun n => (s.job? n).bind fun j =>
    (j.insts.find? fun i => decide (i.core = c) && (match i.state with
      | .queued => true
      | .saved _ => true
      | _ => false)).map fun i => (n, j, i)

/-- A re-allotment or a permit boundary of this tick has not been made (R310, R313): what is granted at the tick is not known yet. -/
def State.grantsDue (s : State) : Bool :=
  periodDue s.tick 13600 s.served.reallot || s.served.boundary.toList.any (periodDue s.tick 6800)

/-- The head of a core's queue, when it starts now (R274). -/
def State.startable (s : State) (c : Nat) : Option (Nat × Job × Inst) :=
  match s.headJob c with
  | none => none
  | some (n, j, i) =>
    let us := (setBits 5 (cardEngines j.words)).filterMap fun e => (coreUnits c)[e]?
    if !s.grantsDue && (s.waitUnits n j c).all s.idleUnit && s.tokensClear c us && !(s.core c).gated
        && decide ((s.core c).cut.all fun x => x = n) then
      some (n, j, i)
    else none

/-- The entries of engine e of a card at a start (R276): the PC and the job loop. -/
def startLoopOf (c : List Word) (e : Nat) : DWord × Option JobLoop :=
  let p := cardEntry c e 0
  let k := cardEntry c e 1
  let jl : Option JobLoop := if k = absent then none
    else some ⟨cardTrip c, dw k, dw (cardEntry c e 2), false, 0, false⟩
  (dw (if p = absent then k else p), jl)

/-- A stream at its start (R275). -/
def startStream (n : Nat) (j : Job) (i : Inst) (c e : Nat) : Stream :=
  let (pc, jl) := startLoopOf j.words e
  let arg := dw (cardArgs j.words + 64 * i.index)
  { Stream.reset with
    run := .running, job := some n, core := c, root := j.root, pc := pc, jl := jl,
    g := Stream.reset.g.set 1 arg, gen := BitVec.ofNat 8 (cardGen j.words) }

/-- MX at a stream start (R158, R275): PI 1, TBL zero, descriptors and buffers undefined (log entry 4). -/
def startMx (seed tick : Nat) : MxState where
  td := Vector.ofFn fun (k : Fin 16) => Config.freeTile seed k.val
  tref := tick + 64
  pi := 1
  tbl := []
  acc0 := { Acc.reset with base := .undef seed false, mark := (Config.freeMark seed false).map (· % 517) }
  acc1 := { Acc.reset with base := .undef seed true, mark := (Config.freeMark seed true).map (· % 517) }
  flight := []

/-- VE at a stream start (R71): vectors undefined (log entry 4), mask stack empty. -/
def startVe (seed : Nat) : VeState := ⟨Vector.ofFn fun (k : Fin 31) => Config.freeVec seed k.val, []⟩

/-- The stores of VL on a core that got no data and will get none are discarded: their pushes are not made (R186, R289). -/
def State.dropUnfed (s : State) (c : Nat) (gone : SbEntry → Bool) : State :=
  let out := fun (e : SbEntry) => e.data.isNone && gone e
  let s' := ((s.core c).sb.filter out).foldl (fun s e => s.unreserve c .vl e.pushes) s
  s'.setCore c { s'.core c with sb := (s.core c).sb.filter fun e => !out e }

/-- A core takes the level that is granted at a job-issue tick (R275); a forced drop in progress and a stretch stay (R315). -/
def Core.startLevel (k : Core) (tick : Nat) : Core :=
  { k with level := k.grant,
           profileDue := if k.level = k.grant then k.profileDue else 10 * tick + 4096 * cycleLen k.grant }

/-- What a core holds for the units that start: the engines' registers; LQ and SQ empty, but for loads not yet filled, which are their own
job's, where no other job's stream uses them (R290). -/
def Core.startFor (k : Core) (us : List UnitId) (seed tick : Nat) (shared : Bool) : Core :=
  let has := fun (h : Half) => us.any fun u => decide (u.half = h)
  let clear := (has .vl || has .ve) && !shared
  { k with ve := if has .ve then startVe seed else k.ve,
           mx := if has .mx then startMx seed tick else k.mx,
           lq := if clear then k.lq.filter fun e => !e.filled else k.lq,
           sq := if clear then [] else k.sq }

/-- Whether VL or VE of a core runs for another job. -/
def State.pairShared (s : State) (n c : Nat) : Bool :=
  [UnitId.eng .vl c, .eng .ve c].any fun u => (s.stream u).run.live && decide ((s.stream u).job ≠ some n)

/-- Dies on which a core runs at dense are marked until their next refill (R312). -/
def State.denseNow (s : State) (c : Nat) : Bool := decide ((s.core c).level = 3) && s.activeOn c

def State.markDense (s : State) (c : Nat) : State :=
  if s.denseNow c then s.setDie (c / 4) { s.die (c / 4) with denseSince := true } else s

/-- The read-only path of a core is made coherent (R306). -/
def State.coherentRo (s : State) (c : Nat) : State := s.setCore c { s.core c with roFloor := s.histNow }

/-- What the first instruction of each stream of a job acquires (R271), with what the inbound transfers that a kernel names have written:
DEDUCED from R324, which has it wait for them (log entry 69). -/
def State.startClock (s : State) (j : Job) : Clock :=
  match j.origin with
  | .krun i _ _ => (List.range 8).foldl (fun (k : Clock) q =>
      match Tab.find? s.works (.inbound i (cardXfer j.words q)) with
      | some x => k.join x
      | none => k) j.clock
  | _ => j.clock

/-- A job's instance starts on a core (R274, R275). -/
def State.startInst (s : State) (n : Nat) (j : Job) (i : Inst) : State :=
  let c := i.core
  let us := engineUnits j c
  let (seed, s) := s.draw
  let s := s.coherentRo c
  let s := s.setCore c ((s.core c).startLevel s.tick)
  let s := if us.any fun u => decide (u.half = .vl ∨ u.half = .ve) then s.dropUnfed c fun e => !s.liveOn e.job c else s
  let s := s.setCore c ((s.core c).startFor us seed s.tick (s.pairShared n c))
  let s := us.foldl (fun s u =>
    (s.setStream u (startStream n j i c ((findIdx (fun v => decide (v = u)) (coreUnits c)).getD 0))).freshView (.unit u n) (s.startClock j)) s
  let s := if us.any fun u => decide (u.half = .nx) then s.setDie (c / 4) { s.die (c / 4) with route := none } else s
  let insts := j.insts.map fun x => if x.core = c then { x with state := .running, start := s.tick } else x
  let s := (s.setJob n { j with insts := insts, started := true }).markDense c
  if j.origin.isCopy then s else s.setCard j.card { s.card j.card with state := .running }

/-! ### Completion (R289, R270) -/

/-- A card's slot is released (R323). -/
def State.releaseCard (s : State) (id : Nat) : State :=
  s.setCard id { s.card id with state := .empty, tokens := 0 }

/-- A completion entry (R270). -/
def doneWord (cause card tick : Nat) : DWord := dw (2 ^ 63 + cause * 2 ^ 48 + card * 2 ^ 32 + tick % 2 ^ 32)

/-- The scoreboard entry of a kernel finishes with a status (R260, R262). -/
def State.finishKernel (s : State) (i ix cause : Nat) : State :=
  let f := fun (e : ScbEntry) => if e.ix = ix then { e with finished := true, cause := cause } else e
  (s.setLc i { s.lc i with scb := (s.lc i).scb.map f }).sweepScb i

/-- What a job that completed, or ended with a cause, leaves for its poster (R270): an entry in the FIFO of its lowest
core where the poster serves it, the kernel's status; its card slot is released with the entry, or at once. -/
def State.reportJob (s : State) (n : Nat) (j : Job) : State :=
  let low := j.lowCore
  let entry := fun (s : State) (i : Nat) =>
    if serves i low then
      s.setCore low { s.core low with doneWait := (s.core low).doneWait ++ [(j.card, n, doneWord j.cause j.card s.tick)] }
    else s.releaseCard j.card
  let s := s.dropSlots fun y => decide (y.job = some n) && !y.ending
  let s := { s with jobs := Tab.erase s.jobs n,
                    cores := s.cores.map fun kc => (kc.1, { kc.2 with cut := kc.2.cut.filter fun x => decide (x ≠ n) }) }
  match j.origin with
  | .post i _ => entry s i
  | .krun i _ ix => entry (s.finishKernel i ix j.cause) i
  | o => if o.isCopy then s else s.releaseCard j.card

/-- Whether an instance's work on a core is all done (R289): its streams have halted, its commands have finished but for stores of VL
that got no data, the tracker holds none of its entries. -/
def State.instDone (s : State) (n c : Nat) : Bool :=
  (s.jobUnits n c).all (fun u => !(s.stream u).run.live && (s.stream u).queued.isNone)
  && !s.trackerHas c n
  && ((s.core c).cx.all fun f => f.xfer.isSome || decide (f.job ≠ n))
  && ((s.core c).lq.all fun e => e.filled || decide (e.job ≠ n))
  && ((s.core c).vlPushes.all fun e => decide (e.job ≠ n))
  && ((s.core c).mx.flight.all fun f => decide (f.job ≠ n))
  && ((s.die (c / 4)).sends.all fun x => !(decide (x.core = c) && decide (x.job = n)))
  && ((s.die (c / 4)).route.all fun r => !(decide (r.core = c) && decide (r.job = n)))

/-- The queues of a job on a core emptied (R289, R347): tokens between its engine endpoints, what is left of it in LQ, SQ and SB; what
another job that runs there uses is not touched. -/
def State.clearQueues (s : State) (n c : Nat) (j : Job) : State :=
  let mine := (setBits 5 (cardEngines j.words)).filterMap fun e => (coreUnits c)[e]?
  let newer := (coreUnits c).filter fun u => (s.stream u).run.live && decide ((s.stream u).job ≠ some n)
      && decide (s.coreOf u = c)
  let ends := mine.map UnitId.endpoint
  let used := newer.map UnitId.endpoint
  let pairs := ends.flatMap fun p => ends.filterMap fun e =>
    if used.contains p && used.contains e then none else some (p, e)
  let s := s.dropUnfed c fun e => decide (e.job = n)
  let k := s.core c
  let k := { k with tokens := pairs.foldl (fun t pe => Tab.erase t pe) k.tokens,
                    lq := k.lq.filter fun e => decide (e.job ≠ n),
                    sq := if used.contains .vl || used.contains .ve then k.sq else [] }
  s.setCore c k

/-- What a completion clears on a core (R289): the job's queues, and the locks that its streams there hold. -/
def State.clearFor (s : State) (n c : Nat) (j : Job) : State :=
  let s := s.clearQueues n c j
  { s with cores := s.cores.map fun kc => (kc.1, { kc.2 with
    locks := kc.2.locks.filter fun l => !(decide (l.job = some n) && decide (s.coreOf l.owner = c)) }) }

/-- What a job's streams on a core release at its completion there, for those that learn of its end (R271, R289). -/
def State.endWorks (s : State) (n c : Nat) (j : Job) : State :=
  let k := (coreUnits c).foldl (fun (k : Clock) u => k.join (s.releaseNow (.unit u n))) Clock.empty
  let s := s.endWork (.job n) k
  match j.origin with
  | .krun i _ _ => s.endWork (.kernel i j.card) k
  | _ => s

/-- R289, R355: the job completes on a core; when it has on all, its poster is told and its card released. -/
def execJobComplete (core job : Nat) (s : State) : Host.Outcome State Fault Refusal :=
  happen s <|
    match s.job? job with
    | none => none
    | some j =>
      if (j.insts.any fun i => decide (i.core = core) && decide (i.state = .halted)) && s.instDone job core then
        let s := (s.clearFor job core j).endWorks job core j
        let insts := j.insts.map fun i => if i.core = core then { i with state := .completed } else i
        let j := { j with insts := insts }
        let s := s.setJob job j
        some (if insts.all fun i => decide (i.state = .completed) then s.reportJob job j else s)
      else none

/-- R270: an entry that waits goes into the FIFO when there is room, and the card slot is released. -/
def execCompletionEntryAppend (core : Nat) (s : State) : Host.Outcome State Fault Refusal :=
  let k := s.core core
  happen s <|
    match k.doneWait with
    | [] => none
    | (card, n, w) :: ws =>
      if k.done.length < 64 then
        some ((s.setCore core { k with done := k.done ++ [(n, w)], doneWait := ws }).releaseCard card)
      else none

/-! ### Switch points (R111, R284, R285) -/

/-- MX of a core is quiescent (R284): no occupancy runs and both buffers are final. -/
def State.mxQuiet (s : State) (c : Nat) : Bool :=
  let m := (s.core c).mx
  m.flight.isEmpty && decide (m.acc0.final ≤ s.now) && decide (m.acc1.final ≤ s.now)

/-- The switch point at which every running stream of a job on a core stands (R284). -/
def State.atSwitch (s : State) (j c : Nat) : Option Nat :=
  let us := (s.jobUnits j c).filter fun u => (s.stream u).run.live
  match us with
  | [] => none
  | u :: _ => match (s.stream u).run with
    | .parked (.swpt n) =>
      if us.all fun v => decide ((s.stream v).run = .parked (.swpt n)) then some n else none
    | _ => none

/-- The job whose switch point releases on a core now: at a multiple of 12 ticks (R284), after a forced drop in progress
(R315), at the level granted at the tick (R310). -/
def State.switchDue (s : State) (c : Nat) : Option (Nat × Nat) :=
  if s.now % 120 ≠ 0 ∨ !s.mxQuiet c ∨ !(s.core c).drops.isEmpty ∨ s.grantsDue then none
  else (s.core c).jobq.findSome? fun j => (s.atSwitch j c).map fun n => (j, n)

/-- The forced tick of a core's fall, where it has come and no switch point ends the fall now (R314); another drop in progress does not hold
it up. -/
def State.fallDue (s : State) (c : Nat) : Option Nat :=
  let k := s.core c
  let from_ := (k.drops.getLast?.map (·.level)).getD k.level
  (k.fallFrom.map (· + 3400)).filter fun f => decide (f ≤ s.tick) && decide (k.grant < from_) && (s.switchDue c).isNone

/-- The rail of a level (R309). -/
def railOf (level : Nat) : Bool := decide (2 ≤ level)

/-- A core takes a level at a tick (R284, R315): on a change of rail no engine executes for 32 ticks; on a change of level the cycles
to the next sample count afresh (R317). -/
def Core.takeLevel (k : Core) (level now : Nat) : Core :=
  { k with level := level, railHold := if railOf k.level = railOf level then k.railHold else now + 320
           mx := { k.mx with tref := now / 10 + 64 }
           profileDue := if k.level = level then k.profileDue else now + 4096 * cycleLen level }

/-- A stream that stands at a switch point leaves it by its own schedule-table entry (R111, R285): FORMAT, EINFO n, where the entry is
not there or is malformed. -/
def State.switchStream (s : State) (u : UnitId) (tab n level : Nat) : State :=
  let x := s.stream u
  if x.run ≠ .parked (.swpt n) then s else
  let a := 1024 * tab + 16 * n + 4 * (level - 1)
  let w := (s.imemWord u.imem a).toNat
  let x := { x with swptArrivals := Tab.set x.swptArrivals n (Tab.get x.swptArrivals n 0 + 1) }
  if 16 * Tab.get s.imlim u.imem 0 ≤ a ∨ !bit w 31 ∨ bits w 30 17 ≠ 0 ∨ w % 4 ≠ 0 then
    let s := s.setStream u { x with run := .running }
    takeTrap { s with cur := u } ⟨.format, some (dw n), .std 0 0, .none⟩
  else s.setStream u { x with run := .running, pc := dw (bits w 16 0), waiting := none }

/-- R284. -/
def execSwitchPointRelease (core : Nat) (s : State) : Host.Outcome State Fault Refusal :=
  happen s <|
    match s.switchDue core with
    | none => none
    | some (j, n) =>
      let k := s.core core
      let level := k.grant
      let s := s.setCore core { k.takeLevel level s.now with stretch := none, fallFrom := none }
      let tab := match s.job? j with
        | some jb => cardSched jb.words
        | none => 0
      let us := (s.jobUnits j core).filter fun u => (s.stream u).run.live
      some ((us.foldl (fun s u => s.switchStream u tab n level) (s.meet us 0)).markDense core)

/-! ### Deadlines, reported causes, purses (R81, R330, R331) -/

/-- A reported cause owed to a context. -/
def State.owe (s : State) (i : Nat) (k : Ctx) (o : Owed) : State :=
  let x := s.lc i
  s.setLc i (match k with
    | .l => { x with owedL := x.owedL ++ [o] }
    | .c => { x with owedC := x.owedC ++ [o] }
    | .s => { x with owedS := x.owedS ++ [o] })

/-- The EWORD of DEADLINE_MISS (R331). -/
def missWord (d phase iter : Nat) : DWord := dw (d % 2 ^ 32 * 2 ^ 32 + phase * 2 ^ 24 + min iter (2 ^ 24 - 1))

/-- The latest start of a kernel that has not issued has come. -/
def State.withdrawNow (s : State) (j : Job) : Bool := j.unissued && !j.ending && decide (j.deadline - j.est ≤ s.tick)

/-- D of a kernel that was issued and has not been reported has come; a forced drop on one of its cores that is in progress, or begins at this
tick, will replace it (R316). -/
def State.missNow (s : State) (j : Job) : Bool :=
  !j.missed && !j.unissued && decide (j.cause = 0) && decide (j.deadline ≤ s.tick)
  && !(j.insts.any fun i => (decide (i.state = .running) || decide (i.state = .halted))
    && (((s.core i.core).drops.map (·.tick)) ++ (s.fallDue i.core).toList).any fun f => decide (f ≤ j.deadline))

/-- R331: at its latest start a kernel that has not issued is withdrawn. `pos` is its scoreboard index. -/
def execKernelWithdrawal (lc pos : Nat) (s : State) : Host.Outcome State Fault Refusal :=
  happen s <|
    match s.kernelAt lc pos with
    | none => none
    | some (n, j) =>
      match j.origin with
      | .krun i k ix =>
        if s.withdrawNow j then
          let s := { s with jobs := Tab.erase s.jobs n }
          let s := (s.finishKernel i ix Cause.deadlineMiss.code).releaseCard j.card
          some (s.owe i k ⟨.deadlineMiss, dw j.card, missWord j.deadline 0 0⟩)
        else none
      | _ => none

/-- R331: a kernel that was issued and has not completed by D is reported, once. -/
def execDeadlineMissReport (job : Nat) (s : State) : Host.Outcome State Fault Refusal :=
  happen s <|
    match s.job? job with
    | none => none
    | some j =>
      match j.origin with
      | .krun i k _ =>
        if s.missNow j then
          let started := j.insts.any fun x => decide (x.state ≠ .queued) && decide (x.state ≠ .waiting)
          let w := if started then missWord j.deadline 2 (s.turnsOf job j) else missWord j.deadline 1 0
          some ((s.setJob job { j with missed := true }).owe i k ⟨.deadlineMiss, dw j.card, w⟩)
        else none
      | _ => none

/-- The oldest cause owed to a context leaves. -/
def State.dropOwed (s : State) (i : Nat) (k : Ctx) : State :=
  let x := s.lc i
  s.setLc i (match k with
    | .l => { x with owedL := x.owedL.drop 1 }
    | .c => { x with owedC := x.owedC.drop 1 }
    | .s => { x with owedS := x.owedS.drop 1 })

/-- R81: at the context's next instruction boundary; ASYNC is 1 and EPC the first instruction not yet executed. -/
def execReportedCauseDelivery (lc : Nat) (k : Ctx) (s : State) : Host.Outcome State Fault Refusal :=
  let u := UnitId.ctx lc k
  let x := s.stream u
  happen s <|
    match s.owed lc k with
    | [] => none
    | o :: _ =>
      if x.run = .running ∧ x.waiting.isNone then
        some ((s.dropOwed lc k).raise u o.cause.code true x.pc o.einfo o.eword)
      else none

/-- R330: every purse below the cap gains one token. -/
def execPurseEarn (s : State) : Host.Outcome State Fault Refusal :=
  let rate := max 1 s.ports.purseRate.toNat
  happen s <|
    if periodDue s.tick rate s.served.purse then
      let up := fun (n : Nat) => if n < s.ports.purseCap.toNat then n + 1 else n
      let f := fun (s : State) (i : Nat) =>
        let x := s.lc i
        s.setLc i { x with purseL := up x.purseL, purseC := up x.purseC, purseS := up x.purseS }
      let s := { s with served := { s.served with purse := s.tick / rate * rate } }
      some ((List.range 18).foldl f s)
    else none

/-! ### Notices (R336, R338, R355) -/

/-- The notice of a taken slot (R338). -/
def noticeOf (y : Saved) : DWord :=
  let ctx := match y.unit with
    | .ctx _ k => k.num
    | _ => 3
  let c := y.cause.toNat
  dw (2 ^ 63 + bits c 7 0 * 2 ^ 48 + y.slot * 2 ^ 40 + b2n y.double * 2 ^ 39 + bits c 8 8 * 2 ^ 38 + ctx * 2 ^ 36
    + bits c 15 12 * 2 ^ 32 + y.code % 256 * 2 ^ 24 + y.card % 2 ^ 16)

/-- R336: the notice of a hold, or of an ended job's record, goes into the fault queue when there is room. -/
def execHoldNoticePost (u : UnitId) (s : State) : Host.Outcome State Fault Refusal :=
  happen s <|
    match s.saved.find? fun y => decide (y.unit = u) && !y.noticed && decide (y.kind = 1 ∨ y.kind = 3) with
    | none => none
    | some y =>
      if s.faultq.length < 256 then
        let mark := fun (z : Saved) => if z.slot = y.slot ∧ z.unit = u then { z with noticed := true } else z
        some { s with faultq := s.faultq ++ [noticeOf y], saved := s.saved.map mark }
      else none

end Sys2Proof.Machine
end

