-- ==== Sys2Proof/Machine/Cx.lean ====
section
/-!
DEFINITION. The copy engine (spec/07_copy_network_trellis_engines.md R222 to R235): places, staging, copies, fills, the encoder
stage, remote copies, slots, the finish of commands, and stream transfers.
-/

namespace Sys2Proof.Machine

/-! ### Places (R222) -/

/-- A place whose region has passed its checks: space, root and page for space 0, offset, the executing package. -/
structure Place where
  space : Nat
  page : Option (Nat × Page)
  off : Nat
  own : Nat

/-- The offset in a place's register. -/
def placeOff (v : DWord) : Nat := dbits v 39 0

/-- The auxiliary field. -/
def placeAux (v : DWord) : Nat := dbits v 63 40

/-- ILLEGAL for an auxiliary field that must be 0. -/
def noAux (v : DWord) : M Unit := faultIf (placeAux v ≠ 0) .illegal v

/-- The length in an auxiliary field: ILLEGAL above 65,536. -/
def lengthOf (v : DWord) : M Nat := if 65536 < placeAux v + 1 then fault .illegal v else .ok (placeAux v + 1)

/-- The offset limit of spaces 1 and 2. -/
def spaceSize (space : Nat) : Nat := if space = 1 then scratchSize else veneerSize

/-- A region of a place checked. -/
def openPlace (s : State) (space : BitVec 2) (h : BitVec 4) (off len : Nat) (write : Bool) : M Place := do
  if space = 0 then
    let (x, p) ← handle s h off len write false
    .ok ⟨0, some (x.root, p), off, s.pkg⟩
  else
    faultIf (spaceSize space.toNat < off + len) .handleBound (dw off)
    .ok ⟨space.toNat, none, off, s.pkg⟩

/-- The size of a place. -/
def Place.limit (p : Place) : Nat :=
  match p.page with
  | some (_, q) => 2 ^ q.bits
  | none => spaceSize p.space

/-- The VA or the offset by which EINFO names a byte of a place. -/
def Place.name (p : Place) (o : Nat) : DWord :=
  match p.page with
  | some (_, q) => dw (q.va + o)
  | none => dw o

/-- The HASH of a place's page. -/
def Place.hash (p : Place) : Option Nat := p.page.map (·.2.hash)

/-- Where bytes of a place lie, for a command at a site and on a core. -/
def Place.dests (p : Place) (site core : Nat) (offs : List Nat) : M (List Dest) :=
  match p.page with
  | some (_, q) => offs.mapM fun o => match q.byte site o with
    | some pa => .ok (.mem pa)
    | none => fault .handleBound (dw (q.va + o))
  | none => .ok (offs.map fun o => if p.space = 1 then .mem (scratchPa p.own core o) else .veneer o)

/-- LATTICE_TYPE for a run that is not made of whole cells of a lattice page (R229); its EINFO, which the rule does not state, is the VA of the
first byte: DESIGN CHOICE (log entry 68). -/
def Place.wholeCells (p : Place) (off len : Nat) : M Unit :=
  match p.page with
  | some (_, q) =>
    faultIf (q.ltype ≠ 0 ∧ (off % cellSize q.ltype ≠ 0 ∨ len % cellSize q.ltype ≠ 0)) .latticeType (dw (q.va + off))
  | none => .ok ()

/-- The root index of a part of a command that lies in no page. -/
def noRoot : Nat := 32

/-- Bytes to be written under a page's attributes at a site (R229). -/
def partOf (page : Option (Nat × Page)) (site : Nat) (dst : List (Dest × Byte)) : CxPart :=
  match page with
  | some (r, q) => ⟨dst, if q.ltype = 0 then .plain else .join q.ltype site, q.scope, r, q.key, q.hash⟩
  | none => ⟨dst, .plain, 0, noRoot, 0, 0⟩

/-- The bytes of a place read into staging: UNCORRECTABLE names the first failing 64-byte piece (R223). -/
def readPlace (s : State) (p : Place) (core : Nat) (offs : List Nat) : M (State × List Dest × List Byte) := do
  let ds ← p.dests (siteOf s.cur) core offs
  let pas := ds.filterMap Dest.pa?
  reach s pas (p.name (offs.headD 0)) p.hash
  let (s, bs) ← readPieces s (p.page.map (·.2)) pas fun i => dw ((p.name (offs.getD i 0)).toNat / 64 * 64)
  .ok (s, ds, bs)

/-- A record of n bytes in the executing core's scratchpad: HANDLE_BOUND past its end. -/
def readScratch (s : State) (core off n : Nat) : M (State × List Word) := do
  faultIf (scratchSize < off + n) .handleBound (dw off)
  let (s, _, bs) ← readPlace s ⟨1, none, off, s.pkg⟩ core (run off n)
  .ok (s, wordsOf bs (n / 4))

/-! ### Commands (R223, R228) -/

/-- A flight holds a staging buffer (R223): a command until it finishes, a run of a transfer until it is written or in a bounce buffer. -/
def CxFlight.staged (f : CxFlight) : Bool := f.xfer.isNone || f.parts.any fun p => !p.dst.isEmpty

/-- The staging buffers of a core's CX in use. -/
def State.stagingUsed (s : State) (c : Nat) : Nat := ((s.core c).cx.filter (·.staged)).length

/-- A CX command may issue (R223, R287): a staging buffer and a tracker entry are free, and the command before the last has finished. -/
def State.cxReady (s : State) (c : Nat) : Bool :=
  decide (s.stagingUsed c < 2) && ((s.core c).cx.all fun f => f.xfer.isSome || !f.passed) && decide (s.trackerUsed c < 64)

/-- What a CX command does: it waits for its staging buffer before its checks. -/
def cxRun (s : State) (tk : BitVec 3) (body : State → Nat → Queued → M State) : M State :=
  command s tk .finish fun s q =>
    match s.cur with
    | .eng .cx c => do
      waitUntil s (s.cxReady c)
      body s c q
    | _ => faultFree .illegal

/-- The frame of a CX command. -/
def cxCommand (s : State) (tk : BitVec 3) (body : State → Nat → Queued → M State) :
    Host.Outcome State Fault Refusal := finish s (cxRun s tk body)

/-- A command has completed: its staged bytes wait to be written. -/
def State.launch (s : State) (c : Nat) (q : Queued) (parts : List CxPart) (remote : Bool)
    (tagWay : Option (Nat × Nat × Nat)) (evict : Option Nat) (bounces : List ToBounce) : State :=
  let (n, s) := s.nextSeq
  let span := spanOf (parts.flatMap fun p => p.dst.filterMap fun d => d.1.pa?)
  let mine := ownRanges s.pkg c (parts.flatMap fun p => p.dst.map (·.1))
  let f : CxFlight := ⟨n, s.me.job.getD 0, parts, span, mine, remote, none, false, tagWay, evict, q.pushes, q.tag⟩
  let older := (s.core c).cx.map fun x => if x.xfer.isNone then { x with passed := true } else x
  let s := s.setCore c { s.core c with cx := older ++ [f] }
  { s with toBounce := s.toBounce ++ bounces.map fun b => { b with owner := .cx c n } }

/-- The intervals of two lists of addresses intersect (R228). -/
def spansMeet (xs ys : List Nat) : Bool :=
  match spanOf xs, spanOf ys with
  | some (a, b), some (c, d) => decide (a ≤ d) && decide (c ≤ b)
  | _, _ => false

/-- A copy between checked places: destination byte i receives source byte i. EINFO of REMOTE_GATED (R224), which no rule states for a command of
CX or NX, is the VA or the offset of the place's first byte: DESIGN CHOICE (log entry 68). -/
def copy (s : State) (c : Nat) (q : Queued) (d x : Place) (doffs soffs : List Nat) : M State := do
  let ds ← d.dests (siteOf s.cur) c doffs
  let sd ← x.dests (siteOf s.cur) c soffs
  let pas := ds.filterMap Dest.pa?
  faultIf (spansMeet pas (sd.filterMap Dest.pa?)) .illegal (dw d.off)
  reach s pas (d.name (doffs.headD 0)) d.hash
  let (s, _, bs) ← readPlace s x c soffs
  .ok (s.launch c q [partOf d.page (siteOf s.cur) (ds.zip bs)] false none none []).retire

/-- R226. -/
def execCpy (tk : BitVec 3) (p : BitVec 2) (h : BitVec 4) (a : BitVec 5) (q : BitVec 2) (j : BitVec 4) (b : BitVec 5)
    (s : State) : Host.Outcome State Fault Refusal :=
  cxCommand s tk fun s c qd => do
    let dv := s.rg a
    let sv := s.rg b
    noAux sv
    let n ← lengthOf dv
    let d ← openPlace s p h (placeOff dv) n true
    d.wholeCells d.off n
    let x ← openPlace s q j (placeOff sv) n false
    copy s c qd d x (run d.off n) (run x.off n)

/-- The offsets that a shape reaches in loop order (R227): runs of n0 bytes, n1 a plane, n2 planes. -/
def shapeOffs (off : Nat) (n0 n1 n2 : Nat) (d1 d2 : Int) : List Int :=
  (List.range n2).flatMap fun (p : Nat) => (List.range n1).flatMap fun (q : Nat) => (List.range n0).map fun (i : Nat) =>
    (off : Int) + (p : Int) * d2 + (q : Int) * d1 + (i : Int)

/-- HANDLE_BOUND for bytes outside a place: EINFO the lowest offending offset (R227). -/
def Place.inside (p : Place) (offs : List Int) : M (List Nat) :=
  let bad := offs.filter fun o => decide (o < 0) || decide ((p.limit : Int) ≤ o)
  match bad with
  | [] => .ok (offs.map Int.toNat)
  | o :: os => fault .handleBound (dwi (os.foldl min o))

/-- A place of CPY3, its handle checked; its bytes are checked by the shape. -/
def openShape (s : State) (space : BitVec 2) (h : BitVec 4) (off : Nat) (write : Bool) : M Place := do
  if space = 0 then
    let room := match s.me.hr h with
      | some ⟨_, _, .valid p, _⟩ => 2 ^ p.bits
      | _ => off
    let (x, p) ← handle s h (min off room) 0 write false
    .ok ⟨0, some (x.root, p), off, s.pkg⟩
  else .ok ⟨space.toNat, none, off, s.pkg⟩

/-- R227. -/
def execCpy3 (tk : BitVec 3) (p : BitVec 2) (h : BitVec 4) (a : BitVec 5) (q : BitVec 2) (j : BitVec 4) (b : BitVec 5)
    (s : State) : Host.Outcome State Fault Refusal :=
  cxCommand s tk fun s c qd => do
    let dv := s.rg a
    let sv := s.rg b
    noAux sv
    let d ← openShape s p h (placeOff dv) true
    let x ← openShape s q j (placeOff sv) false
    let ro := 32 * placeAux dv
    let (s, w) ← readScratch s c ro 32
    let n0 := wd w 0
    let n1 := wd w 1
    let n2 := wd w 2
    recordIf [ (0, decide (n0 = 0) || decide (65536 < n0 * n1 * n2)), (1, decide (n1 = 0)), (2, decide (n2 = 0)),
      (3, decide (wd w 3 ≠ 0)) ] (dw ro)
    let doffs ← d.inside (shapeOffs d.off n0 n1 n2 (sextInt (wd w 4) 32) (sextInt (wd w 5) 32))
    let soffs ← x.inside (shapeOffs x.off n0 n1 n2 (sextInt (wd w 6) 32) (sextInt (wd w 7) 32))
    let _ ← (List.range (n1 * n2)).mapM fun r => d.wholeCells (doffs.getD (r * n0) 0) n0
    copy s c qd d x doffs soffs

/-- R230. -/
def execCfill (tk : BitVec 3) (p : BitVec 2) (h : BitVec 4) (a b : BitVec 5) (s : State) :
    Host.Outcome State Fault Refusal :=
  cxCommand s tk fun s c qd => do
    let dv := s.rg a
    let n ← lengthOf dv
    let d ← openPlace s p h (placeOff dv) n true
    d.wholeCells d.off n
    let offs := run d.off n
    let ds ← d.dests (siteOf s.cur) c offs
    reach s (ds.filterMap Dest.pa?) (d.name d.off) d.hash
    let v := (s.rg b).toNat
    let bs := offs.map fun o => BitVec.ofNat 8 (v / 2 ^ (8 * (o % 8)))
    .ok (s.launch c qd [partOf d.page (siteOf s.cur) (ds.zip bs)] false none none []).retire

/-! ### The encoder stage (R231) -/

/-- Coefficient j of an encode record. -/
def encCoef (w : List Word) (j : Nat) : Int := sextInt (bits (wd w (1 + j / 4)) (8 * (j % 4) + 7) (8 * (j % 4))) 8

/-- The words of an encode record that break its table. -/
def encChecks (w : List Word) : List (Nat × Bool) :=
  let n := bits (wd w 0) 3 0
  let used := (List.range n).map (encCoef w)
  [ (0, decide (n = 0) || decide (8 < n) || decide (bits (wd w 0) 11 4 ≠ 0)
      || decide (65536 < (bits (wd w 0) 31 24 + 1) * (bits (wd w 0) 23 12 + 1) * 64)),
    (1, decide (255 < (used.map Int.natAbs).sum)),
    (3, decide (bits (wd w 3) 31 24 ≠ 0)), (4, decide (bits (wd w 4) 31 24 ≠ 0)) ]
  ++ ((List.range 8).map fun j => (1 + j / 4, decide (n ≤ j) && decide (encCoef w j ≠ 0)))
  ++ ((List.range 16).map fun i => (6 + i, decide (bits (wd w (6 + i)) 31 24 ≠ 0)))
  ++ (List.range 10).map fun i => (22 + i, decide (wd w (22 + i) ≠ 0))

/-- R231. EINFO of HANDLE_BOUND is the base offset of the region, that of REMOTE_GATED g[ga]: DESIGN CHOICE, the rule states none (log entry 68). -/
def execCpyenc (tk : BitVec 3) (a : BitVec 5) (s : State) : Host.Outcome State Fault Refusal :=
  cxCommand s tk fun s c qd => do
    let v := s.rg a
    faultIf (v.toNat % 128 ≠ 0) .misalign v
    let (s, w) ← readScratch s c v.toNat 128
    recordIf (encChecks w) v
    let r := bits (wd w 0) 31 24 + 1
    let kbn := bits (wd w 0) 23 12 + 1
    let n := bits (wd w 0) 3 0
    let at_ := fun (i : Nat) => 16 * bits (wd w i) 23 0
    let dp := 16 * bits (wd w 5) 31 16
    let sp := 16 * bits (wd w 5) 15 0
    let srcs := List.range n
    let regions := [(at_ 3, (r - 1) * dp + 64 * kbn), (at_ 4, 2 * r * kbn)]
      ++ srcs.map (fun j => (at_ (6 + j), (r - 1) * sp + 32 * kbn)) ++ srcs.map fun j => (at_ (14 + j), 2 * r * kbn)
    match regions.find? fun x => decide (scratchSize < x.1 + x.2) with
    | some x => fault .handleBound (dw x.1)
    | none =>
      let blocks := (List.range r).flatMap fun i => (List.range kbn).map fun kb => (i, kb)
      let here : Place := ⟨1, none, 0, s.pkg⟩
      let scaleAt := fun (j i kb : Nat) => at_ (14 + j) + 2 * (i * kbn + kb)
      let words := srcs.flatMap fun j => blocks.map fun b => scaleAt j b.1 b.2
      let (s, _, scales) ← readPlace s here c (words.flatMap fun o => [o, o + 1])
      let scale := fun (j m : Nat) =>
        leNat ((scales.drop (2 * (j * blocks.length + m))).take 2)
      let badScale := (List.range blocks.length).findSome? fun m =>
        let b := blocks.getD m (0, 0)
        srcs.findSome? fun j =>
          if scale j m ≠ scale 0 m ∨ (j = 0 ∧ bits (scale 0 m) 15 10 ≠ 0) then some (scaleAt j b.1 b.2) else none
      match badScale with
      | some o => faultAt .format (dw o) 4 0
      | none =>
        let elemAt := fun (j i kb e : Nat) => at_ (6 + j) + i * sp + 32 * kb + e
        let (s, _, es) ← readPlace s here c (srcs.flatMap fun j => blocks.flatMap fun b =>
          (List.range 32).map (elemAt j b.1 b.2))
        let elem := fun (j m e : Nat) => sextInt (es.getD (32 * (j * blocks.length + m) + e) 0).toNat 8
        let out := (List.range blocks.length).flatMap fun m =>
          let b := blocks.getD m (0, 0)
          ((List.range 32).flatMap fun e =>
            let x := (srcs.map fun j => encCoef w j * elem j m e).foldl (· + ·) 0
            cellsAt (at_ 3 + b.1 * dp + 64 * b.2 + 2 * e) (leBytes 2 (unsignedOf x 16)))
          ++ cellsAt (at_ 4 + 2 * m) (leBytes 2 (scale 0 m))
        let pas := out.map fun x => scratchPa s.pkg c x.1
        reach s pas v
        let dst := out.map fun x => (Dest.mem (scratchPa s.pkg c x.1), x.2)
        .ok (s.launch c qd [partOf none (siteOf s.cur) dst] false none none []).retire

/-! ### Remote copies (R232) -/

/-- The runs of a VA range in 64 KiB pages: (VA, position, length). -/
def pieces64k (va n : Nat) : List (Nat × Nat × Nat) :=
  let first := va / 65536
  (List.range ((va + n - 1) / 65536 + 1 - first)).map fun i =>
    let a := max va ((first + i) * 65536)
    let b := min (va + n) ((first + i + 1) * 65536)
    (a % 2 ^ 56, a - va, b - a)

/-- What a translation made at a destination says of a write to a run of a page (R229, R232, R382). -/
def destinationCause (p : Page) (va n : Nat) : Option Cause :=
  if p.trellis then some .trellisWrite
  else if !p.writable then some .permission
  else if p.sysCount then some .latticeType
  else if p.ltype ≠ 0 ∧ (va % cellSize p.ltype ≠ 0 ∨ n % cellSize p.ltype ≠ 0) then some .latticeType
  else none

/-- Where a run of a delivery to a VA lands: in a page, in the bounce buffer of a die, or in one of another package, whose pager moves it. -/
inductive Landing where
  | page (root : Nat) (p : Page) (ds : List Dest)
  | bounce (root va die : Nat)
  | far

/-- A run of n bytes translated and checked through a root at a site (R232): what is not resident, or has records outstanding, bounces;
another fault is the instruction's own, with the standard EWORD (R82). -/
def landing (s : State) (root site va n : Nat) (einfo : DWord) : M (State × Landing) := do
  match s.deviceWalk root va with
  | (s, .stuck _ _) => .error (.wait s)
  | (s, .fault c r _) =>
    if c = .pageNotResident ∧ dbits r 61 56 = 2 then .ok (s, if root < 32 then .bounce root va (s.awayDie r) else .far)
    else .error (.trapIn s (s.walkTrap c r einfo.toNat false))
  | (s, .page p) =>
    match destinationCause p va n with
    | some c => fault c einfo
    | none =>
      let ds ← Place.dests ⟨0, some (root, p), 0, s.pkg⟩ site 0 (run (va - p.va) n)
      if s.bouncing root p.va p.bits then .ok (s, .bounce root va (bounceDie p.pa))
      else
        reach s (ds.filterMap Dest.pa?) einfo (some p.hash)
        .ok (s, .page root p ds)

/-- The runs of a delivery, one after another. -/
def landings (s : State) (root site : Nat) (einfo : DWord) : List (Nat × Nat × Nat) → M (State × List Landing)
  | [] => .ok (s, [])
  | (va, _, n) :: rs => do
    let (s, l) ← landing s root site va n einfo
    let (s, ls) ← landings s root site einfo rs
    .ok (s, l :: ls)

/-- The bytes that a run writes here. -/
def Landing.part? (l : Landing) (site : Nat) (bs : List Byte) : Option CxPart :=
  match l with
  | .page r p ds => some (partOf (some (r, p)) site (ds.zip bs))
  | _ => none

/-- The record that takes a run to a bounce buffer. -/
def Landing.bounce? (l : Landing) (bs : List Byte) (o : BounceOwner) : Option ToBounce :=
  match l with
  | .bounce r va d => some ⟨0, d, va, r, bs.length, bs, o⟩
  | _ => none

/-- R232. The destination is translated, in its package and through the root of the control core of the same number, and checked before the
source is read (R223). -/
def execCrmt (tk : BitVec 3) (a : BitVec 5) (q : BitVec 2) (j : BitVec 4) (b : BitVec 5) (s : State) :
    Host.Outcome State Fault Refusal :=
  cxCommand s tk fun s c qd => do
    let dv := s.rg a
    let sv := s.rg b
    faultIf (dbits dv 63 62 ≠ 0) .illegal dv
    let n ← lengthOf sv
    let x ← openPlace s q j (placeOff sv) n false
    let va := dbits dv 55 0
    let pkg := dbits dv 61 56
    if !(s.exchange.present.contains pkg) then .error (.trap ⟨.tableNotResident, some (dw va), .raw (walkReport 3 6 0 0), .none⟩)
    else
      let rs := pieces64k va n
      let (s, ls) ← landings s (s.rootKey pkg s.me.root) 8 (dw va) rs
      let (s, _, bs) ← readPlace s x c (run x.off n)
      let with_ := ls.zip (rs.map fun r => (bs.drop r.2.1).take r.2.2)
      .ok (s.launch c qd (with_.filterMap fun l => l.1.part? 8 l.2) true none none
        (with_.filterMap fun l => l.1.bounce? l.2 (.cx 0 0))).retire

/-! ### Scratchpad slots (R233, R234) -/

/-- The slot in a register; the spec states no EINFO for a number that is none (log entry 11). -/
def slotNo (v : DWord) : M Nat := if 6144 ≤ v.toNat then faultFree .illegal else .ok v.toNat

/-- The 4 KiB region at an offset of a handle's page, off a scratchpad frame and a lattice page; EINFO of PERMISSION and LATTICE_TYPE is the
region's VA: DESIGN CHOICE, R233 states none (log entry 68). -/
def slotRegion (s : State) (h : BitVec 4) (off : Nat) (write : Bool) : M Place := do
  let (x, p) ← handle s h off 4096 write true
  faultIf (p.layout.isNone ∧ kindOf p.pa = 2) .permission (dw (p.va + off))
  faultIf (p.ltype ≠ 0) .latticeType (dw (p.va + off))
  .ok ⟨0, some (x.root, p), off, s.pkg⟩

/-- What the CFETCH with a place among commands, of a slot from a region, does to the tags at issue; none where the set is full. -/
def fetchTags (ways : List Way) (slot pa n : Nat) : Option (List Way) :=
  putWay (ways.filter fun w => decide (w.slot ≠ slot)) pa slot .filling n

/-- The physical address of the region that a CFETCH or CEVICT names. -/
def Place.regionPa (x : Place) (site core : Nat) : M Nat := do
  let ds ← x.dests site core [x.off]
  .ok ((ds.filterMap Dest.pa?).headD 0)

/-- A CFETCH whose data is uncorrectable: the tags are as at issue, the way set filling invalid again (R450). -/
def fetchFailed (s : State) (c pa : Nat) (ways : List Way) (r : M (State × List Dest × List Byte)) : M (State × List Dest × List Byte) :=
  match r with
  | .error (.trap t) =>
    if t.cause = .uncorrectable then
      let (set, tg) := tagKey pa
      .error (.trapIn (s.setCore c { s.core c with ways := ways.filter fun w => !(decide (w.set = set) && decide (w.tag = tg)) }) t)
    else r
  | _ => r

/-- R233, R450. -/
def execCfetch (tk : BitVec 3) (h : BitVec 4) (a b : BitVec 5) (s : State) : Host.Outcome State Fault Refusal :=
  cxCommand s tk fun s c q => do
    let slot ← slotNo (s.rg b)
    let x ← slotRegion s h (s.rg a).toNat false
    let pa ← x.regionPa (siteOf s.cur) c
    match fetchTags (s.core c).ways slot pa s.cmdSeq with
    | none => fault .illegal (dw pa)
    | some ways =>
      let pas := (run (4096 * slot) 4096).map (scratchPa s.pkg c)
      reach s pas (dw (4096 * slot))
      let (s, _, bs) ← fetchFailed s c pa ways (readPlace s x c (run x.off 4096))
      let s := s.setCore c { s.core c with ways := ways }
      let (set, tg) := tagKey pa
      .ok (s.launch c q [partOf none 0 ((pas.map Dest.mem).zip bs)] false (some (set, tg, slot)) none []).retire

/-- R234. -/
def execCevict (tk : BitVec 3) (h : BitVec 4) (a b : BitVec 5) (keep : BitVec 1) (s : State) :
    Host.Outcome State Fault Refusal :=
  cxCommand s tk fun s c qd => do
    let slot ← slotNo (s.rg b)
    let d ← slotRegion s h (s.rg a).toNat true
    let ds ← d.dests (siteOf s.cur) c (run d.off 4096)
    reach s (ds.filterMap Dest.pa?) (d.name d.off) d.hash
    let (s, _, bs) ← readPlace s ⟨1, none, 0, s.pkg⟩ c (run (4096 * slot) 4096)
    let gone := if keep = 0 then some slot else none
    .ok (s.launch c qd [partOf d.page (siteOf s.cur) (ds.zip bs)] false none gone []).retire

/-! ### The finish of a command (R223, R224, R229) -/

/-- Every byte of a part goes to a place of its own. -/
def CxPart.distinct (p : CxPart) : Bool := decide ((p.dst.map (·.1)).eraseDups.length = p.dst.length)

/-- The bytes of a part that go to physical memory. -/
def CxPart.cells (p : CxPart) : List (Nat × Byte) := p.dst.filterMap fun d => d.1.pa?.map fun pa => (pa, d.2)

/-- The pieces a part still writes, each in one step (R307): atomic units, of a lattice page units of whole cells, or all of a veneer write. Where
a copy joins one cell more than once, each of its cells is a piece. -/
def CxPart.pieces (p : CxPart) : List (List (Dest × Byte)) :=
  match p.mode with
  | .join t _ =>
    if p.distinct then (cellUnits t p.cells).map fun u => u.map fun x => (.mem x.1, x.2)
    else (List.range (ceilDiv p.dst.length (accessSize t))).map fun k => (p.dst.drop (k * accessSize t)).take (accessSize t)
  | .plain =>
    let cells := p.cells
    if cells.isEmpty then (if p.dst.isEmpty then [] else [p.dst])
    else (unitsOf cells).map fun u => u.map fun x => (.mem x.1, x.2)

/-- Piece k of a part. -/
def CxPart.piece (p : CxPart) (k : Nat) : List (Dest × Byte) := p.pieces.getD k []

/-- The part without the places of its piece k. -/
def CxPart.past (p : CxPart) (k : Nat) : CxPart :=
  let gone := (p.piece k).map (·.1)
  { p with dst := p.dst.filter fun d => !gone.contains d.1 }

/-- The part without its piece k. -/
def CxPart.without (p : CxPart) (k : Nat) : CxPart :=
  match p.mode with
  | .join t _ =>
    if p.distinct then p.past k else { p with dst := p.dst.take (k * accessSize t) ++ p.dst.drop ((k + 1) * accessSize t) }
  | .plain => p.past k

/-- The agent that a stream transfer of LCi is (R296). -/
def ScbEntry.agent (e : ScbEntry) (i : Nat) : Agent := .xfer e.core i e.id

/-- Who makes the writes of a flight: CX of a core for a job, or a stream transfer. -/
def State.flightWriter (s : State) (c : Nat) (f : CxFlight) (p : CxPart) : Writer :=
  match f.xfer with
  | none => { s.writerOf (.eng .cx c) f.job f.seq (some p.hash) p.scope none with page := some (p.root, p.page), tracked := some (c, f.job) }
  | some (i, ix) =>
    let a := (((s.lc i).scb.find? fun e => decide (e.ix = ix)).map fun e => e.agent i).getD .device
    { who := a, at_ := f.seq, hash := some p.hash, scope := p.scope, page := some (p.root, p.page), clock := (s.view a).at_ f.seq }

/-- A piece of a part is written. -/
def State.writePiece (s : State) (c : Nat) (by_ : Writer) (p : CxPart) (xs : List (Dest × Byte)) : State :=
  let cells := xs.filterMap fun d => d.1.pa?.map fun pa => (pa, d.2)
  match p.mode with
  | .join t site => s.joinUnit t site (decide (2 ≤ p.scope)) (decide (p.scope = 3)) by_ (cells.map (·.1)) (cells.map (·.2))
  | .plain =>
    let vs := xs.filterMap fun d => match d.1 with
      | .veneer o => some (o, d.2)
      | .mem _ => none
    let s := if cells.isEmpty then s else s.perform cells true by_
    if vs.isEmpty then s
    else { s with veneer := Tab.set s.veneer c (Mem.setAll (Tab.get s.veneer c []) vs) }.heal (vs.map fun (v : Nat × Byte) => (veneerPa c v.1, v.2))

/-- The destinations of all that a command still writes. -/
def CxFlight.dests (f : CxFlight) : List Dest := f.parts.flatMap fun p => p.dst.map (·.1)

/-- The pieces that may be written now, as (command, part, piece): two commands of the stream, or two runs of one transfer, write the same
byte in their order, and a command's writes follow what an acquire or a FENCE has ordered before it (R300). -/
def State.cxPieces (s : State) (c : Nat) : List (Nat × Nat × Nat) :=
  let fs := (s.core c).cx
  (List.range fs.length).flatMap fun i =>
    match fs[i]? with
    | none => []
    | some f =>
      if f.xfer.isNone && !s.inOrder (.eng .cx c) f.job f.seq then [] else
      let before := ((fs.take i).filter fun x => decide (x.xfer = f.xfer)).flatMap CxFlight.dests
      (List.range f.parts.length).flatMap fun j =>
        match f.parts[j]? with
        | none => []
        | some p =>
          let ps := p.pieces
          ((List.range ps.length).filter fun k =>
            let ds := (ps.getD k []).map (·.1)
            (ds.all fun d => !before.contains d) && !s.chanShut (ds.filterMap Dest.pa?) (some p.hash)).map fun k => (i, j, k)

/-- Everything that a command writes is written, its bounced writes among it. -/
def State.cxWritten (s : State) (c : Nat) (f : CxFlight) : Bool :=
  (f.parts.all fun p => p.dst.isEmpty) && !s.bouncedOf (.cx c f.seq)

/-- A way that a CFETCH has filled is valid at its finish, the slot's bytes then there for a LOOKUP to acquire (R145, R292); one that a later
CFETCH fills stays as it is. -/
def State.fillWay (s : State) (c seq : Nat) (w : Way) : Way :=
  if w.by_ = seq ∧ w.state = .filling then
    { w with state := .valid,
             clock := some (Clock.empty.over ((run (4096 * w.slot) 4096).map fun o => s.direct (scratchPa s.pkg c o)) s.histNow) }
  else w

/-- A command finishes: its tags change, its tokens are pushed (R223, R233, R234). A CEVICT without K drops every way that holds its slot then,
one that a later CFETCH or TAGSET has set among them: DESIGN CHOICE, R234 says 'at finish, every way holding slot s' where R145 orders tag
changes by issue. -/
def State.cxFinish (s : State) (c : Nat) (f : CxFlight) : State :=
  let k := s.core c
  let ways := (if f.tagWay.isSome then k.ways.map (s.fillWay c f.seq) else k.ways).filter fun w => decide (some w.slot ≠ f.evict)
  let s := s.setCore c { k with cx := k.cx.filter (fun x => decide (x.seq ≠ f.seq)), ways := ways }
  s.pushDone (.eng .cx c) c f.job f.seq f.pushes f.tag

/-- The oldest command all of whose writes are performed finishes, once its push has nothing earlier left to release (R299). -/
def State.cxSettle (s : State) (c : Nat) : Option State :=
  ((s.core c).cx.find? fun f => s.cxWritten c f && (decide (f.pushes = 0) || s.performedBefore (.eng .cx c) f.seq)).map (s.cxFinish c)

/-- One piece written. -/
def State.cxWrite (s : State) (c : Nat) (x : Nat × Nat × Nat) : State :=
  let k := s.core c
  match k.cx[x.1]? with
  | none => s
  | some f => match f.parts[x.2.1]? with
    | none => s
    | some p =>
      let f' := { f with parts := f.parts.set x.2.1 (p.without x.2.2) }
      (s.setCore c { k with cx := k.cx.set x.1 f' }).writePiece c (s.flightWriter c f p) p (p.piece x.2.2)

/-- R223: a piece of a command in flight is written, whichever; a command whose last piece that was finishes. -/
def execCxCommandFinish (core : Nat) (s : State) : Host.Outcome State Fault Refusal :=
  happen s <|
    match s.cxSettle core with
    | some t => some t
    | none => match s.cxPieces core with
      | [] => none
      | [x] => let t := s.cxWrite core x; some ((t.cxSettle core).getD t)
      | x :: xs =>
        let (n, s) := s.draw
        let t := s.cxWrite core ((x :: xs).getD (Config.freeNat n % (xs.length + 1)) x)
        some ((t.cxSettle core).getD t)

/-! ### Stream transfers (R235, R259, R374, R375) -/

/-- The runs of a transfer, cut at 64 KiB pages: VA, local offset, length. -/
def transferRuns (ws : List Word) : List (Nat × Nat × Nat) :=
  (List.range (wd ws 5)).flatMap fun q =>
    let va := (xferGlobal ws q 0 % (2 ^ 56 : Nat)).toNat
    (pieces64k va (wd ws 4)).map fun (v, o, k) => (v, (xferLocal ws q o).toNat, k)

/-- What the translation of the piece that holds a VA came to. -/
def ScbEntry.at_ (e : ScbEntry) (va : Nat) : Option Found :=
  (e.found.find? fun x => decide (x.1 = va / 65536 * 65536)).map (·.2)

/-- The local bytes of a run. -/
def ScbEntry.locals (e : ScbEntry) (pkg loff n : Nat) : List Dest :=
  (Machine.run loff n).map fun o => if bit (wd e.record 2) 8 then .veneer o else .mem (scratchPa pkg e.core o)

/-- The lowest and highest address of n bytes at an offset of a page. -/
def Page.reachOf (p : Page) (site off n : Nat) : Option (Nat × Nat) :=
  if p.layout.isSome then spanOf ((run off n).filterMap (p.byte site))
  else spanOf ([off, off + n - 1].filterMap (p.byte site))

/-- The interval that holds two. -/
def spanJoin : Option (Nat × Nat) → Option (Nat × Nat) → Option (Nat × Nat)
  | none, y => y
  | x, none => x
  | some (a, b), some (c, d) => some (min a c, max b d)

/-- What a run of a transfer raises before anything is read (R229, R359, R366). -/
def ScbEntry.runCause (e : ScbEntry) (va n : Nat) : Option Cause :=
  match e.at_ va with
  | some (.fault c _) => some c
  | some (.page p) =>
    let far := if (Machine.run (va - p.va) n).all fun o => (p.byte (e.core / 4) o).isSome then none else some Cause.handleBound
    if e.outbound then (destinationCause p va n).or far
    else if p.sysCount then some .latticeType else far
  | _ => none

/-- The first check of R223 and R228 that a transfer fails. -/
def ScbEntry.firstCause (e : ScbEntry) (pkg : Nat) : Option Cause :=
  let runs := transferRuns e.record
  let globals := runs.foldl (fun x (va, _, n) => match e.at_ va with
    | some (.page p) => spanJoin x (p.reachOf (e.core / 4) (va - p.va) n)
    | _ => x) none
  let locals := if bit (wd e.record 2) 8 then none else
    runs.foldl (fun x (_, loff, n) => spanJoin x (some (scratchPa pkg e.core loff, scratchPa pkg e.core (loff + n - 1)))) none
  (runs.findSome? fun (va, _, n) => e.runCause va n).or (match locals, globals with
    | some (a, b), some (c, d) => if a ≤ d ∧ c ≤ b then some .illegal else none
    | _, _ => none)

/-- An entry of a scoreboard replaced. -/
def State.setEntry (s : State) (i ix : Nat) (f : ScbEntry → ScbEntry) : State :=
  s.setLc i { s.lc i with scb := (s.lc i).scb.map fun x => if x.ix = ix then f x else x }

/-- The pieces of an inbound transfer that were not resident, walked again when the pager has answered (R375): the page where the walk
succeeds, the record otherwise; none while a walk cannot go on. -/
def State.refind (s : State) (i core : Nat) : List (Nat × Found) → State × Option (List (Nat × Found))
  | [] => (s, some [])
  | (va, .away d) :: fs =>
    match s.deviceWalk i va with
    | (s, .stuck _ _) => (s, none)
    | (s, e) =>
      let f := match e with
        | .page p => Found.page p
        | _ => .away d
      let (s, r) := s.refind i core fs
      (s, r.map ((va, f) :: ·))
  | f :: fs =>
    let (s, r) := s.refind i core fs
    (s, r.map (f :: ·))

/-- What the staging of runs comes to: it waits; a cause; the bytes to be written here, and those that bounce. -/
inductive Staged where
  | wait
  | cause (s : State) (c : Cause)
  | ready (s : State) (parts : List CxPart) (bounces : List ToBounce)

/-- A transfer's bytes read (R235, R271): an uncorrectable one is recorded (R450). -/
def State.stageRead (s : State) (i : Nat) (e : ScbEntry) (p : Option Page) (pas : List Nat) : Sum State (State × List Byte) :=
  match s.firstBad pas with
  | some k => .inl (s.recordBad (badKind (pas.getD k 0)) (codewordOf (s.direct (pas.getD k 0))) e.core 0xFFFF (p.map (·.hash)))
  | none =>
    let plain := match p with
      | some q => decide (q.ltype = 0)
      | none => true
    let read := fun (s : State) (x : List Nat) =>
      if plain then ((s.viewed (e.agent i) x).1, (s.viewed (e.agent i) x).2.1) else (s, s.rdAll x)
    let (s, bs) := (s.noteReadsAs e.core 0xFFFF pas (p.map (·.hash))).readEach read (readUnits 1 pas)
    .inr (s.hashBytes ((p.map (·.hash)).getD 0) pas bs)

/-- The entries of jobs that have left a core's queue (R288). -/
def State.leftJobs (s : State) (c k : Nat) : Bool := !(s.core c).jobq.contains k

/-- An access of a transfer of LCi to these bytes waits: for an earlier job's tracker entry (R288), for a write that is ordered before it (R300),
for a channel. -/
def State.xferWaits (s : State) (i : Nat) (e : ScbEntry) (pas : List Nat) (hash : Option Nat) : Bool :=
  s.trackedBy e.core (s.leftJobs e.core) pas || s.ordersAfter (e.agent i) pas || s.chanShut pas hash

/-- A run of a transfer of LCi is read into staging: an outbound one from the core's scratchpad, an inbound one from its page or from the
record that the pager filled. -/
def State.stageRun (s : State) (i : Nat) (e : ScbEntry) (va loff n : Nat) : Staged :=
  let here := e.locals s.pkg loff n
  let lpas := here.filterMap Dest.pa?
  let site := e.core / 4
  if s.xferWaits i e lpas none then .wait
  else if e.outbound then
    match s.stageRead i e none lpas with
    | .inl s => .cause s .uncorrectable
    | .inr (s, bs) =>
      let away := fun (d : Nat) => Staged.ready s [] [⟨0, d, va, i, n, bs, .cx e.core 0⟩]
      match e.at_ va with
      | some (.page p) =>
        if s.bouncing i p.va p.bits then away (bounceDie p.pa) else
        let ds := (run (va - p.va) n).filterMap fun o => (p.byte site o).map Dest.mem
        match s.gatedCore .te (ds.filterMap Dest.pa?) with
        | some g => .cause (s.askUngate g) .remoteGated
        | none => if s.xferWaits i e (ds.filterMap Dest.pa?) (some p.hash) then .wait else .ready s [partOf (some (i, p)) site (ds.zip bs)] []
      | some (.away d) => away d
      | _ => .wait
  else
    match e.at_ va with
    | some (.page p) =>
      let pas := (run (va - p.va) n).filterMap (p.byte site)
      match s.gatedCore .te pas with
      | some g => .cause (s.askUngate g) .remoteGated
      | none =>
        if s.xferWaits i e pas (some p.hash) then .wait else
        match s.stageRead i e (some p) pas with
        | .inl s => .cause s .uncorrectable
        | .inr (s, bs) => .ready s [partOf none site (here.zip bs)] []
    | some (.away _) => match e.supplied.find? fun x => decide (x.1 = va) with
      | some (_, bs) => if bs.length = n then .ready s [partOf none site (here.zip bs)] [] else .cause s .uncorrectable
      | none => .wait
    | _ => .wait

/-- The requests to the pager for the pieces of an inbound transfer that are not resident (R374). -/
def ScbEntry.requests (e : ScbEntry) (i : Nat) : List ToBounce :=
  (transferRuns e.record).filterMap fun (va, _, n) => match e.at_ va with
    | some (.away d) => some ⟨1, d, va, i, n, [], .xfer i e.ix⟩
    | _ => none

/-- Runs staged one after another. -/
def State.stageRuns (s : State) (i : Nat) (e : ScbEntry) : List (Nat × Nat × Nat) → Staged
  | [] => .ready s [] []
  | (va, loff, n) :: rs => match s.stageRun i e va loff n with
    | .ready s ps bs => (match s.stageRuns i e rs with
      | .ready s qs cs => .ready s (ps ++ qs) (bs ++ cs)
      | r => r)
    | r => r

/-- What has been staged is in flight (R223); it keeps its tracker entry until its writes, the bounced ones among them, are performed (R287,
R374). -/
def State.launchRuns (s : State) (i : Nat) (e : ScbEntry) (parts : List CxPart) (bounces : List ToBounce) : State :=
  let (n, s) := s.nextSeq
  let span := spanOf (parts.flatMap fun p => p.dst.filterMap fun d => d.1.pa?)
  let mine := ownRanges s.pkg e.core (parts.flatMap fun p => p.dst.map (·.1))
  let f : CxFlight := ⟨n, 0, parts, span, mine, false, some (i, e.ix), false, none, none, 0, 0⟩
  { s.setCore e.core { s.core e.core with cx := (s.core e.core).cx ++ [f] } with
    toBounce := s.toBounce ++ bounces.map fun b => { b with owner := .cx e.core n } }

/-- A part of a transfer is in flight. -/
def State.xferBusy (s : State) (i : Nat) (e : ScbEntry) : Bool := (s.core e.core).cx.any fun f => decide (f.xfer = some (i, e.ix))

/-- A kernel that waits and names a transfer: it never issues once that has failed (R259). -/
def Job.barredBy (j : Job) (i id : Nat) : Job :=
  match j.origin with
  | .krun l _ _ => if l = i ∧ j.unissued ∧ (List.range 8).any (fun q => decide (cardXfer j.words q = id)) then { j with barred := true } else j
  | _ => j

/-- A transfer finishes with a status (R259, R262); what a succeeded one has written is kept for those that learn of it (R271). -/
def State.finishXfer (s : State) (i : Nat) (e : ScbEntry) (cause : Nat) : State :=
  let s := if cause = 0 then s.endWork (if e.outbound then .xfer i e.id else .inbound i e.id) (s.releaseNow (e.agent i))
    else { s with jobs := s.jobs.map fun (x : Nat × Job) => (x.1, x.2.barredBy i e.id) }
  s.finishKernel i e.ix cause

/-- A transfer ends with a cause: what it has staged is written first. -/
def State.endTransfer (s : State) (i : Nat) (e : ScbEntry) (c : Cause) : Option State :=
  if s.xferBusy i e then none else some (s.finishXfer i e c.code)

/-- The next runs of a transfer that has started take a staging buffer and a tracker entry (R223, R287): all of one that fits the 64 KiB of
a buffer, so that it has written nothing when a cause ends it, else one run after another; the last one written, it has finished. -/
def State.nextRun (s : State) (i : Nat) (e : ScbEntry) : Option State :=
  let left := (transferRuns e.record).drop e.run
  let next := if e.total ≤ 65536 then left else left.take 1
  if next.isEmpty then (if s.xferBusy i e then none else some (s.finishXfer i e 0))
  else if decide (2 ≤ s.stagingUsed e.core) || decide (64 ≤ s.trackerUsed e.core) then none
  else match s.stageRuns i e next with
    | .wait => none
    | .cause s c => s.endTransfer i e c
    | .ready s ps bs => some ((s.setEntry i e.ix fun x => { x with run := x.run + next.length }).launchRuns i e ps bs)

/-- A transfer starts: its first read acquires what its SXFER released (R271). -/
def State.firstRun (s : State) (i : Nat) (e : ScbEntry) : Option State := (s.freshView (e.agent i) e.clock).nextRun i e

/-- A transfer that has not started goes on towards its start: its pieces are translated, the pager has answered for those that are not
resident, its checks are passed; a cut of its core's instance keeps an inbound one from starting (R344). -/
def State.startTransfer (s : State) (i : Nat) (e : ScbEntry) : Option State :=
  let pieces := xferPages e.record
  if decide (e.found.length < pieces.length) then
    let (s, found) := s.findPieces i e.core pieces e.found
    some (s.setEntry i e.ix fun x => { x with found := found })
  else match e.firstCause s.pkg with
    | some c => some (s.finishXfer i e c.code)
    | none =>
      let asks := if e.outbound then [] else e.requests i
      if !e.outbound && (s.core e.core).cut.isSome then none
      else if !asks.isEmpty && !e.asked then
        some { s.setEntry i e.ix fun x => { x with asked := true } with toBounce := s.toBounce ++ asks }
      else if asks.isEmpty then s.firstRun i e
      else if s.bouncedOf (.xfer i e.ix) then none
      else match s.refind i e.core e.found with
        | (s, none) => some s
        | (s, some found) =>
          let e' := { e with found := found }
          match e'.firstCause s.pkg with
          | some c => some (s.finishXfer i e c.code)
          | none => (s.setEntry i e.ix fun x => { x with found := found }).firstRun i e'

/-- R235, R259: a stream transfer goes on by one run, or finishes. While its own core is gated it waits, asks for nothing and raises no cause:
DESIGN CHOICE, the rule does not say (log entry 68). -/
def execStreamTransferFinish (lc ix : Nat) (s : State) : Host.Outcome State Fault Refusal :=
  happen s <|
    match (s.lc lc).scb.find? fun e => decide (e.ix = ix) with
    | none => none
    | some e =>
      let k := s.core e.core
      if e.kernel.isSome || e.finished || k.gated || decide (s.now < k.railHold) then none
      else if e.run = 0 then s.startTransfer lc e else s.nextRun lc e

end Sys2Proof.Machine
end

