-- ==== Sys2Proof/Machine/Float.lean ====
section
/-!
DEFINITION. Number formats and rounding (spec/01_number_formats.md R23 to R35, R42; spec/06_vector_engines.md R198, R200, R201):
element types, exact values, the one rounding of a result, S10 codes and the choice of SXI8 scales.
-/

namespace Sys2Proof.Machine

/-! ### Element types (R33, R78) -/

/-- The element types, in the order of VT.TYPE. -/
inductive ElemType where
  | i8 | i16 | i32 | e4m3 | e5m2 | fp16 | bf16 | fp32
  deriving DecidableEq, Repr, Inhabited

/-- The type with a code of VT.TYPE; none for 8 to 15. -/
def elemTypeOf (n : Nat) : Option ElemType :=
  ([.i8, .i16, .i32, .e4m3, .e5m2, .fp16, .bf16, .fp32] : List ElemType)[n]?

/-- Bits of an element. -/
def ElemType.width : ElemType → Nat
  | .i8 => 8
  | .i16 => 16
  | .i32 => 32
  | .e4m3 => 8
  | .e5m2 => 8
  | .fp16 => 16
  | .bf16 => 16
  | .fp32 => 32

/-- Whether a type is floating. -/
def ElemType.isFloat : ElemType → Bool
  | .i8 => false
  | .i16 => false
  | .i32 => false
  | _ => true

/-- Exponent bits of a floating type. -/
def ElemType.ebits : ElemType → Nat
  | .e4m3 => 4
  | .e5m2 => 5
  | .fp16 => 5
  | _ => 8

/-- Mantissa bits of a floating type. -/
def ElemType.mbits : ElemType → Nat
  | .e4m3 => 3
  | .e5m2 => 2
  | .fp16 => 10
  | .bf16 => 7
  | _ => 23

/-- The exponent bias of a floating type. -/
def ElemType.bias (t : ElemType) : Nat := 2 ^ (t.ebits - 1) - 1

/-- The canonical NaN (R34). -/
def ElemType.nan : ElemType → Nat
  | .e4m3 => 0x7F
  | .e5m2 => 0x7E
  | .fp16 => 0x7E00
  | .bf16 => 0x7FC0
  | _ => 0x7FC00000

/-- The sign bit of a type, set or clear. -/
def ElemType.sign (t : ElemType) (neg : Bool) : Nat := if neg then 2 ^ (t.width - 1) else 0

/-- The infinity of a type with a sign; E4M3 has none and saturates (R35). -/
def ElemType.inf (t : ElemType) (neg : Bool) : Nat :=
  t.sign neg + if t = .e4m3 then 0x7E else (2 ^ t.ebits - 1) * 2 ^ t.mbits

/-- The largest finite value of a type with a sign. -/
def ElemType.max (t : ElemType) (neg : Bool) : Nat :=
  t.sign neg + if t = .e4m3 then 0x7E else (2 ^ t.ebits - 1) * 2 ^ t.mbits - 1

/-! ### Values -/

/-- What an element stands for: (−1)^neg × mag × 2^exp, an infinity, or a NaN. -/
inductive Value where
  | fin (neg : Bool) (mag : Nat) (exp : Int)
  | inf (neg : Bool)
  | nan
  deriving DecidableEq, Repr, Inhabited

/-- The value of an element of a type. -/
def ElemType.value (t : ElemType) (x : Nat) : Value :=
  let x := x % 2 ^ t.width
  if !t.isFloat then
    let v := sextInt x t.width
    .fin (decide (v < 0)) v.natAbs 0
  else
    let neg := bit x (t.width - 1)
    let e := bits x (t.width - 2) t.mbits
    let m := x % 2 ^ t.mbits
    if t = .e4m3 ∧ e = 15 ∧ m = 7 then .nan
    else if t ≠ .e4m3 ∧ e = 2 ^ t.ebits - 1 then (if m = 0 then .inf neg else .nan)
    else if e = 0 then .fin neg m (1 - (t.bias : Int) - t.mbits)
    else .fin neg (m + 2 ^ t.mbits) ((e : Int) - t.bias - t.mbits)

/-! ### Rounding (R34, R35) -/

/-- The rounding modes RNE, RZ, RU, RD by VT.RND (R78). -/
abbrev RoundMode := Nat

/-- n / d of a sign rounded to an integer magnitude. -/
def roundDiv (rnd : RoundMode) (neg : Bool) (n d : Nat) : Nat :=
  let q := n / d
  let r := n % d
  let up := match rnd with
    | 0 => decide (d < 2 * r) || (decide (2 * r = d) && decide (q % 2 = 1))
    | 1 => false
    | 2 => !neg && decide (r ≠ 0)
    | _ => neg && decide (r ≠ 0)
  if up then q + 1 else q

/-- mag × 2^exp as an integer magnitude, rounded. -/
def roundInt (rnd : RoundMode) (neg : Bool) (mag : Nat) (exp : Int) : Nat :=
  if 0 ≤ exp then mag * 2 ^ exp.toNat else roundDiv rnd neg mag (2 ^ (-exp).toNat)

/-- RoundRNE of n / d (R84). -/
def rneInt (n : Int) (d : Nat) : Int :=
  let q := roundDiv 0 (decide (n < 0)) n.natAbs d
  if n < 0 then -(q : Int) else q

/-- The result of an overflow (R35): E4M3 saturates. -/
def ElemType.overflow (t : ElemType) (rnd : RoundMode) (neg : Bool) : Nat :=
  match rnd with
  | 0 => t.inf neg
  | 1 => t.max neg
  | 2 => if neg then t.max neg else t.inf neg
  | _ => if neg then t.inf neg else t.max neg

/-- The exact value (−1)^neg × mag × 2^exp rounded once into a floating type; whether it overflowed. A zero magnitude
gives the zero of the sign. -/
def ElemType.round (t : ElemType) (rnd : RoundMode) (neg : Bool) (mag : Nat) (exp : Int) : Nat × Bool :=
  if mag = 0 then (t.sign neg, false)
  else
    let low : Int := 1 - (t.bias : Int)
    let top : Int := (Nat.log2 mag : Int) + exp
    let quantum := (if top < low then low else top) - t.mbits
    let q := roundInt rnd neg mag (exp - quantum)
    let (q, quantum) := if 2 ^ (t.mbits + 1) ≤ q then (q / 2, quantum + 1) else (q, quantum)
    if q < 2 ^ t.mbits then (t.sign neg + q, false)
    else
      let e := (quantum + t.mbits + t.bias).toNat
      let frac := q - 2 ^ t.mbits
      let past := if t = .e4m3 then decide (15 < e) || (decide (e = 15) && decide (frac = 7))
        else decide (2 ^ t.ebits - 1 ≤ e)
      if past then (t.overflow rnd neg, true) else (t.sign neg + e * 2 ^ t.mbits + frac, false)

/-- The exact value of a sign n / d rounded once into a floating type: two bits more than the type holds and a last bit
that is set where the quotient is not exact decide every mode. -/
def ElemType.roundQuot (t : ElemType) (rnd : RoundMode) (neg : Bool) (n d : Nat) (exp : Int) : Nat × Bool :=
  if n = 0 then (t.sign neg, false)
  else
    let k := t.mbits + 4 + Nat.log2 d
    let x := n * 2 ^ k
    t.round rnd neg (2 * (x / d) + b2n (decide (x % d ≠ 0))) (exp - k - 1)

/-- A value put into a floating type: NaNs canonical (R34), infinities kept, E4M3 saturated (R35). -/
def ElemType.encode (t : ElemType) (rnd : RoundMode) : Value → Nat
  | .nan => t.nan
  | .inf neg => t.inf neg
  | .fin neg m e => (t.round rnd neg m e).1

/-- A signed integer magnitude clamped into the two's-complement range of w bits. -/
def clampInt (w : Nat) (v : Int) : Int :=
  if v < -(2 ^ (w - 1) : Nat) then -(2 ^ (w - 1) : Nat) else if (2 ^ (w - 1) : Nat) ≤ v then (2 ^ (w - 1) : Nat) - 1 else v

/-- A value put into an integer type (R200): rounded, then clamped; infinities give the range ends, a NaN 0. -/
def ElemType.encodeInt (t : ElemType) (rnd : RoundMode) : Value → Nat
  | .nan => 0
  | .inf neg => unsignedOf (clampInt t.width (if neg then -(2 ^ 64 : Nat) else (2 ^ 64 : Nat))) t.width
  | .fin neg m e =>
    let q := roundInt rnd neg m e
    unsignedOf (clampInt t.width (if neg then -(q : Int) else q)) t.width

/-! ### Exact arithmetic (R198) -/

/-- A signed magnitude at an exponent no higher than its own, as an integer. -/
def scaled (neg : Bool) (m : Nat) (e low : Int) : Int :=
  let x : Int := m * 2 ^ (e - low).toNat
  if neg then -x else x

/-- The sign of an exact zero sum: the common sign of two zeros, else − in RD and + otherwise. -/
def zeroSum (rnd : RoundMode) (a b : Bool) : Bool := if a = b then a else decide (rnd = 3)

/-- The exact sum of two values, as a value; for a zero sum with its sign. -/
def addValue (rnd : RoundMode) : Value → Value → Value
  | .nan, _ => .nan
  | _, .nan => .nan
  | .inf a, .inf b => if a = b then .inf a else .nan
  | .inf a, _ => .inf a
  | _, .inf b => .inf b
  | .fin a m e, .fin b n f =>
    let low := if e ≤ f then e else f
    let x := scaled a m e low + scaled b n f low
    if x = 0 then .fin (if m = 0 ∧ n = 0 then zeroSum rnd a b else decide (rnd = 3)) 0 0
    else .fin (decide (x < 0)) x.natAbs low

/-- The exact product of two values. -/
def mulValue : Value → Value → Value
  | .nan, _ => .nan
  | _, .nan => .nan
  | .inf a, .inf b => .inf (a != b)
  | .inf a, .fin b n _ => if n = 0 then .nan else .inf (a != b)
  | .fin a m _, .inf b => if m = 0 then .nan else .inf (a != b)
  | .fin a m e, .fin b n f => .fin (a != b) (m * n) (e + f)

/-- A value with its sign changed. -/
def Value.neg : Value → Value
  | .nan => .nan
  | .inf a => .inf (!a)
  | .fin a m e => .fin (!a) m e

/-- a < b of two values that are no NaNs; the zeros are equal. -/
def ltValue : Value → Value → Bool
  | .fin a m e, .fin b n f =>
    let low := if e ≤ f then e else f
    decide (scaled a m e low < scaled b n f low)
  | .inf a, .inf b => a && !b
  | .inf a, .fin _ _ _ => a
  | .fin _ _ _, .inf b => !b
  | _, _ => false

/-- Whether a value is negative, −0 included. -/
def Value.isNeg : Value → Bool
  | .nan => false
  | .inf a => a
  | .fin a _ _ => a

/-- VFMAX and VFMIN of two elements (R198): −0 below +0; a NaN gives the other operand. -/
def pickFloat (t : ElemType) (largest : Bool) (x y : Nat) : Nat :=
  match t.value x, t.value y with
  | .nan, .nan => t.nan
  | .nan, _ => y
  | _, .nan => x
  | a, b =>
    let less := ltValue a b || (!ltValue b a && a.isNeg && !b.isNeg)
    if less = largest then y else x

/-- A floating operation on elements: the exact value rounded once (R198). -/
def fadd (t : ElemType) (rnd : RoundMode) (x y : Nat) : Nat := t.encode rnd (addValue rnd (t.value x) (t.value y))

def fsub (t : ElemType) (rnd : RoundMode) (x y : Nat) : Nat := t.encode rnd (addValue rnd (t.value x) (t.value y).neg)

def fmul (t : ElemType) (rnd : RoundMode) (x y : Nat) : Nat := t.encode rnd (mulValue (t.value x) (t.value y))

/-- (±x × y) + (±z), rounded once. -/
def ffma (t : ElemType) (rnd : RoundMode) (nm na : Bool) (x y z : Nat) : Nat :=
  let p := mulValue (t.value x) (t.value y)
  let p := if nm then p.neg else p
  let c := if na then (t.value z).neg else t.value z
  t.encode rnd (addValue rnd p c)

/-! ### S10 codes (R23, R24, R42) -/

/-- The significand of an S10 code in quarters, 4 + F. -/
def s10Sig (c : Nat) : Nat := 4 + bits c 1 0

/-- The exponent field of an S10 code. -/
def s10Exp (c : Nat) : Nat := bits c 9 2

/-- mag × 2^exp ≤ k × value(c): value(c) = (4 + F) × 2^(E − 129). -/
def fitsScale (k mag : Nat) (exp : Int) (c : Nat) : Bool :=
  let d := exp - ((s10Exp c : Int) - 129)
  if 0 ≤ d then decide (mag * 2 ^ d.toNat ≤ k * s10Sig c) else decide (mag ≤ k * s10Sig c * 2 ^ (-d).toNat)

/-- How many S10 codes, from the smallest up, do not suffice for mag × 2^exp ≤ k × s; by halving. -/
def tooSmall (k mag : Nat) (exp : Int) : Nat :=
  (List.range 10).foldl (fun c i =>
    let d := c + 2 ^ (9 - i)
    if decide (d ≤ 0x3FC) && !fitsScale k mag exp (d - 1) then d else c) 0

/-- The smallest S10 s with mag × 2^exp ≤ k × s, and false; 0x3FB and true where none suffices; code 0 for 0. -/
def s10For (k mag : Nat) (exp : Int) : Nat × Bool :=
  if mag = 0 then (0, false)
  else
    let c := tooSmall k mag exp
    if c = 0x3FC then (0x3FB, true) else (c, false)

/-- RNE(x / s(c)) of x = (−1)^neg × mag × 2^exp (R42). -/
def quotientRne (neg : Bool) (mag : Nat) (exp : Int) (c : Nat) : Int :=
  let d := exp - ((s10Exp c : Int) - 129)
  let q := if 0 ≤ d then roundDiv 0 neg (mag * 2 ^ d.toNat) (s10Sig c)
    else roundDiv 0 neg mag (s10Sig c * 2 ^ (-d).toNat)
  if neg then -(q : Int) else q

/-- The integer clamped to −127..127, and whether it lay outside. -/
def clamp127 (x : Int) : Int × Bool :=
  if x < -127 then (-127, true) else if 127 < x then (127, true) else (x, false)

/-- The larger of two magnitudes m × 2^e. -/
def maxMag (x y : Nat × Int) : Nat × Int :=
  let low := if x.2 ≤ y.2 then x.2 else y.2
  if x.1 * 2 ^ (x.2 - low).toNat ≤ y.1 * 2 ^ (y.2 - low).toNat then y else x

/-! ### FP4 and E3M5 (R28, R29) -/

/-- The integer form of an FP4 element: twice its value. -/
def fp4Int (x : Nat) : Int :=
  let m : Int := ([0, 1, 2, 3, 4, 6, 8, 12] : List Int).getD (x % 8) 0
  if bit x 3 then -m else m

/-- Significand m′ and exponent e′ of an E3M5 byte. -/
def e3m5 (x : Nat) : Nat × Nat := if bits x 7 5 = 0 then (bits x 4 0, 1) else (32 + bits x 4 0, bits x 7 5)

end Sys2Proof.Machine
end

