-- ==== Sys2Proof/Machine/Mx.lean ====
section
/-!
DEFINITION. The matrix engine (spec/05_matrix_engine.md R156 to R183; spec/01_number_formats.md R36 to R49): tile descriptors and
their checks, stamped commands and occupancies, multiplication, promotion, rounding, export, saving and loading.
-/

namespace Sys2Proof.Machine

/-! ### Faults of MX (R162, R169) -/

/-- EWORD of an MX fault (R169). -/
def mxWord (tick why td fmterr acc : Nat) : DWord :=
  dw (tick % 2 ^ 32 * 2 ^ 32 + why * 2 ^ 28 + td * 2 ^ 24 + fmterr * 2 ^ 16 + acc)

/-- What the faults of a command name: its tick, the buffer it names, the descriptor last checked. -/
structure MxName where
  tick : Nat
  acc : Nat
  td : Nat := 0

/-- A fault of an MX command; an EINFO that the spec does not state is a free value. -/
def MxName.fault {α : Type} (x : MxName) (c : Cause) (einfo : Option DWord) (why fmterr : Nat) (note : TrapNote := .none) :
    M α := .error (.trap ⟨c, einfo, .raw (mxWord x.tick why x.td fmterr x.acc), note⟩)

/-- FORMAT with a reason, for the descriptor last checked. -/
def MxName.format {α : Type} (x : MxName) (fmterr : Nat) : M α := x.fault .format (some (dw x.td)) 0 fmterr

/-- FORMAT with a reason when a condition holds. -/
def MxName.formatIf (x : MxName) (b : Bool) (fmterr : Nat) : M Unit := if b then x.format fmterr else .ok ()

/-! ### Tile descriptors (R159 to R162) -/

/-- A descriptor's fields, bases in bytes. -/
structure Tile where
  fmt : Nat
  space : Nat
  base : Nat
  rows : Nat
  kb : Nat
  cols : Nat
  tail : Nat
  vfn : Nat
  mode : Nat
  stripe : Nat
  plane : Nat
  pitch : Nat
  band : Nat

/-- Word i of a descriptor. -/
def tdWord (d : BitVec 128) (i : Nat) : Nat := d.toNat / 2 ^ (32 * i) % 2 ^ 32

def tileOf (d : BitVec 128) : Tile where
  fmt := bits (tdWord d 0) 31 28
  space := bits (tdWord d 0) 27 24
  base := 16 * bits (tdWord d 0) 23 0
  rows := bits (tdWord d 1) 31 24 + 1
  kb := bits (tdWord d 1) 23 12 + 1
  cols := bits (tdWord d 1) 19 12 + 1
  tail := bits (tdWord d 1) 10 6
  vfn := bits (tdWord d 1) 2 2
  mode := bits (tdWord d 1) 1 0
  stripe := bits (tdWord d 2) 31 24
  plane := 16 * bits (tdWord d 2) 23 0
  pitch := 16 * bits (tdWord d 3) 31 16
  band := 64 * bits (tdWord d 3) 15 0

/-- The role in which a command names a descriptor. -/
inductive Role where
  | a | b | out
  deriving DecidableEq

/-- A nonzero res0 field of a descriptor (R159). -/
def tdRes0 (d : BitVec 128) : Bool :=
  let t := tileOf d
  let w1 := tdWord d 1
  bit w1 11 || decide (bits w1 5 3 ≠ 0) || (decide (t.fmt ≠ 3) && decide (t.tail ≠ 0 ∨ t.vfn ≠ 0 ∨ t.mode ≠ 0))
  || (decide (4 ≤ t.fmt) && decide (bits w1 23 20 ≠ 0)) || (decide (t.fmt ≠ 7) && decide (t.stripe ≠ 0))
  || ([3, 4, 5, 6, 8].contains t.fmt && decide (t.plane ≠ 0))
  || ((decide (t.space = 1) || decide (t.fmt = 8)) && decide (t.pitch ≠ 0)) || (decide (t.fmt ≠ 1) && decide (t.band ≠ 0))

/-- Bytes of a K-block of elements (R160). -/
def kbBytes (fmt : Nat) : Nat := if fmt = 1 then 16 else if fmt = 2 then 64 else 32

/-- Bytes of scale data per K-block. -/
def scaleBytes (fmt : Nat) : Nat := if fmt = 1 then 4 else 2

/-- The bytes of a veneer column slice (R7). -/
def sliceSize : Nat := 131072

/-- Bytes of a column of trellis blocks. -/
def Tile.tcwBytes (t : Tile) : Nat := ceilDiv t.kb 8 * ((tcwMode t.mode).getD default).bytes

/-- The byte ranges (veneer, start, length) that an MMA reads of an operand (R160): the bands of FP4 are read by MRND (R178). -/
def Tile.reads (t : Tile) : List (Bool × Nat × Nat) :=
  let rows := List.range t.rows
  let e := kbBytes t.fmt * t.kb
  let sc := scaleBytes t.fmt * t.kb
  if t.fmt = 3 then rows.map fun i => (true, i * sliceSize + t.base, t.tcwBytes)
  else if t.space = 1 then rows.flatMap fun i =>
    [(true, i * sliceSize + t.base, e), (true, i * sliceSize + t.plane, sc)]
  else rows.flatMap fun i => [(false, t.base + i * t.pitch, e), (false, t.plane + i * sc, sc)]

/-- Bytes of an output element. -/
def outBytes (fmt : Nat) : Nat := if fmt = 6 then 4 else if fmt = 7 then 1 else 2

/-- A region of a descriptor passes the scratchpad or the slice (FMTERR 4). -/
def Tile.past (t : Tile) : Bool :=
  let out := fun (a n : Nat) => decide (scratchSize < a + n)
  let slice := fun (a n : Nat) => decide (sliceSize < a + n)
  let cb := ceilDiv t.cols 32
  let e := kbBytes t.fmt * t.kb
  let sc := scaleBytes t.fmt * t.kb
  if t.fmt = 8 then out t.base (8 + t.rows * t.cols * 72)
  else if t.fmt = 7 then out t.base ((t.rows - 1) * t.pitch + 32 * cb) || out t.plane (2 * t.rows * cb)
  else if 4 ≤ t.fmt then out t.base ((t.rows - 1) * t.pitch + t.cols * outBytes t.fmt)
  else if t.fmt = 3 then slice t.base t.tcwBytes
  else (if t.space = 1 then slice t.base e || slice t.plane sc
      else out t.base ((t.rows - 1) * t.pitch + e) || out t.plane (t.rows * sc))
    || (decide (t.fmt = 1) && out t.band (2 * ceilDiv t.rows 64))

/-- The checks of one descriptor in its role (R162), in the order of FMTERR 1, 2, 5, 4, 8. -/
def checkTile (x : MxName) (d : BitVec 128) (role : Role) : M Tile := do
  let t := tileOf d
  let isOut := decide (4 ≤ t.fmt)
  x.formatIf (decide (9 ≤ t.fmt) || decide (2 ≤ t.space) || (decide (t.fmt = 3) && decide (t.mode = 0))) 1
  x.formatIf (isOut != decide (role = .out)) 2
  x.formatIf ((decide (t.space = 1) && decide (role ≠ .b)) || (decide (t.fmt = 3) && decide (role = .b) && decide (t.space = 0))) 1
  x.formatIf (tdRes0 d) 5
  x.formatIf t.past 4
  x.formatIf (decide (t.fmt = 7) && (decide (8 < t.stripe) || (decide (2 ≤ t.stripe) && decide (t.rows % t.stripe ≠ 0)))) 8
  .ok t

/-- Whether A and B form a pair of R31. -/
def pairOk (fa fb : Nat) : Bool := (decide (fa = 0 ∨ fa = 2) && decide (fb = 0 ∨ fb = 3)) || (decide (fa = 1) && decide (fb = 1))

/-! ### Operands (R26, R28, R32, R160, R177) -/

/-- A K-block: its S10 code, or the four E3M5 bytes of an FP4 block, and its 32 elements. -/
structure KBlock where
  scales : List Nat
  xs : List Int

/-- What MX of a core reads from (R168): the core's memories as they stand, but for the 64-byte pieces that are taken as they stood at
the issue edge. -/
structure MxView where
  s : State
  c : Nat
  kept : List ((Bool × Nat) × List Byte)

/-- The number under which a byte of a core's scratchpad or veneer share is known. -/
def ownPa (pkg core : Nat) (veneer : Bool) (off : Nat) : Nat := if veneer then veneerPa core off else scratchPa pkg core off

/-- A byte of the scratchpad or of the veneer share. -/
def MxView.byte (v : MxView) (veneer : Bool) (o : Nat) : Byte :=
  match Tab.find? v.kept (veneer, o / 64) with
  | some bs => bs.getD (o % 64) 0
  | none => if veneer then Mem.get (Tab.get v.s.veneer v.c []) o else v.s.rd (scratchPa v.s.pkg v.c o)

/-- Bytes of the scratchpad or of the veneer share, UNCORRECTABLE at the offset of the first that is (R450). -/
def mxRead (v : MxView) (x : MxName) (veneer : Bool) (off n : Nat) : M (List Byte) :=
  let bs := (List.range n).map fun i => v.byte veneer (off + i)
  let pas := (List.range n).map fun i => ownPa v.s.pkg v.c veneer (off + i)
  match v.s.firstBad pas with
  | some i => x.fault .uncorrectable (some (dw (off + i))) 0 0
      (.errorRecord 10 (codewordOf (v.s.direct (pas.getD i 0))) none)
  | none => .ok bs

/-- The words of the first m rows and n columns of a buffer. -/
def accWords (c : Nat) (second : Bool) (m n : Nat) : List Nat :=
  (List.range m).flatMap fun i => (List.range n).flatMap fun j => accPas c second (256 * i + j)

/-- The first m rows and n columns of a buffer are read (R450): UNCORRECTABLE where an element is; the spec states no EINFO. -/
def accRead (v : MxView) (x : MxName) (second : Bool) (m n : Nat) : M Unit :=
  if v.s.ecc.isEmpty then .ok () else
  let pas := accWords v.c second m n
  match v.s.firstBad pas with
  | some i => x.fault .uncorrectable none 0 0 (.errorRecord 10 (codewordOf (pas.getD i 0)) none)
  | none => .ok ()

/-- A scale code that may be applied: SCALE_INVALID at the offset of its word (R23). -/
def applied (x : MxName) (code off : Nat) : M Nat :=
  if s10Exp code = 255 then x.fault .scaleInvalid (some (dw off)) 0 0 else .ok code

/-- The signed elements of one K-block's bytes; a CODED16 slice: 0 low unsigned, 1 high signed (R32). -/
def elements (fmt slice : Nat) (bs : List Byte) : List Int :=
  if fmt = 1 then bs.flatMap fun b => [fp4Int (b.toNat % 16), fp4Int (b.toNat / 16)]
  else if fmt = 2 then (List.range 32).map fun i =>
    if slice = 0 then ((bs.getD (2 * i) 0).toNat : Int) else sextInt (bs.getD (2 * i + 1) 0).toNat 8
  else bs.map fun b => sextInt b.toNat 8

/-- The K-blocks of a row or column of an SXI8, FP4 or CODED16 operand. EINFO of a scale word in the veneer is its offset in the core's
whole share, column x × 128 KiB + offset in its slice: DESIGN CHOICE, R175 says 'offset of the word' and not in what (log entry 68). -/
def gatherRow (m : MxView) (x : MxName) (t : Tile) (slice i : Nat) : M (List KBlock) := do
  let v := decide (t.space = 1)
  let eb := kbBytes t.fmt
  let sb := scaleBytes t.fmt
  let po := if v then i * sliceSize + t.plane else t.plane + i * t.kb * sb
  let es ← mxRead m x v (if v then i * sliceSize + t.base else t.base + i * t.pitch) (eb * t.kb)
  let ps ← mxRead m x v po (sb * t.kb)
  (List.range t.kb).mapM fun k => do
    let xs := elements t.fmt slice ((es.drop (eb * k)).take eb)
    let sc := (ps.drop (sb * k)).take sb
    if t.fmt = 1 then .ok ⟨sc.map BitVec.toNat, xs⟩
    else
      let w := leNat sc
      x.formatIf (decide (1024 ≤ w)) 6
      let code ← applied x w (po + sb * k)
      .ok ⟨[code], xs⟩

/-- The K-blocks of a column of trellis blocks (R50, R51, R160). -/
def gatherTcw (v : MxView) (x : MxName) (t : Tile) (tbl : List Byte) (i : Nat) : M (List KBlock) := do
  let m := (tcwMode t.mode).getD default
  let used := 32 * (t.kb - 1) + (if t.tail = 0 then 32 else t.tail)
  let table := if t.vfn = 1 then some tbl else none
  (List.range t.kb).mapM fun k => do
    let off := i * sliceSize + t.base + k / 8 * m.bytes
    let blk ← mxRead v x true off m.bytes
    let sw := wordAt blk 0
    x.formatIf (decide (bits sw 31 20 ≠ 0)) 6
    let code ← applied x (scaleOf sw (32 * (k % 8))) off
    let st := leNat (blk.drop 4)
    .ok ⟨[code], (List.range 32).map fun e =>
      if used ≤ 32 * k + e then 0 else weightAt m table st (32 * (k % 8) + e)⟩

/-- All rows or columns of an operand. -/
def gather (v : MxView) (x : MxName) (t : Tile) (tbl : List Byte) (slice : Nat) : M (List (List KBlock)) :=
  (List.range t.rows).mapM fun i => if t.fmt = 3 then gatherTcw v x t tbl i else gatherRow v x t slice i

/-! ### Elements and promotion (R36, R37, R47, R84) -/

/-- The contents of an element of a buffer. -/
def Acc.elem (b : Acc) (k : Nat) : Elem :=
  match Tab.find? b.elems k with
  | some e => e
  | none => match b.base with
    | .zero => Elem.zero
    | .undef seed second => Config.freeElem seed second k

/-- A lowest-shift mark lowered to a shift. -/
def lowerMark (m : Option Nat) (shift : Nat) : Option Nat :=
  match m with
  | none => some shift
  | some x => some (min x shift)

/-- The lower of two marks. -/
def joinMarks (a b : Option Nat) : Option Nat :=
  match b with
  | none => a
  | some x => lowerMark a x

/-- (M:G) of an element in FA mode. -/
def Elem.mg (e : Elem) : Int := e.m.toInt * 65536 + e.gd.toNat

/-- An element with (M:G) and X replaced. -/
def Elem.setMg (e : Elem) (v x : Int) : Elem :=
  { e with m := BitVec.ofInt 64 (v / 65536), gd := BitVec.ofInt 16 v, x := BitVec.ofInt 16 x }

/-- P × 2^exp added in FA mode (R47); none for HEADROOM. -/
def Elem.faAdd (e : Elem) (p exp : Int) : Option Elem :=
  let x := if e.mg = 0 then exp else e.x.toInt
  let d := exp - x + 16
  let a := if 0 ≤ d then p * 2 ^ d.toNat else p / 2 ^ (-d).toNat
  let v := e.mg + a
  if v < -(2 ^ 79 : Nat) ∨ (2 ^ 79 : Nat) ≤ v then none else some (e.setMg v x)

/-- W of an exact sum: of one that does not fit, which no tile of at most 2^32 K-blocks comes to, the spec states no value (R39). -/
def wideSum (v : Int) : BitVec 576 := if (BitVec.ofInt 576 v).toInt = v then BitVec.ofInt 576 v else Config.wideAcc v

/-- Promote (R84): W and the mark. -/
def Elem.promote (e : Elem) (mark : Option Nat) (v : Int) (shift : Nat) : Elem × Option Nat :=
  ({ e with w := wideSum (e.w.toInt + v * 2 ^ shift) }, lowerMark mark shift)

/-- f = (4 + Fa)(4 + Fb) and Ea + Eb of a pair of S10 codes. -/
def pairScale (p : Nat × Nat) : Nat × Nat := (s10Sig p.1 * s10Sig p.2, s10Exp p.1 + s10Exp p.2)

/-- The pending inner accumulator of the ordinary or low slice promoted; count and pair restart. -/
def Elem.flushLow (fa : Bool) (e : Elem) (mark : Option Nat) : Option (Elem × Option Nat) :=
  match e.pair with
  | none => some (e, mark)
  | some p =>
    let (f, sh) := pairScale p
    let r := { e with i := 0, count := 0, pair := none }
    if fa then (r.faAdd (e.i * f) ((sh : Int) - 258)).map fun r => (r, mark) else some (r.promote mark (e.i * f) sh)

/-- The pending inner accumulator of the high slice promoted, at 8 more. -/
def Elem.flushHigh (e : Elem) (mark : Option Nat) : Elem × Option Nat :=
  match e.pairHigh with
  | none => (e, mark)
  | some p =>
    let (f, sh) := pairScale p
    ({ e with iHigh := 0, countHigh := 0, pairHigh := none } : Elem).promote mark (e.iHigh * f) (sh + 8)

/-- Everything pending in an element promoted. -/
def Elem.flush (fa : Bool) (e : Elem) (mark : Option Nat) : Option (Elem × Option Nat) :=
  (e.flushLow fa mark).map fun x => x.1.flushHigh x.2

/-- The sum of products of two blocks' elements. -/
def dot (a b : List Int) : Int := ((a.zip b).map fun p => p.1 * p.2).foldl (· + ·) 0

/-- One K-block of the integer class into an element (R175, R176): slice 1 is CODED16's high slice. An MPI that sets PI at or below an
element's pending count leaves count = PI unmet until a promotion of another kind; I is then kept exact, above 32 bits too: DESIGN CHOICE,
R37, R38 and R175 do not say what then becomes of I. -/
def Elem.block (fa : Bool) (pi slice : Nat) (a b : KBlock) (e : Elem) (mark : Option Nat) : Option (Elem × Option Nat) :=
  let pair := (a.scales.headD 0, b.scales.headD 0)
  let x := dot a.xs b.xs
  if slice = 1 then
    let (e, mark) := if e.pairHigh.isSome && decide (e.pairHigh ≠ some pair) then e.flushHigh mark else (e, mark)
    let e := { e with iHigh := e.iHigh + x, countHigh := e.countHigh + 1, pairHigh := some pair }
    some (if e.countHigh = pi then e.flushHigh mark else (e, mark))
  else
    (if e.pair.isSome && decide (e.pair ≠ some pair) then e.flushLow fa mark else some (e, mark)).bind fun (e, mark) =>
      let e := { e with i := e.i + x, count := e.count + 1, pair := some pair }
      if e.count = pi then e.flushLow fa mark else some (e, mark)

/-- One K-block of FP4 into an element: its four sub-blocks, each promoted (R36, R37). -/
def Elem.fp4Block (a b : KBlock) (e : Elem) (mark : Option Nat) : Elem × Option Nat :=
  (List.range 4).foldl (fun (r : Elem × Option Nat) n =>
    let (ma, ea) := e3m5 (a.scales.getD n 0)
    let (mb, eb) := e3m5 (b.scales.getD n 0)
    let x := dot ((a.xs.drop (8 * n)).take 8) ((b.xs.drop (8 * n)).take 8)
    r.1.promote r.2 (x * (ma * mb : Nat)) (ea + eb + 238)) (e, mark)

/-- All K-blocks of a row and a column into an element, then the forced promotion of MMA's fn<1>. -/
def Elem.product (fa fp4 : Bool) (pi slice : Nat) (force : Bool) (as bs : List KBlock) (e : Elem) :
    Option (Elem × Option Nat) :=
  let r := (as.zip bs).foldl (fun (r : Option (Elem × Option Nat)) ab => r.bind fun (e, mark) =>
    if fp4 then some (e.fp4Block ab.1 ab.2 mark) else e.block fa pi slice ab.1 ab.2 mark) (some (e, none))
  if force then r.bind fun x => x.1.flush fa x.2 else r

/-- A zeroed buffer of the same mode (R40, R174). -/
def Acc.zeroed (b : Acc) (fa : Bool) : Acc := { Acc.reset with fa := fa, final := b.final }

/-- A buffer with the elements of m rows and n columns replaced. -/
def Acc.replace (b : Acc) (m n : Nat) (es : List (Nat × Elem)) : Acc :=
  { b with elems := es ++ b.elems.filter fun e => !(decide (e.1 / 256 < m) && decide (e.1 % 256 < n)) }

/-- Every pending inner accumulator of a buffer promoted (R37); none for HEADROOM. -/
def Acc.flush (b : Acc) : Option Acc :=
  ((b.elems.mapM fun ke => (ke.2.flush b.fa none).map fun r => ((ke.1, r.1), r.2)) : Option _).map fun rs =>
    { b with elems := rs.map (·.1), mark := (rs.map (·.2)).foldl joinMarks b.mark }

/-- What a stamped command does at its end. -/
structure MxEffect where
  acc : Option Acc := none
  writes : List (Nat × Byte) := []
  tbl : Option (List Byte) := none
  post : Option (Nat × Nat) := none
  ofl : Bool := false
  sat : Bool := false

/-! ### Products (R175, R176) -/

/-- The sums of an MMA or MMAS in its buffer. Where several scale words of one command are bad, the fault of the first is raised, the rows
of A before the columns of B, of one word FORMAT before SCALE_INVALID: DESIGN CHOICE, R25 and R175 give no order between them. -/
def product (v : MxView) (xa xb : MxName) (ta tb : Tile) (second : Bool) (acc : Acc) (tbl : List Byte) (pi : Nat) (zero force : Bool)
    (slice : Option Nat) : M MxEffect := do
  let fp4 := decide (ta.fmt = 1)
  let ra ← gather v xa ta tbl (slice.getD 0)
  let rb ← gather v xb tb tbl 0
  if !zero then accRead v xb second ta.rows tb.rows
  let acc := if zero then acc.zeroed acc.fa else acc
  let acc := if acc.cls = 0 then { acc with cls := if fp4 then 2 else 1, bandA := if fp4 then ta.band / 64 else 0,
                                            bandB := if fp4 then tb.band / 64 else 0 } else acc
  let acc := if slice = some 1 then { acc with blocksHigh := acc.blocksHigh + ta.kb } else { acc with blocks := acc.blocks + ta.kb }
  let cells := (List.range ta.rows).flatMap fun i => (List.range tb.rows).map fun j => (i, j)
  let out : Option (List ((Nat × Elem) × Option Nat)) := cells.mapM fun (i, j) =>
    ((acc.elem (256 * i + j)).product acc.fa fp4 pi (slice.getD 0) force (ra.getD i []) (rb.getD j [])).map
      fun r => ((256 * i + j, r.1), r.2)
  match out with
  | none => xb.fault .headroom none 0 0
  | some rs => .ok { acc := some { acc.replace ta.rows tb.rows (rs.map (·.1)) with
      mark := (rs.map (·.2)).foldl joinMarks acc.mark } }

/-! ### Rounding and export (R41 to R46, R178 to R180) -/

/-- A band scale (R30): FMTERR 9 for an infinity or a NaN. -/
def bandAt (v : MxView) (x : MxName) (off : Nat) : M (Bool × Nat × Int) := do
  let bs ← mxRead v x false off 2
  match ElemType.bf16.value (leNat bs) with
  | .fin neg m e => .ok (neg, m, e)
  | _ => x.format 9

/-- The exact value of an element that MRND rounds, as an integer times a power of two. -/
def Elem.exact (e : Elem) (fa : Bool) (ba bb : Bool × Nat × Int) : Int × Int :=
  if fa then (e.mg, e.x.toInt - 16)
  else
    let v := e.w.toInt * (ba.2.1 * bb.2.1 : Nat)
    (if ba.1 != bb.1 then -v else v, ba.2.2 + bb.2.2 - 258)

/-- Floating outputs (R41): the bytes of the rows, and whether one overflowed. -/
def roundFloats (ty : ElemType) (rnd : Nat) (t : Tile) (v : Nat → Nat → Int × Int) : List (Nat × Byte) × Bool :=
  let n := ty.width / 8
  let rs := (List.range t.rows).flatMap fun i => (List.range t.cols).map fun j =>
    let (x, e) := v i j
    let (b, o) := if x = 0 then (0, false) else ty.round rnd (decide (x < 0)) x.natAbs e
    (cellsAt (t.base + i * t.pitch + n * j) (leBytes n b), o)
  (rs.flatMap (·.1), rs.any (·.2))

/-- The scale of a stripe's block, whether none sufficed, and the quotients of its rows (R42, R43). -/
def stripeBlock (xs : List (Int × Int)) : Nat × Bool × List Int :=
  let m := (xs.map fun p => (p.1.natAbs, p.2)).foldl maxMag (0, 0)
  let (c, sat) := s10For 127 m.1 m.2
  (c, sat, xs.map fun p => (clamp127 (quotientRne (decide (p.1 < 0)) p.1.natAbs p.2 c)).1)

/-- An SXI8 output (R42, R43, R161): elements, scale words, and whether SAT is set. -/
def roundSxi8 (t : Tile) (v : Nat → Nat → Int × Int) : List (Nat × Byte) × Bool :=
  let k := if t.stripe < 2 then 1 else t.stripe
  let h := t.rows / k
  let cb := ceilDiv t.cols 32
  let rs := (List.range h).flatMap fun i => (List.range cb).map fun b =>
    let at_ := fun (g j : Nat) => if 32 * b + j < t.cols then v (i + g * h) (32 * b + j) else (0, 0)
    let (c, sat, qs) := stripeBlock ((List.range k).flatMap fun g => (List.range 32).map (at_ g))
    let cells := (List.range k).flatMap fun g =>
      let row := i + g * h
      ((List.range 32).map fun j => (t.base + row * t.pitch + 32 * b + j, BitVec.ofInt 8 (qs.getD (32 * g + j) 0)))
      ++ cellsAt (t.plane + 2 * (row * cb + b)) (leBytes 2 c)
    (cells, sat)
  (rs.flatMap (·.1), rs.any (·.2))

/-- Whether an integer fits n 64-bit words. -/
def fitsWords (n : Nat) (v : Int) : Bool := decide (-(2 ^ (64 * n - 1) : Nat) ≤ v) && decide (v < (2 ^ (64 * n - 1) : Nat))

/-- A Tile Window Result (R44, R46). -/
def twrImage (t : Tile) (b : Acc) : List Byte :=
  let lo := match b.mark with
    | none => 0
    | some l => l / 64 * 64
  let es := (List.range t.rows).flatMap fun i => (List.range t.cols).map fun j =>
    if b.mark.isNone then 0 else (b.elem (256 * i + j)).w.toInt / 2 ^ lo
  let n := if b.mark.isNone then 1 else ((List.range 9).find? fun n => es.all (fitsWords (n + 1))).getD 8 + 1
  leBytes 8 (t.cols * 2 ^ 48 + t.rows * 2 ^ 32 + n * 2 ^ 16 + lo) ++ es.flatMap fun e => leBytes (8 * n) (unsignedOf e (64 * n))

/-- The scratchpad bytes of a core that are written at offsets. -/
def toScratch (pkg k : Nat) (cells : List (Nat × Byte)) : List (Nat × Byte) := cells.map fun c => (scratchPa pkg k c.1, c.2)

/-- FP4 sums: their bands are applied at the rounding; in FA mode every band is 1 (R49). -/
def Acc.banded (b : Acc) : Bool := decide (b.cls = 2) && !b.fa

/-- Where MRND of a tile reads bands (R178). -/
def Acc.bandReads (b : Acc) (t : Tile) : List (Bool × Nat × Nat) :=
  if b.banded then [(false, 64 * b.bandA, 2 * ceilDiv t.rows 64), (false, 64 * b.bandB, 2 * ceilDiv t.cols 64)] else []

/-- The n bands from a place of 64-byte units on. -/
def bandsOf (v : MxView) (x : MxName) (b : Acc) (at_ n : Nat) : M (List (Bool × Nat × Int)) :=
  (List.range n).mapM fun i => if b.banded then bandAt v x (64 * at_ + 2 * i) else .ok (false, 1, 0)

/-- A buffer's pending inner accumulators promoted before it is read (R37). In FA mode the promotion may raise HEADROOM: DESIGN CHOICE,
the command that makes it raises it, where R47 speaks of the MMA only. -/
def Acc.promoted (b : Acc) (x : MxName) : M Acc :=
  match b.flush with
  | none => x.fault .headroom none 0 0
  | some b => .ok b

/-- A buffer exported (R44, R46, R179, R180). -/
def exported (v : MxView) (x : MxName) (t : Tile) (second : Bool) (acc : Acc) (post : Option Nat) : M MxEffect := do
  accRead v x second t.rows t.cols
  let b ← acc.promoted x
  .ok { acc := some b, writes := toScratch v.s.pkg v.c (cellsAt t.base (twrImage t b)),
        post := post.map fun tag => (tag, scratchPa v.s.pkg v.c t.base) }

/-- A buffer rounded (R178): bands first, then what is pending in it promoted. -/
def rounded (v : MxView) (x : MxName) (t : Tile) (second : Bool) (acc : Acc) (rnd : Nat) : M MxEffect := do
  let one := (false, 1, (0 : Int))
  let as ← bandsOf v x acc acc.bandA (ceilDiv t.rows 64)
  let bs ← bandsOf v x acc acc.bandB (ceilDiv t.cols 64)
  if t.fmt = 8 then exported v x t second acc none
  else
    accRead v x second t.rows t.cols
    let b ← acc.promoted x
    let value := fun (i j : Nat) => (b.elem (256 * i + j)).exact b.fa (as.getD (i / 64) one) (bs.getD (j / 64) one)
    let (cells, ofl, sat) :=
      if t.fmt = 7 then
        let (w, q) := roundSxi8 t value
        (w, false, q)
      else
        let ty : ElemType := if t.fmt = 4 then .bf16 else if t.fmt = 5 then .fp16 else .fp32
        let (w, q) := roundFloats ty rnd t value
        (w, q, false)
    .ok { acc := some b, writes := toScratch v.s.pkg v.c cells, ofl := ofl, sat := sat }

/-! ### Images (R177, R182) -/

/-- A 64-byte aligned image of n bytes in the scratchpad: MISALIGN, then FMTERR 4. -/
def imageAt (x : MxName) (v : DWord) (n : Nat) : M Nat := do
  if v.toNat % 64 ≠ 0 then x.fault .misalign (some v) 0 0
  if scratchSize < v.toNat + n then x.fault .format none 0 4
  .ok v.toNat

/-- The two header words of a buffer's image. -/
def Acc.header (b : Acc) : Nat × Nat :=
  ((b.mark.getD 0) * 2 ^ 16 + b2n b.mark.isNone * 8 + b.cls * 2 + b2n b.fa,
    if b.cls = 2 then b.bandB * 2 ^ 16 + b.bandA else 0)

/-- The bytes of an element in an image. -/
def Elem.image (fa : Bool) (e : Elem) : List Byte :=
  if fa then leBytes 8 e.m.toNat ++ leBytes 2 e.x.toNat ++ leBytes 2 e.gd.toNat ++ [0, 0, 0, 0] else leBytes 72 e.w.toNat

/-- The image of a buffer. -/
def Acc.image (b : Acc) : List Byte :=
  leBytes 4 b.header.1 ++ leBytes 4 b.header.2 ++ List.replicate 56 0
    ++ (List.range 65536).flatMap fun k => (b.elem k).image b.fa

/-- The size of an image. -/
def imageSize (fa : Bool) : Nat := 64 + 65536 * (if fa then 16 else 72)

/-- The engine cycles of a save or load. -/
def imageCycles (fa : Bool) : Nat := if fa then 1088 else 4672

/-- A header that breaks R182. -/
def imageBad (w : List Word) : Bool :=
  let w0 := wd w 0
  let cls := bits w0 2 1
  decide (bits w0 31 26 ≠ 0) || decide (bits w0 15 4 ≠ 0) || decide (cls = 3) || decide (516 < bits w0 25 16)
  || (bit w0 3 && decide (bits w0 25 16 ≠ 0)) || (decide (cls ≠ 2) && decide (wd w 1 ≠ 0))
  || (List.range 14).any fun i => decide (wd w (2 + i) ≠ 0)

/-- An element of an image. -/
def elemOfImage (fa : Bool) (bs : List Byte) : Elem :=
  if fa then { Elem.zero with m := BitVec.ofNat 64 (leNat (bs.take 8)), x := BitVec.ofNat 16 (leNat ((bs.drop 8).take 2)),
                              gd := BitVec.ofNat 16 (leNat ((bs.drop 10).take 2)) }
  else { Elem.zero with w := BitVec.ofNat 576 (leNat (bs.take 72)) }

/-- The contents of a buffer from an image's elements. -/
def accOfImage (w : List Word) (final : Nat) (body : List Byte) : Acc :=
  let w0 := wd w 0
  let fa := bit w0 0
  let n := if fa then 16 else 72
  { fa := fa, cls := bits w0 2 1, bandA := bits (wd w 1) 15 0, bandB := bits (wd w 1) 31 16,
    mark := if bit w0 3 then none else some (bits w0 25 16), base := .zero,
    elems := (List.range 65536).map fun k => (k, elemOfImage fa ((body.drop (n * k)).take n)), final := final, blocks := 0,
    blocksHigh := 0 }

/-- The body of an image whose header has been checked, loaded (R182). -/
def loaded (v : MxView) (x : MxName) (o : Nat) (w : List Word) (stop : Nat) : M MxEffect := do
  let fa := bit (wd w 0) 0
  let body ← mxRead v x false (o + 64) (imageSize fa - 64)
  if fa && (List.range 65536).any fun e => decide (leNat ((body.drop (16 * e + 12)).take 4) ≠ 0) then
    x.fault .format none 0 5
  .ok { acc := some (accOfImage w stop body) }

/-! ### Stamped commands (R163 to R168) -/

/-- A stamped command that has passed R162: its unit, occupancy, buffer, whether it needs it final, the descriptor last checked, where
it reads, whether it moves an image, what it reads memory for, and its effect. -/
structure MxPlan where
  array : Bool
  cycles : Nat
  buf : Option Bool
  needsFinal : Bool
  td : Nat := 0
  reads : List (Bool × Nat × Nat) := []
  image : Bool := false
  op : Option MxOp := none
  run : M MxEffect

/-- A buffer of MX. -/
def MxState.buf (m : MxState) (b : Bool) : Acc := if b then m.acc1 else m.acc0

def MxState.setBuf (m : MxState) (b : Bool) (x : Acc) : MxState := if b then { m with acc1 := x } else { m with acc0 := x }

/-- What a command reads memory for, read from a view: the buffer that it names, TBL. -/
def MxOp.effect (o : MxOp) (v : MxView) (x : MxName) : M MxEffect :=
  let m := (v.s.core v.c).mx
  match o with
  | .multiply a b na nb buf pi zero force slice =>
    product v { x with td := na } { x with td := nb } (tileOf a) (tileOf b) buf (m.buf buf) m.tbl pi zero force slice
  | .table off => do
    let t ← mxRead v x false off 256
    .ok { tbl := some t }
  | .round t nt buf rnd => rounded v { x with td := nt } (tileOf t) buf (m.buf buf) rnd
  | .load off w stop => loaded v x off w stop

/-- The 64-byte pieces that some ranges touch, as they stand. -/
def MxView.pieces (v : MxView) (rs : List (Bool × Nat × Nat)) : List ((Bool × Nat) × List Byte) :=
  rs.flatMap fun r =>
    let first := r.2.1 / 64
    (List.range ((r.2.1 + r.2.2 - 1) / 64 + 1 - first)).map fun i =>
      ((r.1, first + i), (List.range 64).map fun j => v.byte r.1 (64 * (first + i) + j))

/-- A command in occupancy replaced. -/
def State.setFlight (s : State) (c : Nat) (f : MxFlight) : State :=
  let m := (s.core c).mx
  s.setCore c { s.core c with mx := { m with flight := m.flight.map fun x => if x.seq = f.seq then f else x } }

/-- What a command popped goes back to the heads of its queues, and the entries that it had reserved are free. A producer may have filled
the place meanwhile: DESIGN CHOICE, the queue then holds more than its entries until one is popped. -/
def State.unissue (s : State) (c : Nat) (f : MxFlight) : State :=
  let s := s.unreserve c .mx f.pushes
  s.setCore c (f.undo.popped.foldl (fun k p => k.setQueue p.1 .mx { k.queue p.1 .mx with toks := p.2 :: (k.queue p.1 .mx).toks })
    (s.core c))

/-- A command that has issued turns out to be at fault (R81, R165): it and every later one are discarded, the last first, and the stream
stands at it again, where it raises the cause; T has moved to its tick (R163). -/
def State.mxRecall (s : State) (c : Nat) (f : MxFlight) (t : Trap) : State :=
  let u := UnitId.eng .mx c
  let gone := (s.core c).mx.flight.filter fun x => decide (f.seq ≤ x.seq)
  let s := gone.reverse.foldl (fun s x => s.unissue c x) s
  let m := (s.core c).mx
  let s := s.setCore c { s.core c with mx := { m with flight := m.flight.filter fun x => decide (x.seq < f.seq)
                                                      td := f.undo.td, pi := f.undo.pi, tref := f.undo.tick } }
  let cur := s.cur
  { (({ s with cur := u } : State).setStream u f.undo.stream).trapNow t with cur := cur }

/-- A command settles what it sees of its operands (R168): of each 64-byte piece that has been written since its issue edge, the old or
the new bytes, a free choice. Where they break a check of the command, it raises the cause (R162, R165); where its stream has been stopped
meanwhile it sees the old ones. -/
def State.settleReads (s : State) (c : Nat) (f : MxFlight) : State × MxFlight × Option Trap :=
  let now : MxView := ⟨s, c, []⟩
  let changed := f.pieces.filter fun p => (List.range 64).any fun j => now.byte p.1.1 (64 * p.1.2 + j) ≠ p.2.getD j 0
  let f := { f with pieces := [] }
  match f.op, changed with
  | none, _ => (s, f, none)
  | some _, [] => (s, f, none)
  | some o, _ :: _ =>
    let (n, s) := s.draw
    let kept := ((List.range changed.length).filter fun i => (Config.freeByte n i).getLsbD 0).filterMap fun i => changed[i]?
    match o.effect ⟨s, c, kept⟩ ⟨f.undo.tick, b2n (f.buf.getD false), 0⟩ with
    | .ok r =>
      let acc := match r.acc, f.acc with
        | some a, some b => some { a with final := b.final }
        | a, _ => a
      (s, { f with acc := acc, writes := r.writes, todo := r.writes, tbl := r.tbl, ofl := r.ofl, sat := r.sat }, none)
    | .error (.trap t) =>
      let x := s.stream (.eng .mx c)
      (s, f, if decide (x.run = .running) && decide (x.job = some f.job) then some t else none)
    | .error _ => (s, f, none)

/-- Who makes MX's writes: the stream, for the job, at the command's place. -/
def State.mxWriter (s : State) (c : Nat) (f : MxFlight) : Writer := s.writerOf (.eng .mx c) f.job f.seq none 0 none

/-- A command writes one of the units that it still has to write, whichever. -/
def State.mxWrite (s : State) (c : Nat) (f : MxFlight) : State :=
  let us := unitsOf f.todo
  match us with
  | [] => s
  | u :: rest =>
    let (n, s) := s.draw
    let x := (u :: rest).getD (Config.freeNat n % (rest.length + 1)) u
    let gone := x.map (·.1)
    (s.setFlight c { f with todo := f.todo.filter fun w => !gone.contains w.1 }).perform x true (s.mxWriter c f)

/-- A command writes its buffer whole: MZERO, MLOAD, an MMA that zeroes. -/
def MxFlight.rewrites (f : MxFlight) : Bool :=
  match f.op with
  | some (.multiply _ _ _ _ _ _ zero _ _) => zero
  | some (.load _ _ _) => true
  | some _ => false
  | none => (f.acc.map fun a => decide (a.base = .zero) && a.elems.isEmpty).getD false

/-- The rows and columns of a buffer that a command reads. -/
def bufferRegion (o : Option MxOp) : Nat × Nat :=
  match o with
  | some (.multiply a b _ _ _ _ _ _ _) => ((tileOf a).rows, (tileOf b).rows)
  | some (.round t _ _ _) => ((tileOf t).rows, (tileOf t).cols)
  | _ => (256, 256)

/-- The elements that a command reads: those that are corrected are recorded and written back (R452). -/
def State.noteAcc (s : State) (c : Nat) (second : Bool) (o : Option MxOp) : State :=
  if s.ecc.isEmpty then s else
  let (m, n) := bufferRegion o
  s.noteReads s.cur (accWords c second m n)

/-- A buffer written whole holds no error any more (R452). -/
def State.healAcc (s : State) (c : Nat) (second : Bool) : State :=
  { s with ecc := s.ecc.filter fun e => decide (e.1 < accPa c second 0) || decide (accPa c second 65536 ≤ e.1) }

/-- A write of MX goes on: what an acquire has ordered before it is performed, and no earlier job's tracker entry covers a byte of it. One
that R288 holds up beyond its command's occupancy is made then: DESIGN CHOICE, R165 and R168 know no such delay. -/
def State.mxMayWrite (s : State) (c : Nat) (f : MxFlight) (cells : List (Nat × Byte)) : Bool :=
  cells.isEmpty || (s.inOrder (.eng .mx c) f.job f.seq && !s.trackedBefore c f.job (cells.map (·.1)))

/-- What a command holds until its end is done (R165, R167, R168, R179). A post of MXPT takes an entry of the tracker (R420): where all 64
are in use it neither waits nor misses: DESIGN CHOICE, R287 and R420 say nothing of it (log entry 68). -/
def State.mxEnd (s : State) (c : Nat) (f : MxFlight) : State :=
  let m := (s.core c).mx
  let m := { m with flight := m.flight.filter fun x => decide (x.seq ≠ f.seq) }
  let m := match f.buf, f.acc with
    | some b, some a => m.setBuf b a
    | _, _ => m
  let m := match f.tbl with
    | some t => { m with tbl := t }
    | none => m
  let s := s.setCore c { s.core c with mx := m }
  let s : State := match f.buf with
    | some b => if f.rewrites then s.healAcc c b else s
    | none => s
  let u := UnitId.eng .mx c
  let s := if (s.stream u).job = some f.job then s.setStream u ((s.stream u).stick f.ofl f.sat) else s
  let s := match f.post with
    | some (tag, pa) =>
      let image : List Byte := f.writes.map fun (w : Nat × Byte) => w.2
      let p : Post := ⟨tag, false, f.job, c, pa, image⟩
      { s with posts := s.posts ++ [p] }
    | none => s
  s.pushDone u c f.job f.seq f.pushes f.tag

/-- The commands before one in flight are known to be free of faults (R165). -/
def MxState.clearTo (m : MxState) (f : MxFlight) : Bool := m.flight.all fun x => decide (f.seq ≤ x.seq) || x.pieces.isEmpty

/-- The command of MX that goes on next: the oldest that has not settled what it reads, or that has a write that may be made or an
occupancy that has run out, every command before it known to be free of faults. -/
def State.mxGoes (s : State) (c : Nat) (f : MxFlight) : Bool :=
  (s.core c).mx.clearTo f && (!f.pieces.isEmpty || (!f.todo.isEmpty && s.mxMayWrite c f f.todo)
    || (decide (f.stop ≤ s.now) && f.todo.isEmpty))

/-- R167, R168: a command of MX settles what it reads, writes a piece of its result, or, its occupancy run out and nothing left to
write, ends. -/
def execMxOccupancyEnd (core : Nat) (s : State) : Host.Outcome State Fault Refusal :=
  happen s <|
    match (s.core core).mx.flight.find? (s.mxGoes core) with
    | none => none
    | some f =>
      if !f.pieces.isEmpty then
        match s.settleReads core f with
        | (s, _, some t) => some (s.mxRecall core f t)
        | (s, f, none) => some (s.setFlight core f)
      else if !f.todo.isEmpty then some (s.mxWrite core f)
      else some (s.mxEnd core f)

/-- A command of MX whose occupancy has run out may go on now (R165). -/
def State.mxRunOut (s : State) (c : Nat) : Bool :=
  (s.core c).mx.flight.any fun f => decide (f.stop ≤ s.now) && (!(s.core c).mx.clearTo f || s.mxGoes c f)

/-- The byte ranges of a core's own memories (veneer, start, length) that writes issued from it and not completed write: those of CX and
VL, stream transfers, and MX's port commands (R166). -/
def State.unwritten (s : State) (c : Nat) : List (Bool × Nat × Nat) :=
  let k := s.core c
  (k.cx.flatMap (·.mine)) ++ (k.sb.flatMap (·.mine))
  ++ (ownRanges s.pkg c ((s.pending.filter fun p => decide (p.who = .eng .cx c ∨ p.who = .eng .vl c)).flatMap fun p =>
    p.bytes.map fun b => .mem b.1))
  ++ (k.mx.flight.flatMap fun f => ownRanges s.pkg c (f.writes.map fun w => .mem w.1))
  ++ s.lcs.flatMap fun l => l.2.scb.flatMap fun e =>
    if e.kernel.isNone && !e.finished && decide (e.core = c) && !e.outbound then
      (List.range (wd e.record 5)).map fun q => (bit (wd e.record 2) 8, (xferLocal e.record q 0).toNat, wd e.record 4)
    else []

/-- The parts of a core's scratchpad that lie in the ranges of the tracker's entries of earlier jobs (R288). -/
def State.trackedRanges (s : State) (c : Nat) : List (Bool × Nat × Nat) :=
  let base := scratchPa s.pkg c 0
  (s.trackerSpans c fun k => s.earlierJob c k ((s.stream (.eng .mx c)).job.getD 0)).filterMap fun r => match r with
    | some (a, b) => if b < base ∨ base + scratchSize ≤ a then none else some (false, a - base, b + 1 - max a base)
    | none => none

/-- Two lists of ranges meet. -/
def rangesMeet (xs ys : List (Bool × Nat × Nat)) : Bool :=
  xs.any fun x => ys.any fun y => x.1 == y.1 && meets x.2.1 x.2.2 y.2.1 y.2.2

/-- The first SCHEDULE_MISS cause of a command at its issue edge (R166); 0 for none. -/
def State.missCause (s : State) (c : Nat) (p : MxPlan) (late noToken : Bool) : Nat :=
  let m := (s.core c).mx
  let port := m.flight.filter fun f => !f.array
  let notFinal := match p.buf with
    | none => false
    | some b => decide (s.now < (m.buf b).final) || m.flight.any fun f => decide (f.buf = some b)
  if late then 1
  else if noToken then 2
  else if !p.reads.isEmpty && rangesMeet p.reads (s.unwritten c ++ s.trackedRanges c) then 3
  else if p.array && m.flight.any (·.array) then 4
  else if (!p.array && !port.isEmpty) || (p.array && p.buf.isSome && port.any fun f => f.buf == p.buf) then 5
  else if p.needsFinal && notFinal then 6
  else 0

/-- The executing MX stream's core. -/
def mxCore (s : State) : M Nat :=
  match s.cur with
  | .eng .mx c => .ok c
  | _ => faultFree .illegal

/-- The reference tick moved to a command's tick. -/
def State.moveT (s : State) (c tick : Nat) : State :=
  s.setCore c { s.core c with mx := { (s.core c).mx with tref := tick } }

/-- A buffer that has received more than 2^32 K-blocks since it was zeroed: its contents are undefined (R39, log entry 25). -/
def Acc.spent (b : Acc) : Bool := decide (2 ^ 32 < max b.blocks b.blocksHigh)

/-- What a command does, the contents of a buffer that has received too much free. -/
def MxEffect.bounded (r : MxEffect) (s : State) (second : Bool) : State × MxEffect :=
  match r.acc with
  | some a =>
    if a.spent then
      let (n, s) := s.draw
      (s, { r with acc := some { a with base := .undef n second, elems := [] } })
    else (s, r)
  | none => (s, r)

/-- A stamped command at its issue edge: checks, tokens, then its occupancy. -/
def issueStamped (s : State) (c : Nat) (x : MxName) (q : Queued) (p : M MxPlan) : M State := do
  let p ← p
  let x := { x with td := p.td }
  let ps := maskEnds .mx q.pops
  let s := s.discardInto c .mx ps q.tag
  let offers := ps.map fun e => s.offer c e .mx q.tag
  let void := offers.any fun o => match o with
    | .closed => true
    | .head t => t.isVoid
    | .nothing => false
  if void && !(offers.contains .nothing) then
    let (s, _) := s.popInto c .mx q.tag ps
    .ok (((s.pushVoids c .mx q.pushes q.tag).setMe s.me.counted).retire)
  else
    let why := s.missCause c p (decide (10 * x.tick < q.reached)) (offers.contains .nothing)
    if why ≠ 0 then x.fault .scheduleMiss none why 0
    else match s.fullQueue c .mx q.pushes with
      | some e => x.fault .tokenOverflow (some (dw (endpointCode e))) 0 0
      | none =>
        let r ← p.run
        let (s, r) := r.bounded s (p.buf.getD false)
        let worn := (r.acc.map Acc.spent).getD false
        let undo : MxUndo := { tick := x.tick, stream := s.me, td := (s.core c).mx.td, pi := (s.core c).mx.pi
                               popped := (ps.zip offers).filterMap fun o => match o.2 with
                                 | .head t => some (o.1, t)
                                 | _ => none }
        let (s, _) := s.popInto c .mx q.tag ps
        let (n, s) := s.nextSeq
        let stop := s.now + p.cycles * cycleLen (s.core c).level
        let f : MxFlight :=
          { seq := n, array := p.array, stop := stop, job := s.me.job.getD 0, tag := q.tag, pushes := q.pushes,
            op := if worn then none else p.op,
            pieces := if worn then [] else MxView.pieces ⟨s, c, []⟩ p.reads, buf := p.buf,
            acc := r.acc.map fun a => if p.array then { a with final := stop + 520 * cycleLen (s.core c).level } else a,
            writes := r.writes, todo := r.writes, tbl := r.tbl, post := r.post, ofl := r.ofl, sat := r.sat, image := p.image, undo := undo }
        let s := s.noteReads s.cur (p.reads.flatMap fun g => (List.range g.2.2).map fun i => ownPa s.pkg c g.1 (g.2.1 + i))
        let s := match p.buf with
          | some b => if f.rewrites then s else s.noteAcc c b f.op
          | none => s
        let s := s.setCore c { s.core c with mx := { (s.core c).mx with flight := (s.core c).mx.flight ++ [f] } }
        .ok (((s.reserve c .mx q.pushes).setMe s.me.counted).retire)

/-- A stamped command (R163, R164, R337): it waits for its issue edge, and for the ends of the occupancies that have run out; its tick moves
T whatever becomes of it. Its own fault waits until the commands before it are known to be free of theirs (R165). -/
def stampedCommand (s : State) (tk : BitVec 3) (stamp : BitVec 11) (acc : Nat) (plan : State → Nat → MxName → M MxPlan) :
    Host.Outcome State Fault Refusal :=
  match mxCore s with
  | .error e => finish s (.error e)
  | .ok c =>
    let q := match s.me.queued with
      | some q => q
      | none =>
        let q := s.me.capture tk s.now
        { q with delta := s.me.pfx.delta stamp, stamped := true }
    let tick := s.stampTick c q.delta
    if !s.mxMayIssue c || decide (s.now < edgeAt (s.core c).level (10 * tick)) || s.mxRunOut c then .next (s.waitQueued q)
    else
      let x : MxName := ⟨tick, acc, 0⟩
      let t := s.moveT c tick
      match issueStamped t c x q (plan t c x) with
      | .ok r => .next r
      | .error e => if s.mxOpen s.cur then .next (s.waitQueued q) else finish t (.error e)

/-- An unstamped word of MX (R163): no command index, EWORD in the layout of R169. -/
def plainCommand (s : State) (tk : BitVec 3) (body : State → Nat → M State) : Host.Outcome State Fault Refusal :=
  let named := fun (e : Trap) => match e.eword with
    | .std _ _ => { e with eword := .raw (mxWord 0 0 0 0 0) }
    | .raw _ => e
  finish s <|
    match command s tk .issue (fun s _ => do let c ← mxCore s; body s c) with
    | .ok t => .ok (t.setMe { t.me with cmdIndex := s.me.cmdIndex })
    | .error (.trap e) => .error (.trap (named e))
    | .error (.trapIn t e) => .error (.trapIn t (named e))
    | .error e => .error e

/-! ### MTD, MSTB, MPI (R171 to R173) -/

/-- A descriptor of MX. -/
def State.td (s : State) (c : Nat) (n : BitVec 4) : BitVec 128 := (s.core c).mx.td[n.toNat]'(n.isLt)

/-- R171. -/
def execMtd (tk : BitVec 3) (t : BitVec 4) (a b : BitVec 5) (s : State) : Host.Outcome State Fault Refusal :=
  plainCommand s tk fun s c =>
    let m := (s.core c).mx
    .ok (s.setCore c { s.core c with mx := { m with td := m.td.set t.toNat (s.rg b ++ s.rg a) t.isLt } }).retire

/-- R172. -/
def execMstb (tk : BitVec 3) (a : BitVec 5) (f : BitVec 1) (s : State) : Host.Outcome State Fault Refusal :=
  plainCommand s tk fun s c =>
    let v := if f = 0 then s.rg a else s.rg a + s.pcyc
    .ok (s.moveT c v.toNat).retire

/-- The bound per K-block of a pair (R38), for the element formats of A. -/
def pairBound (fa : Nat) : Nat := if fa = 1 then 4608 else if fa = 2 then 1044480 else 524288

/-- R173. -/
def execMpi (tk : BitVec 3) (a : BitVec 5) (t u : BitVec 4) (s : State) : Host.Outcome State Fault Refusal :=
  plainCommand s tk fun s c => do
    let p := (s.rg a).toNat
    let x : MxName := ⟨0, 0, u.toNat⟩
    if p < 1 ∨ 64 < p then ({ x with td := 0 } : MxName).fault .promotionLimit (some (s.rg a)) 0 0
    let fa := (tileOf (s.td c t)).fmt
    x.formatIf (!pairOk fa (tileOf (s.td c u)).fmt) 2
    if 2 ^ 31 - 1 < p * pairBound fa then x.fault .promotionLimit (some (s.rg a)) 0 0
    .ok (s.setCore c { s.core c with mx := { (s.core c).mx with pi := p } }).retire

/-! ### MZERO, MMA, MMAS (R174 to R176) -/

/-- R174. -/
def execMzero (tk : BitVec 3) (c : BitVec 1) (st : BitVec 11) (m : BitVec 1) (s : State) :
    Host.Outcome State Fault Refusal :=
  stampedCommand s tk st c.toNat fun s k _ =>
    let b := decide (c = 1)
    let stop := s.now + 16 * cycleLen (s.core k).level
    .ok { array := false, cycles := 16, buf := some b, needsFinal := true,
          run := .ok { acc := some { ((s.core k).mx.buf b).zeroed (decide (m = 1)) with final := stop } } }

/-- MMA and MMAS: the plan. `slice` is none for MMA. -/
def multiply (s : State) (k : Nat) (x : MxName) (a b : BitVec 4) (buf zero force : Bool) (slice : Option Nat) : M MxPlan := do
  let xa := { x with td := a.toNat }
  let xb := { x with td := b.toNat }
  let ta ← checkTile xa (s.td k a) .a
  let tb ← checkTile xb (s.td k b) .b
  let acc := (s.core k).mx.buf buf
  xb.formatIf (!pairOk ta.fmt tb.fmt || (slice.isSome != decide (ta.fmt = 2)) || (acc.fa && slice.isNone && decide (ta.fmt ≠ 0))
    || (s.reduced && (slice.isSome || decide (ta.fmt ≠ 0) || decide (tb.fmt ≠ 0)))) 2
  xb.formatIf (decide (ta.kb ≠ tb.kb)) 3
  let fp4 := decide (ta.fmt = 1)
  xb.formatIf ((acc.fa && slice.isSome) || (!zero && decide (acc.cls ≠ 0) && (decide (acc.cls ≠ (if fp4 then 2 else 1))
    || (fp4 && decide (acc.bandA ≠ ta.band / 64 ∨ acc.bandB ≠ tb.band / 64))))) 7
  let op := MxOp.multiply (s.td k a) (s.td k b) a.toNat b.toNat buf (s.core k).mx.pi zero force slice
  .ok { array := true, cycles := (if fp4 then 16 else 32) * ta.kb, buf := some buf, needsFinal := false, td := b.toNat,
        reads := ta.reads ++ tb.reads, op := some op, run := op.effect ⟨s, k, []⟩ x }

/-- R175. -/
def execMma (tk : BitVec 3) (a b : BitVec 4) (c : BitVec 1) (st : BitVec 11) (f : BitVec 2) (s : State) :
    Host.Outcome State Fault Refusal :=
  stampedCommand s tk st c.toNat fun s k x => multiply s k x a b (decide (c = 1)) (bit f.toNat 0) (bit f.toNat 1) none

/-- R176. -/
def execMmas (tk : BitVec 3) (a b : BitVec 4) (c : BitVec 1) (st : BitVec 11) (f : BitVec 2) (s : State) :
    Host.Outcome State Fault Refusal :=
  stampedCommand s tk st c.toNat fun s k x => multiply s k x a b (decide (c = 1)) (bit f.toNat 1) false (some (f.toNat % 2))

/-! ### MTBL (R177) -/

/-- R177. -/
def execMtbl (tk : BitVec 3) (a : BitVec 5) (st : BitVec 11) (s : State) : Host.Outcome State Fault Refusal :=
  stampedCommand s tk st 0 fun s k x => do
    let o ← imageAt x (s.rg a) 256
    .ok { array := true, cycles := 8, buf := none, needsFinal := false, reads := [(false, o, 256)], op := some (.table o),
          run := (MxOp.table o).effect ⟨s, k, []⟩ x }

/-! ### MRND and MXPT (R178 to R180) -/

/-- FMTERR 7 for an FA buffer that is to be exported (R162). -/
def exportable (x : MxName) (t : Tile) (acc : Acc) : M Unit := x.formatIf (decide (t.fmt = 8) && acc.fa) 7

/-- R178. -/
def execMrnd (tk : BitVec 3) (t : BitVec 4) (c : BitVec 1) (st : BitVec 11) (r : BitVec 2) (s : State) :
    Host.Outcome State Fault Refusal :=
  stampedCommand s tk st c.toNat fun s k x => do
    let x := { x with td := t.toNat }
    let o ← checkTile x (s.td k t) .out
    let buf := decide (c = 1)
    let acc := (s.core k).mx.buf buf
    exportable x o acc
    let op := MxOp.round (s.td k t) t.toNat buf r.toNat
    .ok { array := false, cycles := 64 + (if o.fmt = 8 then 9 else 1) * o.rows, buf := some buf, needsFinal := true, td := t.toNat,
          reads := acc.bandReads o, op := some op, run := op.effect ⟨s, k, []⟩ x }

/-- R179: the post is made in a job whose card carries the coded-task flag. -/
def execMxpt (tk : BitVec 3) (t g : BitVec 4) (c : BitVec 1) (st : BitVec 11) (s : State) :
    Host.Outcome State Fault Refusal :=
  stampedCommand s tk st c.toNat fun s k x => do
    let x := { x with td := t.toNat }
    let o ← checkTile x (s.td k t) .out
    x.formatIf (decide (o.fmt ≠ 8)) 2
    let acc := (s.core k).mx.buf (decide (c = 1))
    exportable x o acc
    let task := match s.jobOf s.cur with
      | some j => cardFlag j.words 1
      | none => false
    .ok { array := false, cycles := 64 + 9 * o.rows, buf := some (decide (c = 1)), needsFinal := true, td := t.toNat,
          run := exported ⟨s, k, []⟩ x o (decide (c = 1)) acc (if task then some (dbits (s.rg (g.setWidth 5)) 31 0) else none) }

/-! ### MNORM (R48, R181) -/

/-- The elements of a buffer that need not be zero. -/
def Acc.held (b : Acc) : List Nat := if b.base = .zero then b.elems.map (·.1) else List.range 65536

/-- M >> n lies in −2^39..2^39 − 1. -/
def has24 (v : Int) : Bool := decide (-(2 ^ 39 : Nat) ≤ v) && decide (v < (2 ^ 39 : Nat))

/-- An element normalised; none for HEADROOM. -/
def Elem.norm (e : Elem) : Option Elem :=
  let first := ((List.range 64).find? fun n => has24 (e.m.toInt / 2 ^ n)).getD 0
  let v := rneInt e.mg (2 ^ first)
  let (n, v) := if has24 (v / 65536) then (first, v) else (first + 1, rneInt e.mg (2 ^ (first + 1)))
  if n = 0 then some e
  else if 32767 < e.x.toInt + n then none else some (e.setMg v (e.x.toInt + n))

/-- R181. -/
def execMnorm (tk : BitVec 3) (c : BitVec 1) (st : BitVec 11) (s : State) : Host.Outcome State Fault Refusal :=
  stampedCommand s tk st c.toNat fun s k x => do
    let buf := decide (c = 1)
    let acc := (s.core k).mx.buf buf
    if !acc.fa then x.fault .format none 0 7
    .ok { array := false, cycles := 256, buf := some buf, needsFinal := true,
          run := do
            accRead ⟨s, k, []⟩ x buf 256 256
            match acc.held.mapM fun k => (acc.elem k).norm.map fun e => (k, e) with
            | none => x.fault .headroom none 0 0
            | some es => .ok { acc := some { acc with elems := es } } }

/-! ### MSAVE and MLOAD (R182) -/

/-- R182. -/
def execMsave (tk : BitVec 3) (a : BitVec 5) (c : BitVec 1) (st : BitVec 11) (s : State) :
    Host.Outcome State Fault Refusal :=
  stampedCommand s tk st c.toNat fun s k x => do
    let buf := decide (c = 1)
    let acc := (s.core k).mx.buf buf
    let o ← imageAt x (s.rg a) (imageSize acc.fa)
    .ok { array := false, cycles := imageCycles acc.fa, buf := some buf, needsFinal := true, image := true,
          run := do
            accRead ⟨s, k, []⟩ x buf 256 256
            let b ← acc.promoted x
            .ok { acc := some b, writes := toScratch s.pkg k (cellsAt o b.image) } }

/-- R182: the header is checked before anything changes. -/
def execMload (tk : BitVec 3) (a : BitVec 5) (c : BitVec 1) (st : BitVec 11) (s : State) :
    Host.Outcome State Fault Refusal :=
  stampedCommand s tk st c.toNat fun s k x => do
    let o ← imageAt x (s.rg a) 64
    let hd ← mxRead ⟨s, k, []⟩ x false o 64
    let w := wordsOf hd 16
    if imageBad w then x.fault .format none 0 11
    let fa := bit (wd w 0) 0
    let o ← imageAt x (s.rg a) (imageSize fa)
    let n := imageCycles fa
    let op := MxOp.load o w (s.now + n * cycleLen (s.core k).level)
    .ok { array := false, cycles := n, buf := some (decide (c = 1)), needsFinal := true, reads := [(false, o, imageSize fa)],
          image := true, op := some op, run := op.effect ⟨s, k, []⟩ x }

end Sys2Proof.Machine
end

