-- ==== Sys2Proof/Machine/Watch.lean ====
section
/-!
DEFINITION. Layout records (R365), watch entries, their triggers and rate windows (R391 to R396), and the completion of an
invalidation (R373, R396).
-/

namespace Sys2Proof.Machine

/-! ### Layout records (R267, R365) -/

/-- The words of a layout record that break R365. -/
def layoutChecks (ws : List Word) : List (Nat × Bool) :=
  let l := Layout.ofWords ws
  let w6 := wd ws 6
  let ds := (List.range (l.gr * l.gc)).map l.dieAt
  let share := ceilDiv (l.r / l.tr) l.gr * ceilDiv (l.rb / l.tb) l.gc * l.tr * l.tb
  [ (0, decide (l.base % 256 ≠ 0)), (1, decide (2 ^ 56 ≤ wd2 ws 0)), (2, decide (l.rb % l.tb ≠ 0)),
    (3, decide (l.r % l.tr ≠ 0)), (4, decide (l.tb % 64 ≠ 0) || decide (l.tb = 0) || decide (65536 < l.tb)),
    (5, decide (l.tr = 0) || decide (l.tr * l.tb % 256 ≠ 0)),
    (6, decide (l.gr = 0) || decide (l.gc = 0) || decide (8 < l.gr * l.gc) || decide (256 ≤ w6)),
    (7, !decide ds.Nodup || (ds.any fun d => decide (8 ≤ d)) || decide (2 ^ (4 * (l.gr * l.gc)) ≤ l.grid)) ]
  ++ (List.range 8).map fun d =>
    (8 + d, decide (2 ^ 28 ≤ wd ws (8 + d)) || (!ds.contains d && decide (wd ws (8 + d) ≠ 0))
      || (ds.contains d && decide (2 ^ 36 < 256 * l.dieBase.getD d 0 + share)))

/-- FORMAT of a record at its first failing word, where the spec states no EINFO. -/
def recordIfFree (cs : List (Nat × Bool)) : M Unit :=
  match firstWord cs with
  | some f => .error (.trap ⟨.format, none, .std 4 f, .none⟩)
  | none => .ok ()

/-- R267, R365. -/
def execLayset (h : BitVec 4) (a b : BitVec 5) (s : State) : Host.Outcome State Fault Refusal :=
  lcWord s do
    let (i, _) ← lcContext s true true true
    firmwareOnly i
    lining s
    let n := (s.rg b).toNat
    if 4095 < n then faultFree .illegal
    else
      let (s, _, bs) ← readRecord s h a 64
      let ws := wordsOf bs 16
      recordIfFree (layoutChecks ws)
      .ok ({ s with layouts := Tab.set s.layouts n ws }.retire)

/-! ### Installing (R266, R391, R392) -/

/-- The pages of a range, each walked once, ascending. -/
def walkPages (s : State) (i : Nat) : Nat → Nat → Nat → M (State × List Page)
  | 0, _, _ => .ok (s, [])
  | n + 1, va, stop =>
    if stop ≤ va then .ok (s, []) else do
      let (s, p) ← walkFor s i va true (fun b => va / 2 ^ b * 2 ^ b)
      let (s, ps) ← walkPages s i n (p.va + 2 ^ p.bits) stop
      .ok (s, p :: ps)

/-- The words of a watch descriptor that break R391. -/
def watchChecks (ws : List Word) : List (Nat × Bool) :=
  let w3 := wd ws 3
  let zero := fun (k : Nat) => (k, decide (wd ws k ≠ 0))
  [ (0, decide (wd2 ws 0 % 64 ≠ 0)), (1, decide (2 ^ 56 ≤ wd2 ws 0)),
    (2, decide (wd ws 2 % 64 ≠ 0) || decide (wd ws 2 = 0) || decide (67108864 < wd ws 2)),
    (3, decide (bits w3 1 0 = 3) || decide (2 ≤ bits w3 5 4) || decide (bits w3 9 8 = 3) || decide (bits w3 3 2 ≠ 0)
      || decide (bits w3 7 6 ≠ 0) || decide (1024 ≤ w3)),
    (4, decide (32 ≤ wd ws 4) || (decide (bits w3 9 8 ≠ 1) && decide (wd ws 4 ≠ 0))),
    (5, decide (wd ws 5 = 0) || decide (4096 < wd ws 5)), (6, decide (65536 ≤ wd ws 6)), zero 7,
    (8, decide (bits w3 1 0 ≠ 2) && decide (wd ws 8 ≠ 0)), (9, decide (bits w3 1 0 ≠ 2) && decide (wd ws 9 ≠ 0)) ]
  ++ ([10, 11, 12, 13, 14, 15].map zero)

/-- The 64 KiB pieces of a range with the pages found for them. -/
def watchPieces (ps : List Page) (base len : Nat) : List (Nat × Option Page) :=
  let first := base / 65536
  let last := (base + len - 1) / 65536
  (List.range (last + 1 - first)).map fun k =>
    let va := (first + k) * 65536
    (va, ps.find? fun p => decide (p.va ≤ va) && decide (va < p.va + 2 ^ p.bits))

/-- The lowest free entry of the watch table. -/
def State.freeWatch (s : State) : Option Nat := (List.range 256).find? fun n => (Tab.find? s.watches n).isNone

/-- The entry that a well-formed descriptor describes. -/
def watchOf (i : Nat) (k : Ctx) (ws : List Word) (scope : Nat) (pages : List (Nat × Option Page)) : Watch where
  lc := i
  ctx := k
  root := i
  base := wd2 ws 0
  len := wd ws 2
  cond := bits (wd ws 3) 1 0
  coal := bits (wd ws 3) 5 4
  tgt := bits (wd ws 3) 9 8
  fixed := wd ws 4
  rate := wd ws 5
  card := wd ws 6
  mval := dw (wd2 ws 8)
  scope := scope
  pages := pages
  armed := true
  spawns := 0

/-- Entries that a context holds, and its quota (R390). -/
def State.watchFull (s : State) (i : Nat) (k : Ctx) : Bool :=
  let n := 3 * i + k.num
  decide (Tab.get s.ports.wQuota n 4 ≤ (s.watches.filter fun w => decide (3 * w.2.lc + w.2.ctx.num = n)).length)

/-- R266, R392. -/
def execWatch (h : BitVec 4) (a d : BitVec 5) (s : State) : Host.Outcome State Fault Refusal :=
  lcWord s do
    let (i, k) ← lcContext s true true true
    lining s
    let (s, va, bs) ← readRecord s h a 64
    let ws := wordsOf bs 16
    recordIf (watchChecks ws) (dw va)
    let id := wd ws 6
    let s ← readCard s id
    let c := (s.card id).words
    cardFormat id (!s.prepared id || !cardFlag c 2 || decide (cardPlace c ≠ 2))
    let base := wd2 ws 0
    let (s, ps) ← walkPages s i (wd ws 2 / 65536 + 2) base (base + wd ws 2)
    let scope := (ps.head?.map (·.scope)).getD 0
    match ps.find? fun p => decide (p.scope ≠ scope) with
    | some p => fault .format (dw p.va)
    | none =>
      match s.freeWatch, s.watchFull i k with
      | some n, false =>
        if s.mgc.stepDone < 9 then .ok ((s.wg d (dw (2 ^ 64 - 1))).retire) else
        let e := watchOf i k ws scope (watchPieces ps base (wd ws 2))
        .ok (({ s with watches := s.watches ++ [(n, e)] }.wg d (dw n)).retire)
      | _, _ => .ok ((s.wg d (dw (2 ^ 64 - 1))).retire)

/-- The jobs of a removed entry are no entry's any more: 256 names none. -/
def Origin.orphan (o : Origin) (n : Nat) : Origin :=
  match o with
  | .watch m lc k => if m = n then .watch 256 lc k else o
  | _ => o

/-! ### Triggers (R394, R395) -/

/-- The home core of a trigger. -/
def Trigger.homeCore (t : Trigger) : Nat := if t.kind = 0 then 4 * t.die + t.chan % 4 else t.chan % 32

/-- The core that a trigger chooses. -/
def State.targetOf (s : State) (e : Watch) (t : Trigger) : Nat :=
  match e.tgt with
  | 0 => t.homeCore
  | 1 => e.fixed
  | _ =>
    let d := t.homeCore / 4
    (minBy s.queueLen ((List.range 4).map (4 * d + ·))).getD (4 * d)

/-- The unstarted job that a trigger is coalesced into. -/
def State.coalesced (s : State) (n : Nat) (e : Watch) (t : Trigger) (core : Nat) : Option (Nat × Job) :=
  let mine := fun (j : Nat × Job) => !j.2.started && !j.2.ending && (match j.2.origin with
      | .watch m _ _ => decide (m = n)
      | _ => false)
    && (decide (e.coal = 0) || (if e.tgt = 2 then decide (j.2.homeDie = t.homeCore / 4) else decide (j.2.lowCore = core)))
  (s.jobs.filter mine).head?

/-- RUNAWAY_TRIGGER with TICK alone nonzero in EWORD (R82). -/
def State.runaway (s : State) (n : Nat) : Owed := ⟨.runawayTrigger, dw n, dw (s.tick % 2 ^ 32 * 2 ^ 32)⟩

/-- A job spawned from a copy of the template of an entry: ready, and waiting, from the tick of the trigger on (R394), with what the
triggering write released (R308). -/
def State.spawn (s : State) (n : Nat) (e : Watch) (t : Trigger) (core : Nat) : State :=
  let c := (s.card e.card).words
  let j := { newJob e.card c (.watch n e.lc e.ctx) e.root core t.tick false 0 t.clock with
    ready := true, pend := 1, lastVa := dw t.va }
  let s := (s.addJob j).2
  let s := if (s.core core).gated then s.askUngate core else s
  { s with watches := Tab.set s.watches n { e with spawns := e.spawns + 1 } }

/-- A trigger reaches the watch table. Of a template whose card cannot be corrected the error is recorded and no job is spawned: DESIGN CHOICE,
R450 and R452 name no consumer that faults there (log entry 15). -/
def State.handleTrigger (s : State) (t : Trigger) : State :=
  match Tab.find? s.watches t.entry with
  | none => s
  | some e =>
    if !e.armed then s
    else
      let core := s.targetOf e t
      match s.coalesced t.entry e t core with
      | some (n, j) => s.setJob n { j with pend := j.pend + 1, lastVa := dw t.va, clock := j.clock.join t.clock }
      | none =>
        if e.spawns < e.rate then
          match s.deviceRead (run (cardPa e.card 0) 128) with
          | (s, true) => s.spawn t.entry e t core
          | (s, false) => s
        else ({ s with watches := Tab.set s.watches t.entry { e with armed := false } }).owe e.lc e.ctx (s.runaway t.entry)

/-- The triggers raised on earlier ticks reach the table, in their order (R393). -/
def State.takeTriggers (s : State) : State :=
  (s.triggers.filter fun t => decide (t.tick < s.tick)).foldl State.handleTrigger
    { s with triggers := s.triggers.filter fun t => decide (s.tick ≤ t.tick) }

/-- An entry removed: its triggers raised on earlier ticks spawn their jobs (R266), those of this tick spawn nothing (R397), its jobs
run on. -/
def State.dropWatch (s : State) (n : Nat) : State :=
  let s := s.takeTriggers
  { s with watches := Tab.erase s.watches n
           triggers := s.triggers.filter fun t => decide (t.entry ≠ n)
           jobs := s.jobs.map fun j => (j.1, { j.2 with origin := j.2.origin.orphan n }) }

/-- R266: ILLEGAL unless the entry was installed by the same control core. -/
def execUnwatch (a : BitVec 5) (s : State) : Host.Outcome State Fault Refusal :=
  lcWord s do
    let (i, _) ← lcContext s true true true
    lining s
    let v := s.rg a
    match Tab.find? s.watches v.toNat with
    | none => fault .illegal v
    | some e => if e.lc = i then .ok ((s.dropWatch v.toNat).retire) else fault .illegal v

/-- A trigger's tick is over: it reaches the table now (R394). -/
def State.triggerDue (s : State) : Bool := s.triggers.any fun t => decide (t.tick < s.tick)

/-- R393, R394: the oldest trigger, once the tick of its write is over, so that those of one tick are taken in their
order. -/
def execWatchTrigger (s : State) : Host.Outcome State Fault Refusal :=
  happen s <|
    match s.triggers with
    | [] => none
    | t :: ts => if t.tick < s.tick then some (({ s with triggers := ts } : State).handleTrigger t) else none

/-- R395: a rate window starts. -/
def execRateWindowStart (s : State) : Host.Outcome State Fault Refusal :=
  happen s <|
    if periodDue s.tick 170000 s.served.rate then
      some { s with served := { s.served with rate := s.tick / 170000 * 170000 }
                    watches := s.watches.map fun w => (w.1, { w.2 with spawns := 0 }) }
    else none

/-! ### The completion of an invalidation (R373, R396) -/

/-- A piece of a watched range is covered by an invalidation of its root. -/
def pieceCovered (v : Inval) (q : Nat × Option Page) : Bool :=
  meets q.1 65536 v.va (2 ^ v.bits) || (match q.2 with
    | some p => meets p.va (2 ^ p.bits) v.va (2 ^ v.bits)
    | none => false)

/-- The covered pieces of a range translated again: none while a walk of them stands at a locked or gated entry. -/
def State.rewalk (s : State) (v : Inval) (root : Nat) : List (Nat × Option Page) → State × Option (List (Nat × Option Page))
  | [] => (s, some [])
  | q :: qs =>
    let (s, a) := if !pieceCovered v q then (s, some q) else match s.deviceWalk root q.1 with
      | (s, .page p) => (s, some (q.1, some p))
      | (s, .fault _ _ _) => (s, some (q.1, none))
      | (s, .stuck _ _) => (s, none)
    let (s, b) := s.rewalk v root qs
    (s, a.bind fun a => b.map (a :: ·))

/-- The watch entries with the pieces that an invalidation covers translated again. -/
def State.rewalkAll (s : State) (v : Inval) : List (Nat × Watch) → State × Option (List (Nat × Watch))
  | [] => (s, some [])
  | w :: ws =>
    let (s, a) := if w.2.root ≠ v.root then (s, some w.2.pages) else s.rewalk v w.2.root w.2.pages
    let (s, b) := s.rewalkAll v ws
    (s, a.bind fun ps => b.map ((w.1, { w.2 with pages := ps }) :: ·))

/-- R373, R396: when the accesses that it waits for are performed and the watched pages that it covers are translated again,
an invalidation is no longer outstanding. A walk that meets a locked entry makes it wait for the readings of R361. -/
def execInvalidationComplete (pos : Nat) (s : State) : Host.Outcome State Fault Refusal :=
  happen s <|
    match s.invals[pos]? with
    | none => none
    | some v =>
      if s.heldByInval v then none
      else match s.rewalkAll v s.watches with
        | (t, some ws) => some { t with watches := ws, invals := s.invals.eraseIdx pos }
        | (t, none) => some t

end Sys2Proof.Machine
end

