-- ==== Sys2Proof/Machine/Coded.lean ====
section
/-!
DEFINITION. Coded matrix products (spec/17_coded_operators.md R412 to R430): the coding descriptor, CODSET, CMM and CDWAIT, posts,
the decision and decoding of tiles, the end of an operator.
-/

namespace Sys2Proof.Machine

/-! ### The descriptor (R412) -/

/-- The fields of a coding descriptor. -/
structure Coding where
  k : Nat
  r : Nat
  verify : Bool
  waitAll : Bool
  outer : Bool
  defGen : Bool
  ofmt : Nat
  m : Nat
  n : Nat
  tr : Nat
  tc : Nat
  rnd : Nat
  afmt : Nat
  cva : Nat
  ret : Nat
  targ : Nat
  tmpl : Nat
  pitch : Nat
  isExport : Bool
  deriving DecidableEq, Repr

def codingOf (ws : List Word) : Coding where
  k := bits (wd ws 0) 7 0
  r := bits (wd ws 0) 15 8
  verify := bit (wd ws 0) 16
  waitAll := bit (wd ws 0) 17
  outer := bit (wd ws 0) 18
  defGen := bit (wd ws 0) 19
  ofmt := bits (wd ws 0) 31 24
  m := wd ws 16
  n := wd ws 17
  tr := bits (wd ws 25) 7 0 + 1
  tc := bits (wd ws 25) 15 8 + 1
  rnd := bits (wd ws 25) 17 16
  afmt := bits (wd ws 25) 23 20
  cva := wd2 ws 14
  ret := wd2 ws 20
  targ := wd2 ws 22
  tmpl := bits (wd ws 24) 15 0
  pitch := wd ws 29
  isExport := bit (wd ws 30) 31

/-- The die of task t. -/
def dieMap (ws : List Word) (t : Nat) : Nat := bits (wd ws 1) (4 * t + 3) (4 * t)

/-- The package of task t. -/
def pkgMap (ws : List Word) (t : Nat) : Nat := bits (wd ws (26 + t / 4)) (8 * (t % 4) + 7) (8 * (t % 4))

/-- Tasks. -/
def Coding.tasks (c : Coding) : Nat := c.k + c.r

/-- Rows per group. -/
def Coding.mg (c : Coding) : Nat := c.m / c.k

/-- Row tiles, column tiles, tiles. -/
def Coding.trn (c : Coding) : Nat := ceilDiv c.mg c.tr
def Coding.tcn (c : Coding) : Nat := ceilDiv c.n c.tc
def Coding.tiles (c : Coding) : Nat := c.trn * c.tcn

/-- Rows and columns of a tile, cut to the group and to N. -/
def Coding.rows (c : Coding) (tile : Nat) : Nat := min c.tr (c.mg - tile / c.tcn * c.tr)
def Coding.cols (c : Coding) (tile : Nat) : Nat := min c.tc (c.n - tile % c.tcn * c.tc)

/-- SLOT (R415). -/
def Coding.slot (c : Coding) : Nat := 64 * ceilDiv (8 + c.tr * c.tc * 72) 64

/-- The bytes of an output element. -/
def Coding.size (c : Coding) : Nat := if c.ofmt = 6 then 4 else if c.ofmt = 7 then 1 else 2

/-- 32-column blocks of a row. -/
def Coding.blocks (c : Coding) : Nat := ceilDiv c.n 32

/-- A signed byte of a descriptor's GEN. -/
def genByte (ws : List Word) (t j : Nat) : Int := sextInt (bits (wd ws (2 + 2 * t + j / 4)) (8 * (j % 4) + 7) (8 * (j % 4))) 8

/-- Parity row t (R414). -/
def genRow (ws : List Word) (t : Nat) : List Int :=
  let c := codingOf ws
  (List.range c.k).map fun j => if c.defGen then (((j + 1) ^ t : Nat) : Int) else genByte ws t j

/-! ### Determinants (R414, R422) -/

/-- The determinant of an n × n matrix by its first row. -/
def det : Nat → List (List Int) → Int
  | 0, _ => 1
  | n + 1, rows =>
    match rows with
    | [] => 1
    | r :: rs => ((List.range (n + 1)).map fun j =>
        (if j % 2 = 0 then (1 : Int) else -1) * r.getD j 0 * det n (rs.map fun x => x.eraseIdx j)).foldl (· + ·) 0

/-- The sublists of n elements. -/
def choose {α : Type} : Nat → List α → List (List α)
  | 0, _ => [[]]
  | _ + 1, [] => []
  | n + 1, x :: xs => (choose n xs).map (x :: ·) ++ choose (n + 1) xs

/-- Every square submatrix of the parity rows is nonsingular. -/
def solvable (k : Nat) (rows : List (List Int)) : Bool :=
  (List.range (min k rows.length)).all fun m => (choose (m + 1) rows).all fun rs => (choose (m + 1) (List.range k)).all fun cs =>
    decide (det (m + 1) (rs.map fun r => cs.map fun j => r.getD j 0) ≠ 0)

/-- The generator keeps R414. -/
def genOk (ws : List Word) : Bool :=
  let c := codingOf ws
  let rows := (List.range c.r).map (genRow ws)
  (rows.all fun r => (r.all fun g => decide (-128 ≤ g) && decide (g ≤ 127)) && decide ((r.map Int.natAbs).sum ≤ 255))
  && solvable c.k rows
  && (List.range 4).all fun t => (List.range 8).all fun j =>
    decide (genByte ws t j = 0) || (!c.defGen && decide (t < c.r) && decide (j < c.k))

/-! ### CODSET (R265, R413) -/

/-- The words of a descriptor that break R413. -/
def codingChecks (ws : List Word) : List (Nat × Bool) :=
  let c := codingOf ws
  let n := c.tasks
  let dies := (List.range n).map (dieMap ws)
  let pkgs := (List.range n).map (pkgMap ws)
  let top := fun (w : Nat) => (w, decide (2 ^ 24 ≤ wd ws w))
  let row := c.n * (if c.ofmt = 7 then 1 else c.size)
  [ (0, decide (c.k < 1) || decide (8 < c.k) || decide (4 < c.r) || decide ((if c.outer then 12 else 8) < n)
      || decide (bits (wd ws 0) 23 20 ≠ 0) || (c.outer && c.isExport)
      || (if c.isExport then decide (c.ofmt ≠ 8) else decide (c.ofmt < 4) || decide (7 < c.ofmt))),
    (1, if c.outer then decide (wd ws 1 ≠ 0)
      else decide (2 ^ (4 * n) ≤ wd ws 1) || (dies.any fun d => decide (8 ≤ d)) || !decide dies.Nodup),
    (2, !genOk ws), top 11, top 13, top 15, top 21, top 23,
    (14, if c.isExport then decide (wd ws 14 ≠ 0) else decide (wd ws 14 % 64 ≠ 0)), (15, c.isExport && decide (wd ws 15 ≠ 0)),
    (16, decide (c.m = 0) || decide (c.m % c.k ≠ 0)), (17, decide (c.n = 0)), (18, decide (wd ws 18 = 0)),
    (19, c.outer && decide (wd ws 19 = 0)), (20, decide (wd ws 20 % 64 ≠ 0)),
    (22, if c.outer then decide (wd ws 22 ≠ 0) else decide (wd ws 22 % 64 ≠ 0)), (23, c.outer && decide (wd ws 23 ≠ 0)),
    (24, decide (2 ^ 16 ≤ wd ws 24) || (c.outer && decide (wd ws 24 ≠ 0))),
    (25, decide (bits (wd ws 25) 19 18 ≠ 0) || decide (bits (wd ws 25) 31 24 ≠ 0) || decide (65536 < c.tiles)
      || !([0, 2].contains c.afmt) || (decide (c.afmt = 2) && decide (c.r ≠ 0)) || (c.isExport && decide (c.mg % c.tr ≠ 0))),
    (26, if c.outer then (pkgs.any fun p => decide (64 ≤ p)) || !decide pkgs.Nodup else decide (wd ws 26 ≠ 0)),
    (27, !c.outer && decide (wd ws 27 ≠ 0)), (28, !c.outer && decide (wd ws 28 ≠ 0)),
    (29, if c.isExport then decide (c.pitch ≠ 0)
      else decide (c.pitch < if c.ofmt = 7 then 32 * c.blocks else row) || decide (c.pitch % c.size ≠ 0)),
    (30, decide (bits (wd ws 30) 7 6 ≠ 0) || decide (bits (wd ws 30) 15 14 ≠ 0) || decide (bits (wd ws 30) 30 20 ≠ 0)),
    (31, decide (wd ws 31 ≠ 0)) ]
  ++ (List.range 12).map fun t => (26 + t / 4, c.outer && decide (n ≤ t) && decide (pkgMap ws t ≠ 0))

/-- A dispatcher slot in a register: ILLEGAL above 63. -/
def coderSlot (s : State) (a : BitVec 5) : M Nat :=
  let v := (s.rg a).toNat
  if v < 64 then .ok v else faultFree .illegal

/-- R265, R413. -/
def execCodset (h : BitVec 4) (a b : BitVec 5) (s : State) : Host.Outcome State Fault Refusal :=
  lcWord s do
    let _ ← lcContext s false true false
    lining s
    let n ← coderSlot s b
    faultIf (s.codedSlot n).running .format (dw n)
    let (s, va, bs) ← readRecord s h a 128
    let ws := wordsOf bs 32
    recordIf (codingChecks ws) (dw va)
    .ok ((s.setCoded n { Coded.reset with desc := ws }).retire)

/-! ### CMM (R265, R415 to R418) -/

/-- The pages that a range needs, each of them usable. R415 states no EINFO for a page that is not: a free value (log entry 11). -/
def codedPages (s : State) (i va n : Nat) : M (State × List Page) := do
  let (s, ps) ← walkPages s i (n / 65536 + 2) va (va + n)
  match ps.findSome? fun p =>
    if !p.writable then some Cause.permission else if p.trellis then some .trellisWrite
    else if p.ltype ≠ 0 then some .latticeType else if p.scope < 2 then some .format else none with
  | some c => faultFree c
  | none => .ok (s, ps)

/-- The bytes of C, with the scale plane of SXI8 behind it (R424). -/
def Coding.outBytes (c : Coding) : Nat := c.m * c.pitch + if c.ofmt = 7 then 2 * c.m * c.blocks else 0

/-- The core that task t runs on: of its die, the one whose queue holds the fewest jobs (R416). -/
def State.taskCore (s : State) (ws : List Word) (t : Nat) : Nat :=
  let d := dieMap ws t
  (minBy s.queueLen ((List.range 4).map (4 * d + ·))).getD (4 * d)

/-- DEC (R416). -/
def Coding.decTicks (c : Coding) : Nat := 512 + ceilDiv c.tiles 4 * (128 + ceilDiv (c.tr * c.tc) 4)

/-- Returns that the running operators may hold (R416). -/
def State.returnLoad (s : State) : Nat :=
  (s.coded.map fun x => let c := codingOf x.2.desc; if x.2.running then c.tasks * c.tiles else 0).sum

/-- The admission of an operator (R416): D, or none when it is refused. -/
def State.admitOperator (s : State) (ws : List Word) : Option Nat :=
  let c := codingOf ws
  let est := cardEst (s.card c.tmpl).words
  let cs := (List.range c.tasks).map (s.taskCore ws)
  let ds := sortBy (fun x y => decide (x ≤ y)) (cs.map fun x => s.deadlineOn x 0 est)
  let d := if c.outer then s.tick + 1024 * wd ws 19 else ds.getD (c.k - 1) 0 + c.decTicks
  let away := if c.outer then (List.range c.tasks).any fun t => !s.exchange.present.contains (pkgMap ws t)
    else ((List.range c.tasks).any fun t => (s.die (dieMap ws t)).mappedOut)
      || cs.any fun x => decide (32 ≤ (s.reservedUnstarted x).length)
  if s.reduced || decide (2 ^ 32 < d - s.tick) || (decide (wd ws 19 ≠ 0) && decide (1024 * wd ws 19 < d - s.tick)) || away
    || decide (2 ^ 21 < s.returnLoad + c.tasks * c.tiles) then none else some d

/-- A task argument block (R418). -/
def argBlock (ws : List Word) (slot t : Nat) : List DWord :=
  let c := codingOf ws
  let row := if t < c.k then 2 ^ (8 * t)
    else ((List.range c.k).map fun j => unsignedOf ((genRow ws (t - c.k)).getD j 0) 8 * 2 ^ (8 * j)).sum
  [ dw (slot * 2 ^ 16 + b2n (decide (c.k ≤ t)) * 2 ^ 12 + c.r * 2 ^ 8 + (c.k - 1) * 2 ^ 4 + t), dw row,
    dw (if t < c.k then t * c.mg else 0), dw c.mg, dw (wd2 ws 10), dw (wd2 ws 12), dw (slot * 2 ^ 26 + t * 2 ^ 22),
    dw (c.tcn * 2 ^ 32 + (c.tc - 1) * 2 ^ 8 + (c.tr - 1)) ]

/-- The bytes of some cells at VAs that lie in a page, at their homes. -/
def Page.cellsIn (p : Page) (cells : List (Nat × Byte)) : List (Nat × Byte) :=
  cells.filterMap fun c => if p.va ≤ c.1 ∧ c.1 < p.va + 2 ^ p.bits then (p.byte 8 (c.1 - p.va)).map fun pa => (pa, c.2) else none

/-- Bytes at VAs written for an operator through pages (R307), performed at the pages' scope or, for a copy of a return, at PKG scope
(R420); ordered after what its CMM released. -/
def State.codedPut (s : State) (slot : Nat) (copy : Bool) (ps : List Page) (cells : List (Nat × Byte)) : State :=
  ps.foldl (fun s p =>
    let mine := p.cellsIn cells
    if mine.isEmpty then s
    else
      let (n, s) := s.nextSeq
      s.perform mine false { who := .coded slot, at_ := n, hash := some p.hash, scope := if copy then 2 else p.scope,
                             clock := (s.codedSlot slot).clock }) s

/-- What an operator has written so far is ordered (R415, R427). -/
def State.codedDone (s : State) (slot : Nat) (k : Clock) : Clock := k.raise (.coded slot) 0 s.cmdSeq

/-- The bytes at VAs that lie in a page, at their homes. -/
def Page.bytesIn (p : Page) (vas : List Nat) : List Nat :=
  vas.filterMap fun v => if p.va ≤ v ∧ v < p.va + 2 ^ p.bits then p.byte 8 (v - p.va) else none

/-- Bytes at VAs cannot be accessed for an operator now: a channel is shut (R453, R454), or a core is gated, and asked to be ungated
(R411). -/
def State.codedShut (s : State) (ps : List Page) (vas : List Nat) : Option State :=
  let mine := ps.map fun p => (p.hash, p.bytesIn vas)
  match mine.findSome? fun m => s.gatedCore (.ctx 0 .c) m.2 with
  | some c => some (s.askUngate c)
  | none => if mine.any fun m => s.chanShut m.2 (some m.1) then some s else none

/-- Task t placed on its core (R417). -/
def State.placeTask (s : State) (i slot : Nat) (ws : List Word) (deadline t core : Nat) (k : Clock) : Nat × State :=
  let c := codingOf ws
  let words := (s.card c.tmpl).words
  let arg := c.targ + 64 * t
  let words := (words.set 30 (BitVec.ofNat 32 arg)).set 31 (BitVec.ofNat 32 (arg / 2 ^ 32))
  let (n, s) := s.addJob { newJob c.tmpl words (.coded slot t) i core s.tick true deadline k with ready := true }
  (n, if (s.core core).gated then s.askUngate core else s)

/-- The argument blocks of an inner operator at their VAs (R418). -/
def argCells (ws : List Word) (slot : Nat) : List (Nat × Byte) :=
  let c := codingOf ws
  if c.outer then [] else (List.range c.tasks).flatMap fun t =>
    cellsAt (c.targ + 64 * t) ((argBlock ws slot t).flatMap fun d => leBytes 8 d.toNat)

/-- The tasks of an inner operator placed, with what its CMM releases: task and job pairs. -/
def State.placeTasks (s : State) (i slot : Nat) (ws : List Word) (deadline : Nat) (k : Clock) : List (Nat × Nat) × State :=
  let c := codingOf ws
  if c.outer then ([], s)
  else
    let cores := (List.range c.tasks).map (s.taskCore ws)
    (List.range c.tasks).foldl (fun r t =>
      let (js, s) := r
      let (n, s) := s.placeTask i slot ws deadline t (cores.getD t 0) k
      (js ++ [(t, n)], s)) ([], s)

/-- An operator that has been admitted. -/
def startedOperator (x : Coded) (i : Nat) (k : Ctx) (d dec : Nat) (ps : List Page) (js : List (Nat × Nat)) (r : Clock) : Coded :=
  { Coded.reset with desc := x.desc, root := i, lc := i, ctx := k, running := true, started := true, deadline := d, dec := dec,
                     pages := ps, tasks := js, clock := r }

/-- The pages of an operator: its returns, its argument blocks, C (R415). -/
def operatorPages (s : State) (i : Nat) (ws : List Word) : M (State × List Page) := do
  let c := codingOf ws
  let (s, rs) ← codedPages s i c.ret (c.tasks * c.tiles * c.slot)
  let (s, as) ← if c.outer then .ok (s, []) else codedPages s i c.targ (64 * c.tasks)
  let (s, os) ← if c.isExport then .ok (s, []) else codedPages s i c.cva c.outBytes
  .ok (s, (rs ++ as ++ os).eraseDups)

/-- Bytes at VAs are within reach of the executing context: REMOTE_GATED in a gated core; its EINFO is not stated: a free value. -/
def reachCells (s : State) (cells : List (Nat × Byte)) : List Page → M Unit
  | [] => .ok ()
  | p :: ps =>
    let pas := (p.cellsIn cells).map (·.1)
    match s.gatedCore s.cur pas with
    | some c => .error (.trap ⟨.remoteGated, none, .std 1 0, .ungate c⟩)
    | none => do
      reach s pas 0 (some p.hash)
      reachCells s cells ps

/-- R265, R415. -/
def execCmm (d a : BitVec 5) (s : State) : Host.Outcome State Fault Refusal :=
  lcWord s do
    let (i, k) ← lcContext s false true false
    lining s
    released s
    let n ← coderSlot s a
    let x := s.codedSlot n
    faultIf (x.desc.isEmpty || x.running) .format (dw n)
    let c := codingOf x.desc
    let s ← if c.outer then .ok s else readCard s c.tmpl
    let t := (s.card c.tmpl).words
    faultIf (!c.outer && (!s.prepared c.tmpl || !cardFlag t 1 || decide (cardPlace t ≠ 0))) .format (dw c.tmpl)
    let (s, ps) ← operatorPages s i x.desc
    match s.admitOperator x.desc with
    | none => .ok ((s.wg d 0).retire)
    | some dl =>
      let args := argCells x.desc n
      reachCells s args ps
      let r := s.releaseNow (s.agentOf s.cur)
      let s := (s.setCoded n { x with clock := r }).codedPut n false ps args
      let (js, s) := s.placeTasks i n x.desc (dl - c.decTicks) (s.codedDone n r)
      .ok (((s.setCoded n (startedOperator x i k dl c.decTicks ps js r)).wg d (dw dl)).retire)

/-- R265, R427: it acquires the writes of C and the copies of the returns. -/
def execCdwait (d a : BitVec 5) (s : State) : Host.Outcome State Fault Refusal :=
  lcWord s do
    let _ ← lcContext s false true true
    let n ← coderSlot s a
    let x := s.codedSlot n
    faultIf x.desc.isEmpty .format (dw n)
    waitUntil s (!x.running)
    if x.started then .ok (((s.acquire (s.agentOf s.cur) (s.codedDone n x.clock)).wg d x.status).retire) else .ok ((s.wg d 0).retire)

/-! ### Posts (R420) -/

/-- A TWR header's columns, rows, n64 and lo (R44). -/
def twrHead (bs : List Byte) : Nat × Nat × Nat × Nat :=
  let h := leNat (bs.take 8)
  (bits h 63 48, bits h 47 32, bits h 31 16, bits h 15 0)

/-- A header passes R45. -/
def twrOk (bs : List Byte) : Bool :=
  let (cols, rows, n, lo) := twrHead bs
  decide (lo % 64 = 0) && decide (lo ≤ 512) && decide (1 ≤ n) && decide (n ≤ 9) && decide (lo / 64 + n ≤ 9)
  && decide (1 ≤ rows) && decide (rows ≤ 256) && decide (1 ≤ cols) && decide (cols ≤ 256)

/-- A post comes from whom the task was given to. -/
def Coded.postedBy (x : Coded) (p : Post) (task : Nat) : Bool :=
  if (codingOf x.desc).outer then p.fromPkg && decide (pkgMap x.desc task = p.source)
  else !p.fromPkg && x.tasks.contains (task, p.source)

/-- Every tile is decided and every written one performed. -/
def Coded.finished (x : Coded) : Bool := x.running && (List.range (codingOf x.desc).tiles).all fun t => x.written.contains t

/-- The dispatcher accepts a post (R420); on the tick at which the operator ends the end comes first (R430). -/
def State.acceptsPost (s : State) (p : Post) : Bool :=
  let x := s.codedSlot (bits p.tag 31 26)
  let c := codingOf x.desc
  let task := bits p.tag 25 22
  let tile := bits p.tag 21 0
  let (cols, rows, _, _) := twrHead p.image
  x.running && !x.finished && decide (s.tick < x.deadline) && decide (task < c.tasks) && x.postedBy p task && decide (tile < c.tiles)
  && twrOk p.image && decide (rows = c.rows tile) && decide (cols = c.cols tile) && (Tab.find? x.returns (task, tile)).isNone

/-- The bytes that the copy of a post takes (R420): where the task has written into the image since, each 64-byte piece is old or new, a
free choice. -/
def State.postImage (s : State) (p : Post) : State × List Byte :=
  let now := s.rdAll (run p.pa p.image.length)
  if p.fromPkg || decide (now = p.image) then (s, p.image)
  else
    let (n, s) := s.draw
    (s, (List.range p.image.length).map fun i =>
      (if (Config.freeNat n).testBit ((p.pa + i) / 64 - p.pa / 64) then now else p.image).getD i 0)

/-- The bytes of an accepted post at their VAs in the return area, the copied bytes as they were found. -/
def Coded.copyCells (x : Coded) (p : Post) (image : List Byte) : List (Nat × Byte) :=
  let c := codingOf x.desc
  let (cols, rows, w, _) := twrHead p.image
  cellsAt (c.ret + (bits p.tag 25 22 * c.tiles + bits p.tag 21 0) * c.slot) (image.take (8 + rows * cols * w * 8))

/-- A post at the dispatcher: accepted by the image that was posted and copied to the return area, or discarded; none while the area
cannot be written. -/
def State.takePost (s : State) (p : Post) : Sum State State :=
  if s.acceptsPost p then
    let n := bits p.tag 31 26
    let x := s.codedSlot n
    let (s, image) := s.postImage p
    let cells := x.copyCells p image
    match s.codedShut x.pages (cells.map (·.1)) with
    | some t => .inl t
    | none =>
      .inr ((s.codedPut n true x.pages cells).setCoded n
        { x with returns := x.returns ++ [((bits p.tag 25 22, bits p.tag 21 0), s.tick)] })
  else .inr s

/-- R420, R428: `far` is a post that arrives from another package, as (package, tag, image); else `pos` names a post made
here. -/
def execCodedPost (pos : Nat) (far : Option (Nat × Nat × List Byte)) (s : State) : Host.Outcome State Fault Refusal :=
  happen s <|
    match far with
    | some (pkg, tag, image) =>
      if pkg ≠ s.pkg ∧ s.exchange.present.contains pkg then match s.takePost ⟨tag, true, pkg, 0, 0, image⟩ with
        | .inr t => some t
        | .inl t => some { t with posts := t.posts ++ [⟨tag, true, pkg, 0, 0, image⟩] }
      else none
    | none => match s.posts[pos]? with
      | none => none
      | some p => match ({ s with posts := s.posts.eraseIdx pos } : State).takePost p with
        | .inr t => some t
        | .inl t => some { t with posts := s.posts }

/-! ### The decision of a tile (R421) -/

/-- The tasks that have returned a tile by a tick, ascending. -/
def Coded.returned (x : Coded) (tile tick : Nat) : List Nat :=
  (List.range (codingOf x.desc).tasks).filter fun t => match Tab.find? x.returns (t, tile) with
    | some n => decide (n ≤ tick)
    | none => false

/-- The tick at which a tile held n returns. -/
def Coded.heldAt (x : Coded) (tile n : Nat) : Option Nat :=
  (sortBy (fun a b => decide (a ≤ b)) ((x.returns.filter fun r => decide (r.1.2 = tile)).map (·.2)))[n - 1]?

/-- The decision tick of a tile (R421), where it has come. -/
def Coded.decisionTick (x : Coded) (tile : Nat) : Option Nat :=
  let c := codingOf x.desc
  let first := x.heldAt tile c.k
  if !c.waitAll then first
  else match x.heldAt tile c.tasks, first.map (max (x.deadline - x.dec)) with
    | some a, some b => some (min a b)
    | none, b => b
    | a, none => a

/-- The decision tick of a tile that is not decided, once that tick is over: every post of it has been taken. -/
def State.decidable (s : State) (x : Coded) (tile : Nat) : Option Nat :=
  if x.running && decide (tile < (codingOf x.desc).tiles) && (x.decided.all fun d => decide (d.1 ≠ tile)) then
    (x.decisionTick tile).filter fun t => decide (t < s.tick)
  else none

/-- R421: the tile with the earliest decision tick, and of those the lowest, is decided with the returns that it held then. -/
def execTileDecision (slot tile : Nat) (s : State) : Host.Outcome State Fault Refusal :=
  happen s <|
    let x := s.codedSlot slot
    match s.decidable x tile with
    | none => none
    | some n =>
      if (List.range (codingOf x.desc).tiles).all fun t => match s.decidable x t with
        | some m => decide (n < m) || (decide (n = m) && decide (tile ≤ t))
        | none => true
      then
        let s := s.setCoded slot { x with decided := x.decided ++ [(tile, x.returned tile n)] }
        some { s with decodeq := s.decodeq ++ [(slot, tile)] }
      else none

/-! ### Decoding (R422, R423) -/

/-- A return as it was read: task, whether its header passes R45, lo, elements. -/
structure Read where
  task : Nat
  sound : Bool
  lo : Nat
  es : List Int
  deriving DecidableEq, Repr

/-- The page of an operator that a VA lies in. -/
def codedPage (ps : List Page) (va : Nat) : Option Page := ps.find? fun p => decide (p.va ≤ va) && decide (va < p.va + 2 ^ p.bits)

/-- Runs of an operator's pages read (R450), the bytes free under another HASH (R367); none where they cannot be corrected. -/
def State.codedRead (s : State) (ps : List Page) : List (Nat × Nat × Nat) → State × Option (List Byte)
  | [] => (s, some [])
  | (va, _, n) :: rs =>
    match codedPage ps va with
    | none => (s, none)
    | some p =>
      let pas := (run (va - p.va) n).filterMap (p.byte 8)
      let (s, ok) := s.deviceRead pas (some p.hash)
      let (s, bs) := s.hashBytes p.hash pas (s.rdAll pas)
      let (s, more) := s.codedRead ps rs
      (s, if ok then more.map (bs ++ ·) else none)

/-- The VAs of a return, by the header that stands in the return area. -/
def State.returnVas (s : State) (x : Coded) (tile task : Nat) : List Nat :=
  let c := codingOf x.desc
  let va := c.ret + (task * c.tiles + tile) * c.slot
  let hd := s.rdAll (x.pages.flatMap fun p => p.bytesIn (run va 8))
  if twrOk hd then run va (8 + c.rows tile * c.cols tile * (twrHead hd).2.2.1 * 8) else run va 8

/-- A return read from the return area; none where it cannot be read (R450). One whose header a program has broken disagrees (R45, R430). -/
def State.readReturn (s : State) (x : Coded) (tile task : Nat) : State × Option Read :=
  let c := codingOf x.desc
  let va := c.ret + (task * c.tiles + tile) * c.slot
  match s.codedRead x.pages (pieces64k va 8) with
  | (s, none) => (s, none)
  | (s, some hd) =>
    if !twrOk hd then (s, some ⟨task, false, 0, []⟩)
    else
      let (_, _, n, lo) := twrHead hd
      let count := c.rows tile * c.cols tile
      match s.codedRead x.pages (pieces64k (va + 8) (count * n * 8)) with
      | (s, none) => (s, none)
      | (s, some bs) =>
        (s, some ⟨task, true, lo, (List.range count).map fun e => sextInt (leNat ((bs.drop (8 * n * e)).take (8 * n))) (64 * n)⟩)

/-- lo_d: the lo of the most returns, ties to the higher. -/
def commonLo (reads : List Read) : Nat :=
  let rs := reads.filter (·.sound)
  let count := fun (l : Nat) => (rs.filter fun r => decide (r.lo = l)).length
  (rs.map (·.lo)).foldl (fun b l => if count b < count l ∨ (count b = count l ∧ b < l) then l else b) ((rs.map (·.lo)).headD 0)

/-- The elements of a return aligned to lo_d; none when it disagrees. -/
def Read.aligned (lo : Nat) (r : Read) : Option (Nat × List Int) :=
  let up := r.lo - lo
  let down := lo - r.lo
  let es := r.es.map fun e => e * 2 ^ up / 2 ^ down
  if !r.sound || (r.es.any fun e => decide (e * 2 ^ up % 2 ^ down ≠ 0)) || (es.any fun a => decide ((2 ^ 640 : Nat) ≤ a.natAbs)) then none
  else some (r.task, es)

/-- The sum of G[t][j] × a_j. -/
def mix (row cs : List Int) : Int := ((row.zip cs).map fun p => p.1 * p.2).foldl (· + ·) 0

/-- One element's C_0 to C_{k−1} from the k values of U (R422); none when a division leaves a remainder. -/
def solveElem (ws : List Word) (us : List (Nat × Int)) : Option (List Int) :=
  let k := (codingOf ws).k
  let data := us.filter fun u => decide (u.1 < k)
  let qs := us.filter fun u => decide (k ≤ u.1)
  let xs := (List.range k).filter fun j => data.all fun u => decide (u.1 ≠ j)
  let m := qs.length
  let at_ := fun (j : Nat) => ((data.find? fun u => decide (u.1 = j)).map (·.2)).getD 0
  let row := fun (q : Nat) => genRow ws (q - k)
  let y := fun (q : Nat × Int) => q.2 - mix (row q.1) ((List.range k).map at_)
  let base := qs.map fun q => xs.map fun j => (row q.1).getD j 0
  let whole := det m base
  let with_ := fun (i : Nat) => det m ((base.zip qs).map fun p => p.1.set i (y p.2))
  let sols := (List.range m).map with_
  if sols.any fun v => decide (whole = 0) || decide (v % whole ≠ 0) then none
  else some ((List.range k).map fun j => match findIdx (fun i => decide (i = j)) xs with
    | some i => sols.getD i 0 / whole
    | none => at_ j)

/-- All elements of a tile, as one list for each element. -/
def solveTile (ws : List Word) (us : List (Nat × List Int)) (n : Nat) : Option (List (List Int)) :=
  (List.range n).mapM fun e => solveElem ws (us.map fun u => (u.1, u.2.getD e 0))

/-- A return agrees with a solution. -/
def agrees (ws : List Word) (y : Nat × List Int) (cs : List (List Int)) : Bool :=
  let k := (codingOf ws).k
  (y.2.zip cs).all fun p => decide (p.1 = if y.1 < k then p.2.getD y.1 0 else mix (genRow ws (y.1 - k)) p.2)

/-- What a solve from the returns of some tasks gives: U and the solution, when it is exact and (`check`) every other of them
agrees; and whether a division was inexact. -/
def tryDecode (ws : List Word) (from_ : List Nat) (rs : List (Nat × List Int)) (n : Nat) (check : Bool) :
    Option (List Nat × List (List Int)) × Bool :=
  let mine := rs.filter fun r => from_.contains r.1
  let us := mine.take (codingOf ws).k
  if us.length < (codingOf ws).k then (none, false)
  else match solveTile ws us n with
    | none => (none, true)
    | some cs =>
      let used := us.map (·.1)
      let rest := from_.filter fun t => !used.contains t
      let fine := rest.all fun t => match mine.find? fun r => decide (r.1 = t) with
        | some r => agrees ws r cs
        | none => false
      (if check && !fine then none else some (used, cs), false)

/-- The decision of a tile (R423): U and C where it is written, the task located, whether a division was inexact. -/
structure Decision where
  written : Option (List Nat × List (List Int))
  located : Option Nat
  inexact : Bool
  deriving DecidableEq, Repr

def decideTile (ws : List Word) (from_ : List Nat) (rs : List (Nat × List Int)) (n : Nat) : Decision :=
  let c := codingOf ws
  match tryDecode ws from_ rs n c.verify with
  | (some w, x) => ⟨some w, none, x⟩
  | (none, x) =>
    if c.verify && decide (c.k + 2 ≤ from_.length) then
      let tries := from_.map fun t => (t, tryDecode ws (from_.filter fun y => decide (y ≠ t)) rs n true)
      let bad := x || tries.any fun t => t.2.2
      match tries.filterMap fun t => t.2.1.map fun w => (t.1, w) with
      | [(t, w)] => ⟨some w, some t, bad⟩
      | _ => ⟨none, none, bad⟩
    else ⟨none, none, x⟩

/-! ### Writing (R424, R428) -/

/-- A tile's element of group j at its row i and column l. -/
def Solved.at (c : Coding) (v : Solved) (j i l : Nat) : Int := (v.cs.getD (i * c.cols v.tile + l) []).getD j 0

/-- A written tile of a floating format: the bytes at their VAs, and whether one overflowed. -/
def floatCells (c : Coding) (v : Solved) : List (Nat × Byte) × Bool :=
  let ty : ElemType := if c.ofmt = 4 then .bf16 else if c.ofmt = 5 then .fp16 else .fp32
  let a := v.tile / c.tcn
  let b := v.tile % c.tcn
  let rs := (List.range c.k).flatMap fun j => (List.range (c.rows v.tile)).flatMap fun i =>
    (List.range (c.cols v.tile)).map fun l =>
      let x := v.at c j i l
      let (e, o) := if x = 0 then (0, false) else ty.round c.rnd (decide (x < 0)) x.natAbs ((v.lo : Int) - 258)
      (cellsAt (c.cva + (j * c.mg + a * c.tr + i) * c.pitch + c.size * (b * c.tc + l)) (leBytes c.size e), o)
  (rs.flatMap (·.1), rs.any (·.2))

/-- The column tiles that a 32-column block lies in. -/
def blockTiles (c : Coding) (q : Nat) : List Nat :=
  let first := 32 * q / c.tc
  let last := (min (32 * q + 31) (c.n - 1)) / c.tc
  (List.range (last + 1 - first)).map (first + ·)

/-- An SXI8 block of a row of C, once every tile in it is decided (R424): its scale from the written tiles' elements; elements
of unwritten tiles stay, padding is 0. -/
def sxi8Block (c : Coding) (x : Coded) (j row q : Nat) : List (Nat × Byte) × Bool :=
  let a := row / c.tr
  let solvedAt := fun (l : Nat) => x.solved.find? fun v => decide (v.tile = a * c.tcn + l / c.tc)
  let col := fun (l : Nat) => 32 * q + l
  let val := fun (l : Nat) => if c.n ≤ col l then some ((0 : Int), (0 : Int))
    else (solvedAt (col l)).map fun v => (v.at c j (row % c.tr) (col l % c.tc), (v.lo : Int) - 258)
  let vals := (List.range 32).map val
  let (scale, sat, qs) := stripeBlock (vals.map fun v => v.getD (0, 0))
  let g := j * c.mg + row
  let cells := (List.range 32).filterMap fun l =>
    if (vals.getD l none).isSome then some (c.cva + g * c.pitch + col l, BitVec.ofInt 8 (qs.getD l 0)) else none
  (cells ++ cellsAt (c.cva + c.m * c.pitch + 2 * (g * c.blocks + q)) (leBytes 2 scale), sat)

/-- The SXI8 blocks that a decided tile completes. -/
def sxi8Cells (c : Coding) (x : Coded) (tile : Nat) : List (Nat × Byte) × Bool :=
  let a := tile / c.tcn
  let b := tile % c.tcn
  let first := b * c.tc / 32
  let last := (b * c.tc + c.cols tile - 1) / 32
  let ready := ((List.range (last + 1 - first)).map (first + ·)).filter fun q =>
    (blockTiles c q).all fun t => x.decoded.contains (a * c.tcn + t)
  let rs := ready.flatMap fun q => (List.range c.k).flatMap fun j => (List.range (c.rows tile)).map fun i =>
    sxi8Block c x j (a * c.tr + i) q
  (rs.flatMap (·.1), rs.any (·.2))

/-- The TWR of a group of a written tile (R428): of more than nine words per element it is no image that a parent accepts (R45). -/
def exportImage (c : Coding) (v : Solved) (j : Nat) : List Byte :=
  let es := v.cs.map fun cs => cs.getD j 0
  let n := ((List.range 11).find? fun n => es.all (fitsWords (n + 1))).getD 10 + 1
  leBytes 8 (c.cols v.tile * 2 ^ 48 + c.rows v.tile * 2 ^ 32 + n * 2 ^ 16 + v.lo)
    ++ es.flatMap fun e => leBytes (8 * n) (unsignedOf e (64 * n))

/-- The posts of an exported tile to a parent in this package; those to another leave it (log entry 8). -/
def exportPosts (pkg : Nat) (ws : List Word) (v : Solved) : List Post :=
  let c := codingOf ws
  let w := wd ws 30
  if bits w 5 0 ≠ pkg then []
  else (List.range c.k).map fun j =>
    let tile := (j * c.mg / c.tr + v.tile / c.tcn) * c.tcn + v.tile % c.tcn
    ⟨bits w 13 8 * 2 ^ 26 + bits w 19 16 * 2 ^ 22 + tile, true, pkg, 0, 0, exportImage c v j⟩

/-- The bit of a located task (R423). -/
def faultBit (ws : List Word) (t : Nat) : Nat := if (codingOf ws).outer then t else dieMap ws t

/-- A bit added to a mask. -/
def orBit (m n : Nat) : Nat := m ||| 2 ^ n

/-- A solved tile's effect on its slot: values kept, LOC, UNLOC and CAUSE. -/
def Coded.takeDecision (x : Coded) (tile lo : Nat) (d : Decision) : Coded :=
  let x := { x with decoded := x.decoded ++ [tile], inexact := x.inexact || d.inexact }
  match d.written with
  | none => { x with unloc := true }
  | some (_, cs) =>
    { x with solved := x.solved ++ [⟨tile, lo, cs⟩],
             loc := match d.located with
               | some t => orBit x.loc (faultBit x.desc t)
               | none => x.loc }

/-- What a decoder has to write of a tile that has been solved: C, or the parent's posts. -/
def Coded.decoder (x : Coded) (pkg slot tile : Nat) (d : Decision) : Decoder :=
  let c := codingOf x.desc
  let used := match d.written with
    | some w => w.1.foldl orBit 0
    | none => 0
  let idle : Decoder := ⟨slot, tile, [], used, false, false, []⟩
  if c.ofmt = 7 then
    let (cells, sat) := sxi8Cells c x tile
    { idle with todo := cells, sat := sat }
  else match x.solved.find? fun v => decide (v.tile = tile) with
    | none => idle
    | some v =>
      if c.isExport then { idle with posts := exportPosts pkg x.desc v }
      else
        let (cells, ofl) := floatCells c v
        { idle with todo := cells, ofl := ofl }

/-- A decoder that has written all its bytes is done with its tile. -/
def State.decoderDone (s : State) (k : Nat) (d : Decoder) : State :=
  let x := s.codedSlot d.slot
  { s with decoders := Tab.erase s.decoders k, posts := s.posts ++ d.posts }.setCoded d.slot
    { x with written := x.written ++ [d.tile], used := x.used ||| d.used, ofl := x.ofl || d.ofl, sat := x.sat || d.sat }

/-- A decoder writes one of its 64-byte pieces, which one a free choice (R307), or is done. -/
def State.decoderWrite (s : State) (k : Nat) (d : Decoder) : State :=
  match (d.todo.map fun c => c.1 / 64).eraseDups with
  | [] => s.decoderDone k d
  | l :: ls =>
    let (n, s) := s.draw
    let line := (l :: ls).getD (Config.freeNat n % (ls.length + 1)) l
    let x := s.codedSlot d.slot
    let mine := d.todo.filter fun c => decide (c.1 / 64 = line)
    match s.codedShut x.pages (mine.map (·.1)) with
    | some t => t
    | none =>
      let d := { d with todo := d.todo.filter fun c => decide (c.1 / 64 ≠ line) }
      let s := s.codedPut d.slot false x.pages mine
      if d.todo.isEmpty then s.decoderDone k d else { s with decoders := Tab.set s.decoders k d }

/-- The returns of a decided tile read; those that cannot be are absent. -/
def State.readReturns (s : State) (x : Coded) (tile : Nat) : List Nat → State × List Read
  | [] => (s, [])
  | t :: ts =>
    let (s, r) := s.readReturn x tile t
    let (s, rs) := s.readReturns x tile ts
    (s, r.toList ++ rs)

/-- Decoding a tile may end its operator, and on this tick a post of the operator was taken, before which the end would have come (R430):
it goes on at the next. -/
def State.endsLater (s : State) (n tile : Nat) : Bool :=
  let x := s.codedSlot n
  (x.returns.any fun r => decide (r.2 = s.tick)) && (List.range (codingOf x.desc).tiles).all fun t => decide (t = tile) || x.written.contains t

/-- A free decoder takes a decided tile and decides which returns agree. -/
def State.decodeTile (s : State) (k n tile : Nat) : State :=
  let x := s.codedSlot n
  let from_ := ((x.decided.find? fun d => decide (d.1 = tile)).map (·.2)).getD []
  let (s, rs) := s.readReturns x tile from_
  let lo := commonLo rs
  let c := codingOf x.desc
  let d := decideTile x.desc (rs.map (·.task)) (rs.filterMap (Read.aligned lo)) (c.rows tile * c.cols tile)
  let x := x.takeDecision tile lo d
  let w := x.decoder s.pkg n tile d
  let s := s.setCoded n x
  if w.todo.isEmpty then s.decoderDone k w else { s with decoders := Tab.set s.decoders k w }

/-- R421 to R424: a decoder takes the next decided tile when it is free, else writes a piece of its tile. -/
def execTileDecode (decoder : Nat) (s : State) : Host.Outcome State Fault Refusal :=
  happen s <|
    match Tab.find? s.decoders decoder, s.decodeq with
    | some d, _ => if s.endsLater d.slot d.tile then none else some (s.decoderWrite decoder d)
    | none, [] => none
    | none, (n, tile) :: q =>
      let x := s.codedSlot n
      let from_ := ((x.decided.find? fun d => decide (d.1 = tile)).map (·.2)).getD []
      if s.endsLater n tile then none
      else match s.codedShut x.pages (from_.flatMap (s.returnVas x tile)) with
        | some t => some t
        | none => some (({ s with decodeq := q } : State).decodeTile decoder n tile)

/-! ### The end (R425, R426) -/

/-- Tasks that returned every tile. -/
def Coded.returnedAll (x : Coded) : Nat :=
  let c := codingOf x.desc
  ((List.range c.tasks).filter fun t => (List.range c.tiles).all fun n => (Tab.find? x.returns (t, n)).isSome).foldl orBit 0

/-- The status word (R426). -/
def Coded.statusWord (x : Coded) (miss : Bool) : DWord :=
  let cause := if miss then Cause.deadlineMiss.code else if x.inexact then Cause.decodeInconsistent.code else 0
  let ret := x.returnedAll
  dw (cause * 2 ^ 56 + x.loc / 256 * 2 ^ 48 + x.used / 256 * 2 ^ 40 + ret / 256 * 2 ^ 32 + b2n x.sat * 2 ^ 27
    + b2n x.ofl * 2 ^ 26 + b2n miss * 2 ^ 25 + b2n x.unloc * 2 ^ 24 + x.loc % 256 * 2 ^ 16 + x.used % 256 * 2 ^ 8 + ret % 256)

/-- An operator ends: its task jobs are stopped, what is left of its tiles is abandoned, its status word fixed. -/
def State.endOperator (s : State) (n : Nat) (miss : Bool) : State :=
  let x := s.codedSlot n
  let s := x.tasks.foldl (fun s t => s.endJob t.2 0) s
  let s := { s with decodeq := s.decodeq.filter fun q => decide (q.1 ≠ n)
                    decoders := s.decoders.filter fun q => decide (q.2.slot ≠ n) }
  s.setCoded n { x with running := false, ended := true, status := x.statusWord miss }

/-- R425: the end once every tile is decided and written. -/
def execOperatorEnd (slot : Nat) (s : State) : Host.Outcome State Fault Refusal :=
  happen s (if (s.codedSlot slot).finished then some (s.endOperator slot false) else none)

/-- R425: the end at D: MISS, and DEADLINE_MISS reported with D in EWORD.TICK (what else that word holds is free). -/
def execOperatorDeadline (slot : Nat) (s : State) : Host.Outcome State Fault Refusal :=
  happen s <|
    let x := s.codedSlot slot
    if x.running && !x.finished && decide (x.deadline ≤ s.tick) then
      let (n, s) := s.draw
      let w := dw (x.deadline % 2 ^ 32 * 2 ^ 32) ||| (Config.freeWord n &&& 0xFFFFFFFF)
      some ((s.endOperator slot true).owe x.lc x.ctx ⟨.deadlineMiss, dw slot, w⟩)
    else none

end Sys2Proof.Machine
end

