-- ==== Sys2Proof/Machine/Exchange.lean ====
section
/-!
DEFINITION. The lattice exchange (spec/15_lattice_regions_watches.md R383 to R388): schedules, inner rounds, the join of an
arriving line, outer rounds.
-/

namespace Sys2Proof.Machine

/-! ### Schedules (R385, R386) -/

/-- The rounds of a table: NR groups of four words after the header. -/
def roundsOf (ws : List Word) (n : Nat) : List Round :=
  (List.range n).map fun r =>
    let w1 := wd ws (4 * r + 5)
    ⟨bits (wd ws (4 * r + 4)) 15 0, (List.range 4).filterMap fun p =>
      let b := bits w1 (8 * p + 7) (8 * p)
      if b = 0xFF then none else some (bits b 3 0, bits b 7 4)⟩

/-- The sites of a round's pairs. -/
def Round.sites (r : Round) : List Nat := r.pairs.flatMap fun p => [p.1, p.2]

/-- The words of a schedule's header that break R385. -/
def scheduleHead (ws : List Word) : List (Nat × Bool) :=
  [ (0, decide (wd ws 0 = 0) || decide (16 < wd ws 0)), (1, decide (wd ws 1 ≠ 0)), (2, decide (wd ws 2 ≠ 0)),
    (3, decide (wd ws 3 ≠ 0)) ]

/-- The words of a schedule's rounds that break R385. -/
def scheduleBody (ws : List Word) (rs : List Round) : List (Nat × Bool) :=
  (List.range rs.length).flatMap fun r =>
    let x := rs.getD r ⟨0, []⟩
    [ (4 * r + 4, decide (2 ^ 16 ≤ wd ws (4 * r + 4)) || decide (x.dur < 218)),
      (4 * r + 5, (x.sites.any fun y => decide (8 < y)) || !decide x.sites.Nodup),
      (4 * r + 6, decide (wd ws (4 * r + 6) ≠ 0)), (4 * r + 7, decide (wd ws (4 * r + 7) ≠ 0)) ]

/-- A round carries what the sites of S hold to their partners (R386). -/
def spreadRound (sites : List Nat) (r : Round) : List Nat :=
  (sites ++ r.pairs.flatMap fun p => if sites.contains p.1 || sites.contains p.2 then [p.1, p.2] else []).eraseDups

/-- Two cycles from any site reach every site (R386). -/
def connected (rs : List Round) : Bool :=
  (List.range 9).all fun a =>
    let sites := (rs ++ rs).foldl spreadRound [a]
    (List.range 9).all fun x => sites.contains x

/-- R267, R385, R386: taken at the next cycle start, or 1 where the table does not connect the sites. -/
def execLxset (h : BitVec 4) (a d : BitVec 5) (s : State) : Host.Outcome State Fault Refusal :=
  lcWord s do
    let (i, _) ← lcContext s true true true
    firmwareOnly i
    lining s
    let off := (s.rg a).toNat
    let (s, p, hd) ← readVia s h off 16 16
    let va := p.va + off
    recordIf (scheduleHead (wordsOf hd 4)) (dw va)
    let n := wd (wordsOf hd 4) 0
    let (s, _, bs) ← readVia s h off (16 + 16 * n) 16
    let ws := wordsOf bs (4 + 4 * n)
    let rs := roundsOf ws n
    recordIf (scheduleBody ws rs) (dw va)
    if connected rs && decide (9 ≤ s.mgc.stepDone) then .ok (({ s with exchange := { s.exchange with next := some rs } }.wg d 0).retire)
    else .ok ((s.wg d 1).retire)

/-! ### Inner rounds (R383) -/

/-- The physical address of a site's replica at o, in a package. -/
def sitePa (pkg site o : Nat) : Nat :=
  if site < 8 then pkg * 2 ^ 42 + site * 2 ^ 36 + o else pkg * 2 ^ 42 + 2 ^ 40 + o

/-- The addresses of a line. -/
def lineAt (pkg site o : Nat) : List Nat := (List.range 64).map (sitePa pkg site o + ·)

/-- The marks after a change of schedule (R386): a line that had one has one towards every partner of its site too. -/
def widen (sched : List Round) (ds : List Dirty) : List Dirty :=
  ds.foldl (fun out d => (partners sched d.site).foldl (fun out p => addDirty out { d with partner := p }) out) ds

/-- The next inner round: the next of the schedule, or the first of a new cycle, where an accepted table takes effect. -/
def Exchange.nextRound (x : Exchange) (tick : Nat) : Exchange :=
  if x.round + 1 < x.sched.length then { x with round := x.round + 1, start := tick }
  else
    let x := { x with round := 0, start := tick, cycles := x.cycles + 1 }
    match x.next with
    | none => x
    | some rs => { x with sched := rs, next := none, dirty := widen rs x.dirty }

/-- What the joins in a line have released (R151), by their offset in it. -/
def State.lineClocks (s : State) (base : Nat) : Tab (Nat × Agent × Nat) Clock :=
  s.latClocks.filterMap fun x => if base ≤ x.1.1 ∧ x.1.1 < base + 64 then some ((x.1.1 - base, x.1.2), x.2) else none

/-- It has come with the line to another replica. -/
def State.noteLine (s : State) (base : Nat) (ks : Tab (Nat × Agent × Nat) Clock) : State :=
  { s with latClocks := ks.foldl (fun t x =>
      let key := (base + x.1.1, x.1.2)
      Tab.set t key ((Tab.get t key Clock.empty).join x.2)) s.latClocks }

/-- A pair's mark: the line is read and sent, its mark cleared; an uncorrectable line is kept dirty (R450). -/
def State.sendLine (s : State) (d : Dirty) : State :=
  let pas := lineAt s.pkg d.site d.o
  match s.deviceRead pas with
  | (s, false) => s
  | (s, true) =>
    let x := s.exchange
    { s with exchange := { x with dirty := x.dirty.filter fun e => decide (e ≠ d),
                                  flying := x.flying ++ [⟨d.site, d.partner, d.o, d.ltype, d.sys, s.rdAll pas,
                                    s.lineClocks (sitePa s.pkg d.site d.o)⟩] } }

/-- The marks that a round's pairs exchange. -/
def roundMarks (r : Round) (ds : List Dirty) : List Dirty :=
  ds.filter fun d => r.pairs.any fun p =>
    (decide (p.1 = d.site) && decide (p.2 = d.partner)) || (decide (p.2 = d.site) && decide (p.1 = d.partner))

/-- The current inner round has ended. -/
def Exchange.roundOver (x : Exchange) (tick : Nat) : Bool :=
  decide (x.start + (x.sched.getD x.round ⟨0, []⟩).dur ≤ tick) && x.flying.isEmpty

/-- The marks that the next round's snapshot takes. -/
def Exchange.nextMarks (x : Exchange) (tick : Nat) : List Dirty :=
  let x := x.nextRound tick
  roundMarks (x.sched.getD x.round ⟨0, []⟩) x.dirty

/-- The next round takes its snapshot now: the channels of its lines are open (R454). -/
def State.roundReady (s : State) : Bool :=
  s.exchange.roundOver s.tick && decide (9 ≤ s.mgc.stepDone)
    && (s.exchange.nextMarks s.tick).all fun d => !s.chanShut (lineAt s.pkg d.site d.o) none

/-- R383: the round's least length has passed and its lines have been received: the next round takes its snapshot. -/
def execExchangeRoundStart (s : State) : Host.Outcome State Fault Refusal :=
  happen s <|
    if s.roundReady then
      let x := s.exchange.nextRound s.tick
      some ((s.exchange.nextMarks s.tick).foldl State.sendLine { s with exchange := x })
    else none

/-! ### The join of a line (R384, R388) -/

/-- A line joined into a site's replica in one step at its home: the words of an uncorrectable line stay uncorrectable; a
change marks the line dirty towards every partner but the sender. -/
def State.joinInto (s : State) (site o ltype : Nat) (sys : Bool) (data : List Byte) (src pkg : Option Nat) : State :=
  let pas := lineAt s.pkg site o
  let old := s.rdAll pas
  let new := joinedLine ltype old data
  if old = new then s
  else
    let bad := (s.ecc.filter fun e => decide (2 ≤ s.wrong e.1) && (pas.map fun a => codewordOf (s.direct a)).contains e.1)
    let t := s.perform (cellsAt (sitePa s.pkg site o) new) true
    { t with ecc := bad.foldl (fun (m : Tab Nat Nat) (e : Nat × Nat) => Tab.set m e.1 e.2) t.ecc }.markDirty site o ltype sys src pkg

/-- R384. `pos` names the line on its way, which takes with it what its joins released; it waits for a channel that is shut (R454). -/
def execExchangeLineJoin (pos : Nat) (s : State) : Host.Outcome State Fault Refusal :=
  happen s <|
    match s.exchange.flying[pos]? with
    | none => none
    | some f =>
      let t := { s with exchange := { s.exchange with flying := s.exchange.flying.eraseIdx pos } }
      if s.chanShut (lineAt s.pkg f.dst f.o) none then none
      else some ((t.joinInto f.dst f.o f.ltype f.sys f.data (some f.src) none).noteLine (sitePa s.pkg f.dst f.o) f.clocks)

/-! ### Outer rounds (R388) -/

/-- The next outer round: the next of six, or the first of a new cycle, where the ranks are those of the packages present
and the lines that have marks get one towards every new partner too. -/
def Exchange.nextOuter (x : Exchange) (pkg tick : Nat) : Exchange :=
  if x.outerRound + 1 < 6 then { x with outerRound := x.outerRound + 1, outerStart := tick }
  else
    let x := { x with outerRound := 0, outerStart := tick, outerCycles := x.outerCycles + 1 }
    if x.ranks = x.present then x
    else
      let lines := (x.outerDirty.map (·.2)).eraseDups
      { x with ranks := x.present,
               outerDirty := (x.outerDirty ++ lines.flatMap fun l => (outerPartners pkg x.present).map fun p => (p, l)).eraseDups }

/-- The package that the current outer round pairs a package with. -/
def Exchange.outerPartner (x : Exchange) (pkg : Nat) : Option Nat :=
  match findIdx (fun p => decide (p = pkg)) x.ranks with
  | none => none
  | some r => x.ranks[r ^^^ 2 ^ x.outerRound]?

/-- A line towards a package: read and sent, its mark cleared, or kept dirty where it is uncorrectable. -/
def State.sendOuter (s : State) (m : Nat × Nat × Nat) : State :=
  let pas := lineAt s.pkg 8 m.2.1
  match s.deviceRead pas with
  | (s, false) => s
  | (s, true) =>
    let x := s.exchange
    { s with exchange := { x with outerDirty := x.outerDirty.filter fun e => decide (e ≠ m),
                                  sent := x.sent ++ [(m.1, ⟨m.2.1, m.2.2, s.rdAll pas⟩)] } }

/-- A line of a lattice page, as it travels between packages. -/
def LatLine.sound (l : LatLine) : Bool :=
  decide (1 ≤ l.ltype) && decide (l.ltype ≤ 8) && decide (l.data.length = 64) && decide (l.o % 64 = 0) && decide (l.o < 2 ^ 36)

/-- The least length of an outer round (R388). -/
def outerLength : Nat := 3400

/-- A line that a package has sent, joined into the site-8 replica; every write of that package performed so far stands before it, as if the
joins that it carries were releases of them all: DEDUCED (log entry 8). -/
def State.joinOuter (s : State) (p : Nat) (l : LatLine) : State :=
  let k := Clock.empty.raise (.away p) 3 s.cmdSeq
  (s.joinInto 8 l.o l.ltype true l.data none (some p)).noteLine (sitePa s.pkg 8 l.o)
    ((List.range 16).map fun i => ((4 * i, .away p, 3), k))

/-- The lines that the next outer round sends and takes lie in open channels (R454). -/
def State.outerReady (s : State) (lines : List LatLine) : Bool :=
  let x := s.exchange.nextOuter s.pkg s.tick
  ((x.outerDirty.filter fun m => decide (some m.1 = x.outerPartner s.pkg)).all fun m => !s.chanShut (lineAt s.pkg 8 m.2.1) none)
    && lines.all fun l => !s.chanShut (lineAt s.pkg 8 l.o) none

/-- R388: at least 3,400 ticks after the last, an outer round: the lines dirty towards the partner are sent, and the
partner's lines, the operand, are joined into the site-8 replica. Without a partner the round is sat out. -/
def execOuterExchangeRound (lines : List LatLine) (s : State) : Host.Outcome State Fault Refusal :=
  happen s <|
    if s.tick < s.exchange.outerStart + outerLength ∨ s.mgc.stepDone < 10 ∨ !s.outerReady lines then none
    else
      let x := { s.exchange.nextOuter s.pkg s.tick with sent := [] }
      let s := { s with exchange := x }
      match x.outerPartner s.pkg with
      | none => some s
      | some p =>
        let s := (x.outerDirty.filter fun m => decide (m.1 = p)).foldl State.sendOuter s
        some ((lines.filter LatLine.sound).foldl (fun s l => s.joinOuter p l) s)

/-! ### The domain (R407) -/

/-- A route to another package that training may give: of one to six links, the first a link of this package that is up. -/
def State.routeOk (s : State) (r : Nat × List Nat) : Bool :=
  decide (r.1 ≠ s.pkg) && decide (r.1 < 64) && decide (r.2.length ≤ 6) && (match r.2 with
    | [] => false
    | l :: _ => decide (l < 18) && (s.seam l).up)

/-- The routes that training gives: one for each destination, of two packages with one number that of the earlier. -/
def State.routesOf (s : State) (rs : List (Nat × List Nat)) : Tab Nat (List Nat) :=
  (rs.filter s.routeOk).foldl (fun t r => if (Tab.find? t r.1).isSome then t else t ++ [r]) []

/-- What is counted in ticks from a moment when PCYC moves to another value. -/
def rebasedTick (old new t : Nat) : Nat := new + t - old

/-- PCYC set by the training of the domain (R407): what has begun lasts as long as before, and the periods go on from the new value. -/
def State.setPcyc (s : State) (p : Nat) : State :=
  let f := rebasedTick s.tick p
  let g := rebasedTick s.now (10 * p + s.now % 10)
  let last := fun (n : Nat) => p / n * n
  { s with
    now := 10 * p + s.now % 10
    served := ⟨last 13600, s.served.boundary.map fun _ => last 6800, s.served.refill.map fun _ => last 27200,
      last (max 1 s.ports.purseRate.toNat), last 170000, p / 34000 + 1⟩
    cores := s.cores.map fun kc => (kc.1, { kc.2 with
      railHold := g kc.2.railHold, profileDue := g kc.2.profileDue, fallFrom := kc.2.fallFrom.map f
      drops := kc.2.drops.map fun d => { d with tick := f d.tick }
      mx := { kc.2.mx with
        acc0 := { kc.2.mx.acc0 with final := g kc.2.mx.acc0.final }, acc1 := { kc.2.mx.acc1 with final := g kc.2.mx.acc1.final }
        flight := kc.2.mx.flight.map fun x => { x with stop := g x.stop } } })
    chans := s.chans.map fun c => (c.1, { c.2 with
      exceeded := c.2.exceeded.map f, writeWait := c.2.writeWait.map fun w => (f w.1, w.2), closed := c.2.closed.map f
      scrubDue := f c.2.scrubDue, visit := c.2.visit.map fun v => { v with began := f v.began } })
    dies := s.dies.map fun d => (d.1, { d.2 with
      thermalChange := d.2.thermalChange.map f, sends := d.2.sends.map fun x => { x with due := f x.due } })
    mgc := { s.mgc with changeCd := s.mgc.changeCd.map f, changeSf := s.mgc.changeSf.map f }
    exchange := { s.exchange with start := f s.exchange.start, outerStart := f s.exchange.outerStart } }

/-- R407, R388: the set of packages that this one has a route to changes; the ranks follow at the next outer cycle start. As the domain is
first formed, PCYC is set, where a package of lower number is in it: to what that package's is, a free value. -/
def execPresentPackagesChange (routes : List (Nat × List Nat)) (s : State) : Host.Outcome State Fault Refusal :=
  let t := s.routesOf routes
  let ps := (List.range 64).filter fun p => (Tab.find? t p).isSome || decide (p = s.pkg)
  happen s <|
    if s.mgc.stepDone < 10 then none
    else
      let forms := decide (s.mgc.stepDone = 10) && s.routes.isEmpty && ps.any fun p => decide (p < s.pkg)
      let s := { s with routes := t, exchange := { s.exchange with present := ps } }
      if forms then
        let (n, s) := s.draw
        some (s.setPcyc (Config.freeNat n))
      else some s

end Sys2Proof.Machine
end

