-- ==== Sys2Proof/Machine/Host.lean ====
section
/-!
DEFINITION. The host's accesses (spec/16_host_seam_links.md R400 to R403): the card-store window, the aperture, AtomicOps.
-/

namespace Sys2Proof.Machine

/-! ### The card-store window (R400) -/

/-- A window write into a slot is taken: empty, or prepared and no live template. -/
def State.windowOpen (s : State) (id : Nat) : Bool :=
  (decide ((s.card id).state = .empty) || decide ((s.card id).state = .prepared)) && !s.isTemplate id

/-- Bytes of a window write that fall into a slot: at `o` of the slot. -/
def State.windowSlot (s : State) (id o : Nat) (bs : List Byte) : State :=
  if s.windowOpen id then
    let old := (s.card id).image
    s.writeCard id o bs ⟨wordsOf (old.take o ++ bs ++ old.drop (o + bs.length)) 32, .prepared, 0, Clock.empty⟩
  else { s with host := { s.host with err := s.host.err ||| 1 } }

/-- R400. -/
def execHostCardWindowWrite (off : Nat) (data : List Byte) (s : State) : Host.Outcome State Fault Refusal :=
  let first := off / 128
  let n := if data.isEmpty then 0 else (off + data.length - 1) / 128 + 1 - first
  .next ((List.range n).foldl (fun s k =>
    let lo := max off ((first + k) * 128)
    let hi := min (off + data.length) ((first + k) * 128 + 128)
    s.windowSlot (first + k) (lo % 128) ((data.drop (lo - off)).take (hi - lo))) s)

/-- A read of the window returns the slots as they stand (R400). What it returns of a slot that cannot be corrected no rule states: free
bytes. -/
def State.windowRead (s : State) (off len : Nat) : State :=
  match s.deviceRead (run (cardPa 0 off) len) with
  | (s, true) =>
    { s with host := { s.host with answer := (run off len).map fun a => (s.card (a / 128)).image.getD (a % 128) 0, aborted := false } }
  | (s, false) =>
    let (n, s) := s.draw
    { s with host := { s.host with answer := (List.range len).map (Config.freeByte n), aborted := false } }

/-! ### The aperture (R402, R403) -/

/-- What the translation of an access gives: its pages, piece by piece of 64 KiB, with each piece's offset in its page, its
place in the access and its length; a cause; or an entry that makes it wait. -/
inductive HostWalk where
  | pieces (ps : List (Page × Nat × Nat × Nat))
  | fault (c : Cause)
  | later
  deriving DecidableEq, Repr

/-- The pieces of an access of n bytes at a VA that end at 64 KiB boundaries: VA, place, length. -/
def hostPieces (va n : Nat) : List (Nat × Nat × Nat) :=
  let first := va / 65536
  let count := if n = 0 then 0 else (va + n - 1) / 65536 + 1 - first
  (List.range count).map fun k =>
    let lo := max va ((first + k) * 65536)
    let hi := min (va + n) ((first + k) * 65536 + 65536)
    (lo % 2 ^ 56, lo - va, hi - lo)

/-- Each piece walked afresh through the root of APROOT. -/
def State.hostWalk (s : State) : List (Nat × Nat × Nat) → State × HostWalk
  | [] => (s, .pieces [])
  | (va, i, n) :: rest =>
    match s.deviceWalk s.host.apRoot va with
    | (s, .fault c _ _) => (s, .fault c)
    | (s, .stuck _ _) => (s, .later)
    | (s, .page p) =>
      match s.hostWalk rest with
      | (s, .pieces ps) => (s, .pieces ((p, va - p.va, i, n) :: ps))
      | r => r

/-- The VA of a byte of the aperture. -/
def State.apertureVa (s : State) (off : Nat) : Nat := (s.host.apBase.toNat + off) % 2 ^ 56

/-- A failed access is recorded (R401): XLATE with its cause. -/
def State.hostFault (s : State) (c : Cause) : State :=
  { s with host := { s.host with err := (s.host.err &&& ~~~(0xFF00 : DWord)) ||| dw (2 + 256 * c.code) } }

/-- The physical addresses of a piece for an access at site 8; none outside a tensor (R366). -/
def pieceAddrs (p : Page) (off n : Nat) : Option (List Nat) := (List.range n).mapM fun i => p.byte 8 (off + i)

/-- The addresses of every piece, with its page, place and length. -/
def hostAddrs (ps : List (Page × Nat × Nat × Nat)) : Option (List (Page × Nat × Nat × List Nat)) :=
  ps.mapM fun x => (pieceAddrs x.1 x.2.1 x.2.2.2).map fun pas => (x.1, x.2.1, x.2.2.1, pas)

/-- A core whose inbound port is closed to a host access (R411). -/
def State.hostGated (s : State) (pas : List Nat) : Option Nat := s.gatedCore (.ctx 0 .l) pas

/-- An access of n bytes at an offset of the aperture: what `go` makes of its pieces, `bad` of a cause. It waits at a locked entry, at a
channel that is shut, and for a core that it asks to be ungated. -/
def State.hostAccess (s : State) (off n : Nat) (bad : State → Cause → State)
    (go : State → List (Page × Nat × Nat × List Nat) → State) : State :=
  match s.hostWalk (hostPieces (s.apertureVa off) n) with
  | (s, .fault c) => bad s c
  | (s, .later) => s
  | (s, .pieces ps) => match hostAddrs ps with
    | none => bad s .handleBound
    | some xs => match s.hostGated (xs.flatMap fun x => x.2.2.2) with
      | some c => s.askUngate c
      | none => if xs.any fun x => s.chanShut x.2.2.2 (some x.1.hash) then s else go s xs

/-- The answer of a read, or of an AtomicOp. -/
def State.hostAnswer (s : State) (bs : List Byte) (aborted : Bool) : State :=
  { s with host := { s.host with answer := bs, aborted := aborted } }

/-- The bytes that the host finds at an address range of a page (R301, R402): a replica's as it stands, others in words of 8 bytes, each the
bytes of one moment. -/
def State.hostLook (s : State) (p : Page) (pas : List Nat) : State × List Byte :=
  if p.ltype ≠ 0 then (s, s.rdAll pas)
  else s.readEach (fun s x => ((s.viewed .host x).1, (s.viewed .host x).2.1)) (splitBy (· / 8) pas)

/-- Bytes read piece by piece; a cause where one cannot be corrected. -/
def State.hostBytes (s : State) : List (Page × Nat × Nat × List Nat) → State × Option (List Byte)
  | [] => (s, some [])
  | x :: xs =>
    match s.deviceRead x.2.2.2 (some x.1.hash) with
    | (s, false) => (s, none)
    | (s, true) =>
      let (s, bs) := s.hostLook x.1 x.2.2.2
      let (s, bs) := s.hashBytes x.1.hash x.2.2.2 bs
      match s.hostBytes xs with
      | (s, some r) => (s, some (bs ++ r))
      | (s, none) => (s, none)

/-- R402, R403: a read that fails returns all ones. -/
def execHostApertureRead (off len : Nat) (s : State) : Host.Outcome State Fault Refusal :=
  let ones := List.replicate len (0xFF : Byte)
  let bad := fun (s : State) (c : Cause) => (s.hostFault c).hostAnswer ones false
  .next (s.hostAccess off len bad fun s xs => match s.hostBytes xs with
    | (s, some bs) => s.hostAnswer bs false
    | (s, none) => bad s .uncorrectable)

/-- The cause that refuses a host write through a page. -/
def Page.refusesWrite (p : Page) : Option Cause :=
  if p.trellis then some .trellisWrite else if !p.writable then some .permission else none

/-- The whole cells of a lattice page in a piece: bytes to skip before the first, and how many cells. -/
def wholeCells (t off n : Nat) : Nat × Nat :=
  let w := accessSize t
  let skip := (w - off % w) % w
  (skip, (n - skip) / w)

/-- The single-copy atomic units of a host write (R402): words of 8 bytes written wholly, else single bytes, or cells of es. -/
def hostUnits (es : Nat) (cells : List (Nat × Byte)) : List (List (Nat × Byte)) :=
  (unitsOf cells es).flatMap fun u => if u.length = 64 then (List.range 8).map fun i => (u.drop (8 * i)).take 8 else [u]

/-- The host as the writer through a page: at SYS scope (R402), with the write's place. -/
def hostWriter (p : Page) (n : Nat) : Writer := { who := .host, at_ := n, hash := some p.hash, scope := 3 }

/-- A piece of a host write: stored, or joined at site 8 cell by cell (R381, R402). -/
def State.hostPut (s : State) (data : List Byte) (x : Page × Nat × Nat × List Nat) : State :=
  let (p, off, i, pas) := x
  let bs := (data.drop i).take pas.length
  let (seq, s) := s.nextSeq
  let w := hostWriter p seq
  if p.ltype = 0 then (hostUnits 1 (pas.zip bs)).foldl (fun s u => s.perform u true w) s
  else
    let (skip, n) := wholeCells p.ltype off pas.length
    let es := accessSize p.ltype
    (hostUnits es (((pas.zip bs).drop skip).take (n * es))).foldl (fun s u =>
      s.joinUnit p.ltype 8 p.replicated (decide (p.scope = 3)) w (u.map (·.1)) (u.map (·.2))) s

/-- R402, R403: a write that fails is dropped. -/
def execHostApertureWrite (off : Nat) (data : List Byte) (s : State) : Host.Outcome State Fault Refusal :=
  .next (s.hostAccess off data.length State.hostFault fun s xs =>
    match xs.findSome? fun x => x.1.refusesWrite with
    | some c => s.hostFault c
    | none => xs.foldl (fun s x => s.hostPut data x) s)

/-! ### AtomicOps (R402, R403) -/

/-- An AtomicOp is refused: HOSTERR.ATOM, Completer Abort. -/
def State.atomRefused (s : State) : State := { s with host := { s.host with err := s.host.err ||| 4, aborted := true, answer := [] } }

/-- An AtomicOp aborted by a cause. -/
def State.atomFault (s : State) (c : Cause) : State := (s.hostFault c).hostAnswer [] true

/-- An AtomicOp (R141): op 0 ADD, 1 SWAP, 7 CAS with the expected value e. -/
def hostAtomic (s : State) (off n op : Nat) (b e : DWord) : State :=
  if (n ≠ 4 ∧ n ≠ 8) ∨ off % n ≠ 0 then s.atomRefused
  else s.hostAccess off n State.atomFault fun s xs =>
    match xs with
    | [] => s
    | (p, _, _, pas) :: _ =>
      if p.ltype ≠ 0 then s.atomRefused
      else match p.refusesWrite with
        | some c => s.atomFault c
        | none => match s.deviceRead pas (some p.hash) with
          | (s, false) => s.atomFault .uncorrectable
          | (s, true) =>
            let (s, bs) := (s.seenNow .host pas).hashBytes p.hash pas (s.rdAll pas)
            let old := leNat bs
            let new := amoNew op n old (b.toNat % 2 ^ (8 * n)) (e.toNat % 2 ^ (8 * n))
            let (seq, s) := s.nextSeq
            (s.perform (pas.zip (leBytes n new)) true (hostWriter p seq)).hostAnswer (leBytes n old) false

/-- R402: FetchAdd is AMO ADD. -/
def execHostAtomicFetchadd (off size : Nat) (b : DWord) (s : State) : Host.Outcome State Fault Refusal :=
  .next (hostAtomic s off size 0 b 0)

/-- R402: Swap is AMO SWAP. -/
def execHostAtomicSwap (off size : Nat) (b : DWord) (s : State) : Host.Outcome State Fault Refusal :=
  .next (hostAtomic s off size 1 b 0)

/-- R402: CAS is AMO CAS. -/
def execHostAtomicCas (off size : Nat) (cmp b : DWord) (s : State) : Host.Outcome State Fault Refusal :=
  .next (hostAtomic s off size 7 b cmp)

end Sys2Proof.Machine
end

