-- ==== Sys2Proof/Machine/Integer.lean ====
section
/-!
DEFINITION. Shared subset: integer arithmetic and immediate forms (spec/03_shared_integer_control.md R92 to R96).
-/

namespace Sys2Proof.Machine

/-- A shared word whose whole effect is a new value of g[gd]. -/
def setReg (d : BitVec 5) (v : DWord) (s : State) : Host.Outcome State Fault Refusal :=
  shared s fun s => .ok ((s.wg d v).retire)

/-! ### The values of R93 to R96 -/

/-- The high half of a product of integers, as a register value. -/
def highHalf (x : Int) : DWord := dwi (x / (2 ^ 64 : Nat))

/-- The quotient and remainder of DIV and REM (R94): truncation towards zero. -/
def divSigned (a b : DWord) : DWord × DWord :=
  if b = 0 then (dwi (-1), a) else (dwi (a.toInt.tdiv b.toInt), dwi (a.toInt.tmod b.toInt))

/-- The quotient and remainder of DIVU and REMU (R94). -/
def divUnsigned (a b : DWord) : DWord × DWord :=
  if b = 0 then (dwi (-1), a) else (dw (a.toNat / b.toNat), dw (a.toNat % b.toNat))

/-- A truth value in a register. -/
def flag (b : Bool) : DWord := if b then 1 else 0

/-- ROL (R93). -/
def rotl (a : DWord) (n : Nat) : DWord := if n = 0 then a else (a <<< n) ||| (a >>> (64 - n))

/-- CLZ (R93): the number of leading zero bits. -/
def clz (a : DWord) : Nat := if a = 0 then 64 else 63 - Nat.log2 a.toNat

/-- The count of a register shift: g[gb]<5:0>. -/
def shiftCount (b : DWord) : Nat := b.toNat % 64

/-- EXTU (R93): w + 1 bits from bit n on. -/
def extract (a : DWord) (n w : Nat) : DWord := dw (a.toNat / 2 ^ n % 2 ^ (w + 1))

/-! ### Register forms (R93) -/

def execAdd (d a b : BitVec 5) (s : State) : Host.Outcome State Fault Refusal := setReg d (s.rg a + s.rg b) s

def execSub (d a b : BitVec 5) (s : State) : Host.Outcome State Fault Refusal := setReg d (s.rg a - s.rg b) s

def execMul (d a b : BitVec 5) (s : State) : Host.Outcome State Fault Refusal := setReg d (s.rg a * s.rg b) s

def execMulh (d a b : BitVec 5) (s : State) : Host.Outcome State Fault Refusal :=
  setReg d (highHalf ((s.rg a).toInt * (s.rg b).toInt)) s

def execMulhu (d a b : BitVec 5) (s : State) : Host.Outcome State Fault Refusal :=
  setReg d (dw ((s.rg a).toNat * (s.rg b).toNat / 2 ^ 64)) s

def execDiv (d a b : BitVec 5) (s : State) : Host.Outcome State Fault Refusal :=
  setReg d (divSigned (s.rg a) (s.rg b)).1 s

def execDivu (d a b : BitVec 5) (s : State) : Host.Outcome State Fault Refusal :=
  setReg d (divUnsigned (s.rg a) (s.rg b)).1 s

def execRem (d a b : BitVec 5) (s : State) : Host.Outcome State Fault Refusal :=
  setReg d (divSigned (s.rg a) (s.rg b)).2 s

def execRemu (d a b : BitVec 5) (s : State) : Host.Outcome State Fault Refusal :=
  setReg d (divUnsigned (s.rg a) (s.rg b)).2 s

def execAnd (d a b : BitVec 5) (s : State) : Host.Outcome State Fault Refusal := setReg d (s.rg a &&& s.rg b) s

def execOr (d a b : BitVec 5) (s : State) : Host.Outcome State Fault Refusal := setReg d (s.rg a ||| s.rg b) s

def execXor (d a b : BitVec 5) (s : State) : Host.Outcome State Fault Refusal := setReg d (s.rg a ^^^ s.rg b) s

def execAndn (d a b : BitVec 5) (s : State) : Host.Outcome State Fault Refusal := setReg d (s.rg a &&& ~~~(s.rg b)) s

def execShl (d a b : BitVec 5) (s : State) : Host.Outcome State Fault Refusal :=
  setReg d (s.rg a <<< shiftCount (s.rg b)) s

def execShr (d a b : BitVec 5) (s : State) : Host.Outcome State Fault Refusal :=
  setReg d (s.rg a >>> shiftCount (s.rg b)) s

def execSra (d a b : BitVec 5) (s : State) : Host.Outcome State Fault Refusal :=
  setReg d ((s.rg a).sshiftRight (shiftCount (s.rg b))) s

def execRol (d a b : BitVec 5) (s : State) : Host.Outcome State Fault Refusal :=
  setReg d (rotl (s.rg a) (shiftCount (s.rg b))) s

def execSlt (d a b : BitVec 5) (s : State) : Host.Outcome State Fault Refusal := setReg d (flag ((s.rg a).slt (s.rg b))) s

def execSltu (d a b : BitVec 5) (s : State) : Host.Outcome State Fault Refusal :=
  setReg d (flag ((s.rg a).ult (s.rg b))) s

def execSeq (d a b : BitVec 5) (s : State) : Host.Outcome State Fault Refusal :=
  setReg d (flag (decide (s.rg a = s.rg b))) s

def execMin (d a b : BitVec 5) (s : State) : Host.Outcome State Fault Refusal :=
  setReg d (if (s.rg a).slt (s.rg b) then s.rg a else s.rg b) s

def execMax (d a b : BitVec 5) (s : State) : Host.Outcome State Fault Refusal :=
  setReg d (if (s.rg a).slt (s.rg b) then s.rg b else s.rg a) s

def execMinu (d a b : BitVec 5) (s : State) : Host.Outcome State Fault Refusal :=
  setReg d (if (s.rg a).ult (s.rg b) then s.rg a else s.rg b) s

def execMaxu (d a b : BitVec 5) (s : State) : Host.Outcome State Fault Refusal :=
  setReg d (if (s.rg a).ult (s.rg b) then s.rg b else s.rg a) s

def execClz (d a : BitVec 5) (s : State) : Host.Outcome State Fault Refusal := setReg d (dw (clz (s.rg a))) s

def execPopc (d a : BitVec 5) (s : State) : Host.Outcome State Fault Refusal :=
  setReg d (dw (popcount 64 (s.rg a).toNat)) s

def execIdx (d a b : BitVec 5) (sb : BitVec 3) (s : State) : Host.Outcome State Fault Refusal :=
  setReg d (s.rg a + (s.rg b <<< sb.toNat)) s

def execExtu (d a b : BitVec 5) (w : BitVec 6) (s : State) : Host.Outcome State Fault Refusal :=
  setReg d (extract (s.rg a) (shiftCount (s.rg b)) w.toNat) s

def execSext (d a : BitVec 5) (n : BitVec 6) (s : State) : Host.Outcome State Fault Refusal :=
  setReg d (dwi (sextInt (s.rg a).toNat (n.toNat + 1))) s

def execCmovnz (d a b : BitVec 5) (s : State) : Host.Outcome State Fault Refusal :=
  setReg d (if s.rg b = 0 then s.rg d else s.rg a) s

/-! ### Immediate forms (R95) -/

def execAddi (d a : BitVec 5) (i : BitVec 14) (s : State) : Host.Outcome State Fault Refusal :=
  setReg d (s.rg a + dwi (s.me.simm i)) s

def execAndi (d a : BitVec 5) (i : BitVec 14) (s : State) : Host.Outcome State Fault Refusal :=
  setReg d (s.rg a &&& dwi (s.me.simm i)) s

def execOri (d a : BitVec 5) (i : BitVec 14) (s : State) : Host.Outcome State Fault Refusal :=
  setReg d (s.rg a ||| dwi (s.me.simm i)) s

def execXori (d a : BitVec 5) (i : BitVec 14) (s : State) : Host.Outcome State Fault Refusal :=
  setReg d (s.rg a ^^^ dwi (s.me.simm i)) s

def execShli (d a : BitVec 5) (n : BitVec 6) (s : State) : Host.Outcome State Fault Refusal :=
  setReg d (s.rg a <<< n.toNat) s

def execShri (d a : BitVec 5) (n : BitVec 6) (s : State) : Host.Outcome State Fault Refusal :=
  setReg d (s.rg a >>> n.toNat) s

def execSrai (d a : BitVec 5) (n : BitVec 6) (s : State) : Host.Outcome State Fault Refusal :=
  setReg d ((s.rg a).sshiftRight n.toNat) s

def execSlti (d a : BitVec 5) (i : BitVec 14) (s : State) : Host.Outcome State Fault Refusal :=
  setReg d (flag (decide ((s.rg a).toInt < s.me.simm i))) s

def execSltiu (d a : BitVec 5) (i : BitVec 14) (s : State) : Host.Outcome State Fault Refusal :=
  setReg d (flag ((s.rg a).ult (dwi (s.me.simm i)))) s

def execMuli (d a : BitVec 5) (i : BitVec 14) (s : State) : Host.Outcome State Fault Refusal :=
  setReg d (s.rg a * dwi (s.me.simm i)) s

/-! ### Long immediates (R96) -/

def execLi (d : BitVec 5) (i : BitVec 19) (s : State) : Host.Outcome State Fault Refusal := setReg d (dwi (s.me.simm i)) s

def execLui (d : BitVec 5) (i : BitVec 19) (s : State) : Host.Outcome State Fault Refusal :=
  setReg d (dwi (s.me.simm i * (2 ^ 32 : Nat))) s

def execAuipc (d : BitVec 5) (i : BitVec 19) (s : State) : Host.Outcome State Fault Refusal :=
  setReg d (s.me.target (s.me.simm i)) s

end Sys2Proof.Machine
end

