-- ==== Sys2Proof/Machine/Link.lean ====
section
/-!
DEFINITION. Seam links (spec/16_host_seam_links.md R405 to R408): flits received and sent, replays and retraining, the choice of a VC at a
flit boundary. The messages that flits carry have no stated format (log entry 20).
-/

namespace Sys2Proof.Machine

/-! ### Receiving (R405, R406) -/

/-- A flit is whole: its CRC holds and its VC is 0, 1 or 2. -/
def flitOk (f : List Byte) : Bool :=
  decide (f.length = 256) && decide (crc32 (f.take 252) = leNat (f.drop 252)) && decide ((f.getD 240 0).toNat % 4 ≠ 3)

/-- The sequence number that a link takes next. -/
def Seam.expects (x : Seam) : Nat := match x.lastRecv with
  | none => 0
  | some n => (n + 1) % 65536

/-- The sent flits up to an acknowledged number leave the buffer. -/
def Seam.acknowledge (x : Seam) (ack : Nat) : Seam :=
  match findIdx (fun e => decide (e.1 = ack)) x.buffer with
  | none => x
  | some i => { x with buffer := x.buffer.drop (i + 1), replays := 0 }

/-- A number of credits for a VC changed. -/
def bump (xs : List Nat) (v : Nat) (f : Nat → Nat) : List Nat := xs.set v (f (xs.getD v 0))

/-- A flit accepted: what it acknowledges leaves the buffer, the credits that it returns are had, and one of its VC is owed. -/
def Seam.accept (x : Seam) (f : List Byte) : Seam :=
  let x := x.acknowledge (leNat ((f.drop 244).take 2))
  { x with lastRecv := some (leNat ((f.drop 242).take 2)), received := x.received ++ [f],
           credits := bump x.credits ((f.getD 247 0).toNat % 4) (· + (f.getD 246 0).toNat),
           owed := bump x.owed ((f.getD 240 0).toNat % 4) (· + 1) }

/-- R405, R406: a flit whose CRC fails, whose VC is 3, or which is out of sequence, is discarded; so is one on a link that is down. -/
def execSeamFlitReceive (link : Nat) (flit : List Byte) (s : State) : Host.Outcome State Fault Refusal :=
  let x := s.seam link
  .next (if x.up && flitOk flit && decide (leNat ((flit.drop 242).take 2) = x.expects) then s.setSeam link (x.accept flit) else s)

/-! ### Replays (R406) -/

/-- The routes after a link is retrained: of the destinations whose traffic it carries, those that have another route now. -/
def State.rerouted (s : State) (link : Nat) (rs : List (Nat × List Nat)) : Tab Nat (List Nat) :=
  s.routes.map fun r =>
    if !r.2.contains link then r
    else match rs.find? fun x => decide (x.1 = r.1) && decide (1 ≤ x.2.length) && decide (x.2.length ≤ 6) && !x.2.contains link with
      | some x => x
      | none => r

/-- R406: the flits that are not acknowledged are sent again; a flit replayed 16 times retrains the link, whose traffic takes the routes that
remain, and is logged. The spec does not say how long a retrained link carries nothing, or what becomes of a destination without another
route: DESIGN CHOICE, it stays up, and such a destination keeps its route (log entry 20). -/
def execSeamReplay (replay : Nat × List (Nat × List Nat)) (s : State) : Host.Outcome State Fault Refusal :=
  let (link, reroutes) := replay
  let x := s.seam link
  happen s <|
    if !x.up || x.buffer.isEmpty then none
    else if x.replays + 1 < 16 then some (s.setSeam link { x with replays := x.replays + 1 })
    else
      let s := { s.setSeam link { x with replays := 0 } with routes := s.rerouted link reroutes }
      some (s.record ⟨15, 2, 13, link, 0xFF, 0, 0, 0, 0, 0, 0xFFFF⟩)

/-! ### Sending (R405, R408) -/

/-- The VC that a slot of the frame serves (R408), among those with a flit ready, and a credit. -/
def servedVc (slot : Nat) (ready credit : BitVec 3) : Option Nat :=
  let has := fun (v : Nat) => bit ready.toNat v && bit credit.toNat v
  if slot = 0 ∧ bit ready.toNat 0 then some 0
  else if slot = 4 ∧ bit ready.toNat 2 then some 2
  else [0, 2, 1].find? has

/-- The VCs that a link holds a credit of. -/
def Seam.credited (x : Seam) : BitVec 3 :=
  BitVec.ofNat 3 ((List.range 3).map fun v => if 0 < x.credits.getD v 0 then 2 ^ v else 0).sum

/-- What a flit holds that the spec leaves to its sender, but for its payload: the message slots used, which credits it returns. -/
structure FlitBody where
  nmsg : Nat
  cvc : Nat
  cred : Nat

/-- A flit of a VC (R405): its trailer acknowledges the last flit received in order; before the first, the number before 0, DESIGN CHOICE. -/
def Seam.flit (x : Seam) (v : Nat) (payload : List Byte) (b : FlitBody) : List Byte :=
  let head := payload ++ [BitVec.ofNat 8 v, BitVec.ofNat 8 (if v = 1 then 0 else b.nmsg)] ++ leBytes 2 x.nextSeq
    ++ leBytes 2 ((x.expects + 65535) % 65536) ++ [BitVec.ofNat 8 b.cred, BitVec.ofNat 8 b.cvc] ++ List.replicate 4 0
  head ++ leBytes 4 (crc32 head)

/-- The open parts of the next flit of a link: credits of one VC, of those owed at most 255, all free choices (log entry 20). -/
def Seam.body (x : Seam) (n : Nat) : FlitBody :=
  let cvc := Config.freeNat n % 3
  ⟨Config.freeNat (n + 1) % 4, cvc,
    Config.freeNat (n + 2) % (min 255 (x.owed.getD cvc 0) + 1)⟩

/-- A flit sent: it takes a credit and a place in the replay buffer. -/
def Seam.send (x : Seam) (v : Nat) (payload : List Byte) (b : FlitBody) : Seam :=
  { x with nextSeq := (x.nextSeq + 1) % 65536, buffer := x.buffer ++ [(x.nextSeq, x.flit v payload b)],
           credits := bump x.credits v (· - 1), owed := bump x.owed b.cvc (· - b.cred) }

/-- R405, R408: at a flit boundary the chosen VC, `ready` those with a flit ready, sends a flit when the link is up, it has a credit and the
replay buffer has room; `payload` is the 240 bytes of that VC's messages (log entry 20). -/
def execFlitBoundaryArbitration (link : Nat) (ready : BitVec 3) (payload : List Byte) (s : State) : Host.Outcome State Fault Refusal :=
  let x := s.seam link
  let y := { x with slot := (x.slot + 1) % 8 }
  .next <| match servedVc x.slot ready x.credited with
    | none => s.setSeam link y
    | some v =>
      if x.up && bit x.credited.toNat v && decide (x.buffer.length < 64) then
        { s with fresh := s.fresh + 3 }.setSeam link (y.send v payload (x.body s.fresh))
      else s.setSeam link y

end Sys2Proof.Machine
end

