-- ==== Sys2Proof/Machine/Power.lean ====
section
/-!
DEFINITION. Power inside a kernel (spec/11_power_in_execution.md R309 to R318; spec/16_host_seam_links.md R411): grants, boost
permits, falls and forced drops, gating, profile records. What the sensors say of power is the events' operand.
-/

namespace Sys2Proof.Machine

/-- The cores of a die. -/
def coresOfDie (d : Nat) : List Nat := (List.range 4).map (4 * d + ·)

/-- A core claims boost (R311): a job that it runs has a schedule table. -/
def State.claimsBoost (s : State) (c : Nat) : Bool := (s.activeJobs c).any fun x => decide (cardSched x.2.words ≠ 0)

/-- A core's grant lowered or raised; where it lies below the level, or below the one that a forced drop in progress takes, the core's
fall begins at this tick unless it is falling (R313, R314). -/
def State.giveGrant (s : State) (c g : Nat) : State :=
  let k := s.core c
  let from_ := (k.drops.getLast?.map (·.level)).getD k.level
  s.setCore c { k with grant := g, fallFrom := if g < from_ then some (k.fallFrom.getD s.tick) else none }

/-! ### Re-allotment (R309 to R311, R411) -/

/-- What the PPC grants a core: relaxed by power or heat, dense to a claim, medium else. -/
def State.grantFor (s : State) (hot : BitVec 8) (c : Nat) : Nat :=
  if s.reduced || bit hot.toNat (c / 4) || decide ((s.die (c / 4)).thermal = 2) then 1
  else if s.claimsBoost c then 3 else 2

/-- A core off both rails (R309). -/
def Core.gate (k : Core) : Core := { k with gated := true, ungate := false, level := 0, grant := 0, fallFrom := none }

/-- A core that may be gated: its job queue is empty, no job of its runs, and nothing asks for it (R309, log entry 32). -/
def State.idleCore (s : State) (c : Nat) : Bool :=
  let k := s.core c
  k.jobq.isEmpty && !s.activeOn c && !k.ungate && k.drops.isEmpty

/-- The PPC gates a core, at any tick (R309, R411): its inbound port closes. -/
def State.gateNow (s : State) (c : Nat) : State :=
  if decide (c < 32) && !(s.core c).gated && s.idleCore c then s.setCore c (s.core c).gate else s

/-- A core at a re-allotment: it may be gated; a request ungates it. -/
def State.reallotCore (s : State) (hot : BitVec 8) (gates : Nat) (c : Nat) : State :=
  let k := s.core c
  let gated := if k.gated then !k.ungate && bit gates c else s.idleCore c && bit gates c
  let g := s.grantFor hot c
  if gated then s.setCore c k.gate
  else if k.gated then
    s.setCore c { k with gated := false, ungate := false, level := g, grant := g, profileDue := s.now + 4096 * cycleLen g }
  else (s.setCore c { k with ungate := false }).giveGrant c g

/-- R310: `hot` names the dies whose estimated power exceeds their allotment. -/
def execPpcReallotment (hot : BitVec 8) (s : State) : Host.Outcome State Fault Refusal :=
  happen s <|
    if periodDue s.tick 13600 s.served.reallot then
      let (n, s) := s.draw
      let s := { s with served := { s.served with reallot := s.tick / 13600 * 13600 } }
      some ((List.range 32).foldl (fun s c => s.reallotCore hot (Config.freeNat n) c) s)
    else none

/-! ### Permits (R312, R313) -/

/-- A die's entry of a list of served ticks. -/
def servedOf (v : Vector Nat 8) (d : Nat) : Nat := v.toList.getD d 0

def setServed (v : Vector Nat 8) (d t : Nat) : Vector Nat 8 := Vector.ofFn fun i => if i.val = d then t else v[i.val]

/-- The effective priority of the job that runs on a core, the higher of two. -/
def State.runPrio (s : State) (c : Nat) : Nat := (s.activeJobs c).foldl (fun n x => max n (x.2.effPrio + 1)) 0

/-- The order in which permits pay: priority, then round-robin after the core last paid. -/
def State.payOrder (s : State) (last : Nat) (cs : List Nat) : List Nat :=
  sortBy (fun x y => decide (s.runPrio y < s.runPrio x)
    || (decide (s.runPrio x = s.runPrio y) && decide ((x + 31 - last) % 32 ≤ (y + 31 - last) % 32))) cs

/-- R313: a re-allotment of the same tick comes first. -/
def execPermitBoundary (die : Nat) (s : State) : Host.Outcome State Fault Refusal :=
  happen s <|
    if decide (die < 8) && periodDue s.tick 6800 (servedOf s.served.boundary die)
        && !periodDue s.tick 13600 s.served.reallot then
      let s := { s with served := { s.served with boundary := setServed s.served.boundary die (s.tick / 6800 * 6800) } }
      let d := s.die die
      let claim := (coresOfDie die).filter fun c => decide ((s.core c).grant = 3)
      if claim.length ≤ d.permits then some (s.setDie die { d with permits := d.permits - claim.length })
      else
        let order := s.payOrder d.lastPaid claim
        let paid := order.take d.permits
        let s := s.setDie die { d with permits := 0, lastPaid := paid.getLast?.getD d.lastPaid }
        some ((order.drop d.permits).foldl (fun s c => s.giveGrant c 2) s)
    else none

/-- R312. -/
def execPermitRefill (die : Nat) (s : State) : Host.Outcome State Fault Refusal :=
  happen s <|
    if decide (die < 8) && periodDue s.tick 27200 (servedOf s.served.refill die) then
      let s := { s with served := { s.served with refill := setServed s.served.refill die (s.tick / 27200 * 27200) } }
      let d := s.die die
      let more := if decide (d.permits < 64) && !d.denseSince then d.permits + 1 else d.permits
      some (s.setDie die { d with permits := more, denseSince := (coresOfDie die).any s.denseNow })
    else none

/-! ### Profile records (R317, R318) -/

/-- Where the profile ring lies in a bounce buffer of 64 MiB: its top 1 MiB. -/
def ringBase : Nat := 63 * 2 ^ 20

/-- A record appended to the ring of a core's die, then the count. -/
def State.profile (s : State) (c : Nat) (hi lo : Nat) : State :=
  let d := s.die (c / 4)
  let ring := bouncePa s.pkg (c / 4) ringBase
  let s := s.ringWrite (ring + 64 + 16 * (d.profileCount % 65532)) ring (leBytes 8 lo ++ leBytes 8 hi) (d.profileCount + 1)
  s.setDie (c / 4) { d with profileCount := d.profileCount + 1 }

/-- The upper half of a record: kind, core, card, power (or levels), tick, valid bits. -/
def State.profileHead (s : State) (kind c power valid : Nat) : Nat :=
  let card := (((s.activeJobs c).head?).map (·.2.card)).getD 0xFFFF
  kind * 2 ^ 61 + c * 2 ^ 56 + card % 2 ^ 16 * 2 ^ 40 + power % 2 ^ 16 * 2 ^ 24 + bits s.tick 31 12 * 2 ^ 4 + valid

/-- A sample is due on a core. -/
def State.sampleDue (s : State) (c : Nat) : Bool := !(s.core c).gated && decide ((s.core c).profileDue ≤ s.now)

/-- R317: `power` is the core's estimated mean power in units of 2 mW; cores of a die go in their order. -/
def execProfileSample (core power : Nat) (s : State) : Host.Outcome State Fault Refusal :=
  happen s <|
    if decide (core < 32) && s.sampleDue core && ((coresOfDie (core / 4)).all fun c => decide (core ≤ c) || !s.sampleDue c) then
      let es := (List.range 4).filter fun e => ((coreUnits core)[e]?.map fun u => (s.stream u).run.live).getD false
      let valid := (es.map fun e => 2 ^ e).sum
      let pcs := (es.map fun e =>
        ((coreUnits core)[e]?.map fun u => (s.stream u).pc.toNat / 4 % 2 ^ 15 * 2 ^ (15 * e)).getD 0).sum
      let s := s.profile core (s.profileHead 0 core (min power 0xFFFF) valid) pcs
      let k := s.core core
      some (s.setCore core { k with profileDue := k.profileDue + 4096 * cycleLen k.level })
    else none

/-! ### Forced drops (R314 to R316) -/

/-- R315: from the forced tick MX issues no stamped command; a fall that begins while it waits is another drop (R314). -/
def execForcedDrop (core : Nat) (s : State) : Host.Outcome State Fault Refusal :=
  happen s <|
    (s.fallDue core).map fun f =>
      let k := s.core core
      s.setCore core { k with mxHold := true, drops := k.drops ++ [⟨f, k.grant⟩], fallFrom := none }

/-- D′ of R316, where new and old are the lengths of a cycle; its last term is negative for a drop after D. -/
def rebased (d t f new old : Nat) : Nat :=
  let x := ((d : Int) - f) * ((new : Int) - old)
  ((d : Int) + (t + 64 - f) - Int.fdiv (-x) old).toNat

/-- The level is taken at the first multiple of 12 ticks at which MX is quiescent. -/
def State.takeDue (s : State) (c : Nat) : Bool := !(s.core c).drops.isEmpty && decide (s.now % 120 = 0) && s.mxQuiet c

/-- R315, R316: the oldest drop in progress; one that waited behind it takes its level at the same tick. -/
def execForcedDropLevelTake (core : Nat) (s : State) : Host.Outcome State Fault Refusal :=
  happen s <|
    if !s.takeDue core then none
    else
      let k := s.core core
      match k.drops with
      | [] => none
      | d :: ds =>
        let (new, old) := (cycleLen d.level, cycleLen k.level)
        let s := s.setCore core { k.takeLevel d.level s.now with
          stretch := some (new, old), drops := ds, mxHold := !ds.isEmpty }
        let f := fun (s : State) (x : Nat × Job) =>
          if x.2.reserved then s.setJob x.1 { x.2 with deadline := rebased x.2.deadline s.tick d.tick new old } else s
        let s := (s.activeJobs core).foldl f s
        let (card, dl) := match s.activeJobs core with
          | x :: _ => (x.2.card, x.2.deadline)
          | [] => (0xFFFF, 0)
        let s := s.profile core (s.profileHead 1 core (d.level + 4 * k.level) 0) (dl % 2 ^ 64)
        some (s.record (logicEvent 14 3 core card))

end Sys2Proof.Machine
end

