-- ==== Sys2Proof/Machine/Manage.lean ====
section
/-!
DEFINITION. The management controller (spec/24_thermal_bringup_management.md R461 to R473) and the loading path (R67, R253, R356): time
of day, temperatures, bring-up, configuration, program and context loads.
-/

namespace Sys2Proof.Machine

/-! ### Time of day (R461) -/

/-- R461: at a PPS edge the pair of PCYC and PTP time is latched; PTP goes on by one second to the next (log entry 21). -/
def execPpsEdge (s : State) : Host.Outcome State Fault Refusal :=
  let (sec, ns) := s.mgc.tod
  .next { s with mgc := { s.mgc with pps := some (s.tick, sec, ns), tod := (sec + 1, ns) } }

/-- R461: a time-of-day message: the PTP time at the next PPS edge (log entry 21). -/
def execPtptod (sec ns : Nat) (s : State) : Host.Outcome State Fault Refusal :=
  .next { s with mgc := { s.mgc with tod := (sec, ns) } }

/-! ### Temperatures (R463 to R466) -/

/-- The state that a temperature calls for, from a state: shutdown, a rise, a fall of one, or none. -/
def thermalNext (thresh : List Nat) (st temp : Nat) : Nat :=
  let past := fun (k : Nat) => decide (thresh.getD (k - 1) 0 ≤ temp)
  if past 3 then 3
  else if st < 2 && past 2 then 2
  else if st < 1 && past 1 then 1
  else if 0 < st && decide (temp + 12 < thresh.getD (st - 1) 0) then st - 1
  else st

/-- The dwell after a change has passed (R465). -/
def dwellOver (tick : Nat) (change : Option Nat) : Bool :=
  match change with
  | none => true
  | some t => decide (t + 340000 ≤ tick)

/-- The state that a die takes at a sample: entry to shutdown at once, another change after the dwell. -/
def thermalAt (thresh : List Nat) (tick st temp : Nat) (change : Option Nat) : Nat :=
  let n := thermalNext thresh st temp
  if n = 3 then 3 else if n ≠ st && dwellOver tick change then n else st

/-- Shutdown (R466): the package goes off, until a RESTART. -/
def State.shutdown (s : State) : State := { s with mgc := { s.mgc with poweredOn := false, mayStart := false } }

/-- The record of a state change (R462). -/
def State.thermalRecord (s : State) : State := s.record (logicEvent 17 3 0xFF 0xFFFF)

/-- A change of state is recorded; entry to shutdown takes the package off. -/
def State.thermalChanged (s : State) (st : Nat) : State :=
  if st = 3 then s.thermalRecord.shutdown else s.thermalRecord

/-- A compute die at a sample (R464): in the hot state its cores are granted relaxed. -/
def State.sampleDie (s : State) (temp : Nat → Nat) (d : Nat) : State :=
  let x := s.die d
  let st := thermalAt s.mgc.thresh s.tick x.thermal (temp d) x.thermalChange
  if st = x.thermal then s.setDie d { x with temp := temp d }
  else
    let s := s.setDie d { x with temp := temp d, thermal := st, thermalChange := some s.tick }
    let s := if st = 2 then
        ((coresOfDie d).filter fun c => !(s.core c).gated).foldl (fun s c => s.giveGrant c 1) s
      else s
    s.thermalChanged st

/-- The control die and the SF die at a sample. -/
def State.sampleOthers (s : State) (cd sf : Nat) : State :=
  let m := s.mgc
  let a := thermalAt m.thresh s.tick m.thermalCd cd m.changeCd
  let b := thermalAt m.thresh s.tick m.thermalSf sf m.changeSf
  let s := { s with mgc := { m with
    tempCd := cd, tempSf := sf, thermalCd := a, thermalSf := b,
    changeCd := if a = m.thermalCd then m.changeCd else some s.tick,
    changeSf := if b = m.thermalSf then m.changeSf else some s.tick } }
  let s := if a = m.thermalCd then s else s.thermalChanged a
  if b = m.thermalSf then s else s.thermalChanged b

/-- A sample is due: this tick is a multiple of 34,000 that has had none, and S1 has ended (R463, R466). -/
def State.thermalDue (s : State) : Bool :=
  decide (s.tick % 34000 = 0) && decide (s.served.thermal ≤ s.tick / 34000) && decide (1 ≤ s.mgc.stepDone)

/-- R463 to R466: the readings are those of the eight compute dies, their veneers, their stacks, the control die and the SF die,
in quarters of a degree. -/
def execThermalSample (readings : List Nat) (s : State) : Host.Outcome State Fault Refusal :=
  happen s <|
    if s.thermalDue then
      let r := fun (i : Nat) => readings.getD i 0
      let temp := fun (d : Nat) => max (r d) (max (r (8 + d)) (r (16 + d)))
      let s := { s with served := { s.served with thermal := s.tick / 34000 + 1 } }
      some (((List.range 8).foldl (fun s d => s.sampleDie temp d) s).sampleOthers (r 24) (r 25))
    else none

/-! ### The configuration block (R470, R471, R473) -/

/-- A field of a block, little-endian. -/
def cfgField (b : List Byte) (o n : Nat) : Nat := leNat ((b.drop o).take n)

/-- The bytes of a block that no field names. -/
def cfgRes0 (o : Nat) : Bool :=
  (decide (0x009 ≤ o) && decide (o < 0x010)) || (decide (0x01A ≤ o) && decide (o < 0x020))
  || (decide (0x0CC ≤ o) && decide (o < 0x0D0)) || (decide (0x184 ≤ o) && decide (o < 0x190))
  || (decide (0x196 ≤ o) && decide (o < 0x3FC))

/-- The checks of a block, as (offset of the field, it fails). -/
def cfgChecks (b : List Byte) : List (Nat × Bool) :=
  let t := fun (k : Nat) => cfgField b (0x190 + 2 * k) 2
  [ (0x000, decide (cfgField b 0x000 2 ≠ 1)), (0x002, decide (cfgField b 0x002 2 ≠ 1024)),
    (0x008, decide (64 ≤ cfgField b 0x008 1)),
    (0x018, decide (cfgField b 0x018 2 < 54) || decide (256 < cfgField b 0x018 2)),
    (0x010, decide (cfgField b 0x010 8 % 2 ^ 16 ≠ 0) || decide (2 ^ 48 ≤ cfgField b 0x010 8)),
    (0x020, decide (cfgField b 0x020 8 % 2 ^ 16 ≠ 0) || decide (2 ^ 48 ≤ cfgField b 0x020 8)),
    (0x050, decide (cfgField b 0x050 8 < 1700)), (0x058, decide (2 ^ 32 ≤ cfgField b 0x058 8)),
    (0x190, decide (380 < t 0)), (0x192, decide (420 < t 1) || decide (t 1 < t 0 + 16)),
    (0x194, decide (460 < t 2) || decide (t 2 < t 1 + 16)),
    (0x3FC, decide (cfgField b 0x3FC 4 ≠ crc32 (b.take 0x3FC))) ]
  ++ ((List.range 54).map fun k => (0x060 + 2 * k, decide (256 < cfgField b (0x060 + 2 * k) 2)))
  ++ ((List.range 45).map fun k => (0x0D0 + 4 * k, decide (2 ^ 27 ≤ cfgField b (0x0D0 + 4 * k) 4)))
  ++ (((List.range 1024).filter cfgRes0).map fun o => (o, decide (b.getD o 0 ≠ 0)))

/-- A block is valid (R471). -/
def cfgOk (b : List Byte) : Bool := (firstWord (cfgChecks b)).isNone

/-- R473: one byte of a block, ignored while flash is written; at the 1,024th the block is checked, and written to flash or refused. -/
def execCfgwr (b : Byte) (s : State) : Host.Outcome State Fault Refusal :=
  let m := s.mgc
  let buf := m.cfgBuf ++ [b]
  .next <|
    if m.flashing.isSome then s
    else if buf.length < 1024 then { s with mgc := { m with cfgBuf := buf, cfgState := 1, cfgFail := 0 } }
    else match firstWord (cfgChecks buf) with
      | none => { s with mgc := { m with cfgBuf := [], cfgState := 1, cfgFail := 0, flashing := some buf } }
      | some o => { s with mgc := { m with cfgBuf := [], cfgState := 3, cfgFail := o } }

/-- R473: the block is in flash; the one that stood there is replaced whole. -/
def State.flashWritten (s : State) : State :=
  match s.mgc.flashing with
  | none => s
  | some b => { s with mgc := { s.mgc with flashing := none, flash := b, cfgState := 2 } }

/-- R473: a write of any value discards a partly written block. -/
def execCfgstat (_v : BitVec 32) (s : State) : Host.Outcome State Fault Refusal :=
  .next { s with mgc := { s.mgc with cfgBuf := [], cfgState := 0, cfgFail := 0 } }

/-- The ports as a block sets them (R330, R338, R390, R459, R470). -/
def portsFrom (b : List Byte) : Ports :=
  let q := fun (o : Nat) => dw (cfgField b o 8)
  { Ports.reset with
    saveBase := q 0x010 &&& 0xFFFFFFFF0000, saveSlots := cfgField b 0x018 2, errBase := q 0x020 &&& 0xFFFFFFFF0000,
    drainLim := q 0x028, killLim := q 0x030, costDrain := q 0x038, costCkpt := q 0x040, costKill := q 0x048,
    purseRate := q 0x050, purseCap := q 0x058 &&& 0xFFFFFFFF,
    wQuota := (List.range 54).map fun k => (k, cfgField b (0x060 + 2 * k) 2) }

/-- The matrix rows as a block sets them (R369). -/
def rowsFrom (b : List Byte) : Tab (Nat × Nat) Nat :=
  (List.range 45).map fun k => ((k / 5, k % 5), cfgField b (0x0D0 + 4 * k) 4)

/-- The configuration applied at S2: the block in flash, or the factory image, with the package number and the thermal thresholds
it names. -/
def State.configure (s : State) (factory : Bool) : State :=
  let b := s.mgc.flash
  if factory || b.isEmpty then s
  else { s with ports := portsFrom b, xmRows := rowsFrom b,
                exchange := { s.exchange with present := [cfgField b 0x008 1], ranks := [cfgField b 0x008 1] },
                mgc := { s.mgc with pkgNo := cfgField b 0x008 1, thresh := (List.range 3).map fun k => cfgField b (0x190 + 2 * k) 2 } }

/-! ### Bring-up (R466 to R469, R472) -/

/-- The method that the boot record holds for a step. -/
def Mgc.method (m : Mgc) (n : Nat) : Nat := bits ((m.boot.getD (1 + n / 8) 0).toNat) (8 * (n % 8) + 2) (8 * (n % 8))

/-- A byte of a doubleword replaced. -/
def setByte (d : DWord) (i v : Nat) : DWord := (d &&& ~~~(dw (0xFF * 2 ^ (8 * i)))) ||| dw (v % 256 * 2 ^ (8 * i))

/-- The boot record with a step's method and outcome (0 not run, 1 passed, 2 failed). -/
def Mgc.setStep (m : Mgc) (n method outcome : Nat) : Mgc :=
  { m with boot := m.boot.set (1 + n / 8) (setByte (m.boot.getD (1 + n / 8) 0) (n % 8) (outcome * 8 + method)) }

/-- The starts at which a die failed in a row, as the boot record holds them. -/
def Mgc.dieFail (m : Mgc) (d : Nat) : Nat := bits ((m.boot.getD 3 0).toNat) (8 * d + 7) (8 * d)

def Mgc.setDieFail (m : Mgc) (d n : Nat) : Mgc := { m with boot := m.boot.set 3 (setByte (m.boot.getD 3 0) d n) }

/-- A die is mapped out. -/
def Mgc.mapped (m : Mgc) (d : Nat) : Bool := bit (m.boot.getD 0 0).toNat d

def Mgc.mapOut (m : Mgc) (d : Nat) : Mgc := { m with boot := m.boot.set 0 ((m.boot.getD 0 0) ||| dw (2 ^ d)) }

/-- The boot record at a start: one more start, every step's outcome not run. -/
def Mgc.newStart (m : Mgc) : Mgc :=
  let m : Mgc := { m with boot := m.boot.set 0 (m.boot.getD 0 0 + 0x100000000) }
  (List.range 12).foldl (fun m n => m.setStep n (m.method n) 0) m

/-- A core before full service: granted relaxed (R468). -/
def Core.reduced : Core := { Core.reset with level := 1, grant := 1, profileDue := 4096 * 15 }

/-- S0: the package on, every unit as after power-on, PCYC 0; flash, with a write of it that goes on (DESIGN CHOICE, log entry 17), the boot
record and the images are kept. What the model itself counts (schedule, free values) goes on. -/
def State.powerUp (s : State) : State :=
  let kept : Mgc := { Mgc.reset with
    flash := s.mgc.flash, flashing := s.mgc.flashing, boot := s.mgc.boot, params := s.mgc.params, training := s.mgc.training
    images := s.mgc.images, stepDone := 0 }
  let m := kept.newStart.setStep 0 0 1
  let dies := (List.range 8).map fun d =>
    (d, { Die.reset with permits := 0, power := !m.mapped d, mappedOut := m.mapped d })
  { State.reset with sched := s.sched, fresh := s.fresh, moves := s.moves, mgc := m, dies := dies,
                     served := { State.reset.served with thermal := 0 }
                     seams := (List.range 18).map fun l => (l, { Seam.reset with up := false })
                     cores := (List.range 32).map fun c => (c, Core.reduced) }

/-- The dies that fail a step: 16 × (d + 1) + n of the operand names die d at step n. -/
def dieFails (fails : List Nat) (n d : Nat) : Bool := fails.contains (16 * (d + 1) + n)

/-- A die that is not yet off fails a step: off for this start, and mapped out at the second start in a row. -/
def State.failDie (s : State) (d : Nat) : State :=
  let k := s.mgc.dieFail d + 1
  let m := s.mgc.setDieFail d k
  let out := decide (2 ≤ k)
  let s := { s with mgc := if out then m.mapOut d else m }
  s.setDie d { s.die d with power := false, mappedOut := out }

/-- A unit without a job as the loading path starts it: the reset values of R68 to R79, g1 given, at an entry. -/
def loadedStream (root entry : Nat) (g1 : DWord) : Stream :=
  { Stream.reset with run := .running, root := root, pc := dw entry, g := Stream.reset.g.set 1 g1 }

/-- A control core's memory is loaded: its rings are empty (R253), its scoreboard's sequence starts at 0 (R260), the token queues between
it and the engines it serves are empty (R290). -/
def State.loadedLc (s : State) (i : Nat) : State :=
  let s := s.setLc i { s.lc i with ringLC := [], ringCS := [], ringSL := [], scbSeq := 0 }
  { s with cores := s.cores.map fun c =>
      if c.1 / 2 = i then (c.1, { c.2 with tokens := c.2.tokens.filter fun q => decide (q.1.1 ≠ .ctl ∧ q.1.2 ≠ .ctl) }) else c }

/-- Words written into an instruction memory by the loading path, and padded; IMLIM set to the padded end, which the memory's size bounds. -/
def State.loadProgram (s : State) (m : ImemId) (addr : Nat) (ws : List Word) : State :=
  let stop := ceilDiv (addr + 4 * ws.length) 16 * 16
  let pad := List.replicate ((stop - (addr + 4 * ws.length)) / 4) (0 : Word)
  if imemSize m < stop then s else
  let s := s.putImem m addr (ws ++ pad)
  let s := { s with imlim := Tab.set s.imlim m (stop / 16) }
  match m with
  | .lc i => s.loadedLc i
  | _ => s

/-- A unit without a job started by the loading path: what it held before, locks and places in lines, leaves it; it acquires what was
performed before it is started. -/
def State.startLoaded (s : State) (u : UnitId) (root entry : Nat) (g1 : DWord) : State :=
  let s := ((s.leaveLines u).leaveLocks u).setStream u (loadedStream root entry g1)
  let s := s.freshView (s.agentOf u) s.allClock
  { s with saved := s.saved.filter fun (y : Saved) => decide (y.unit ≠ u) || y.ending }

/-- The firmware's images of LC16 and LC17 loaded and their contexts started (R468). -/
def State.startFirmware (s : State) : State :=
  (s.mgc.images.filter fun x => decide (x.lc = 16 ∨ x.lc = 17)).foldl (fun s x =>
    x.starts.foldl (fun s y => s.startLoaded (.ctx x.lc y.1) x.lc y.2.1 y.2.2) (s.loadProgram (.lc x.lc) 0 x.words)) s

/-- The training parameters of a step saved, their values free (R469). -/
def State.saveTraining (s : State) (n : Nat) : State :=
  let (k, s) := s.draw
  { s with mgc := { s.mgc with training := Tab.set s.mgc.training n (Config.freeWord k) } }

/-- What a passed step does. -/
def State.stepEffect (s : State) (n method : Nat) : State :=
  match n with
  | 2 =>
    let s := s.configure (decide (2 ≤ method))
    if method = 3 then { s with mgc := { s.mgc with params := [], training := [] } } else s
  | 4 => if method = 0 then s else s.saveTraining 4
  | 5 => if method = 0 then s else s.saveTraining 5
  | 6 =>
    let s := if method = 0 then
        s.mgc.params.foldl (fun s e => s.setChan e.1.1 e.1.2
          { s.chan e.1.1 e.1.2 with swaps := e.2, spares := 2 - e.2.length }) s
      else { s with mgc := { s.mgc with params := [] } }.saveTraining 6
    if (List.range 8).any fun d => (s.die d).power then s.startFirmware else s
  | 8 => (List.range 8).foldl (fun s d => if (s.die d).power then { s with mgc := s.mgc.setDieFail d 0 } else s) s
  | 9 => { s with watches := [], layouts := [], exchange := { Exchange.reset with start := s.tick, present := s.exchange.present, ranks := s.exchange.ranks } }
  | 10 =>
    let s := if method = 0 then s else s.saveTraining 10
    { s with exchange := { s.exchange with outerStart := s.tick, outerRound := 0, outerCycles := 0 } }
  | 11 =>
    let rate := max 1 s.ports.purseRate.toNat
    let s := { s with lcs := s.lcs.map fun x => (x.1, { x.2 with purseL := 0, purseC := 0, purseS := 0 })
                      served := { s.served with purse := s.tick / rate * rate } }
    (List.range 8).foldl (fun s d => s.setDie d { s.die d with permits := 64 }) s
  | _ => s

/-- The seam links that train at S10 are up; 256 + l of the operand names one that does not (R467). -/
def State.trainLinks (s : State) (fails : List Nat) : State :=
  { s with seams := (List.range 18).map fun l => (l, { Seam.reset with up := !fails.contains (256 + l) }) }

/-- A package step fails: as the operand has it, or, at S2, since the stored block is invalid (R471). -/
def State.packageFails (s : State) (n method : Nat) (fails : List Nat) : Bool :=
  (fails.contains n && decide (n ≠ 11))
  || (decide (n = 2) && decide (method < 2) && !s.mgc.flash.isEmpty && !cfgOk s.mgc.flash)

/-- The next step of a bring-up: a package step that fails takes the package off, its next method noted; a die step fails for
single dies; at S10 links may stay down. -/
def State.nextStep (s : State) (fails : List Nat) : State :=
  let n := s.mgc.stepDone + 1
  let m := s.mgc.method n
  if 6 ≤ n ∧ n ≤ 8 then
    let ds := (List.range 8).filter fun d => (s.die d).power && dieFails fails n d
    let s := ds.foldl State.failDie s
    let s := { s with mgc := if ds.isEmpty then s.mgc.setStep n m 1 else s.mgc.setStep n (min 3 (m + 1)) 2 }
    let s := s.stepEffect n m
    { s with mgc := { s.mgc with stepDone := n } }
  else if s.packageFails n m fails then
    { s with mgc := { s.mgc.setStep n (min 3 (m + 1)) 2 with poweredOn := false, mayStart := decide (m < 3) } }
  else
    let s := (if n = 10 then s.trainLinks fails else s).stepEffect n m
    { s with mgc := { s.mgc.setStep n m 1 with stepDone := n } }

/-- R467: a package that is off and may start begins at S0; one that is being brought up takes its next step. A failure of S0
leaves it off with no method advanced. -/
def execPowerOn (fails : List Nat) (s : State) : Host.Outcome State Fault Refusal :=
  happen s <|
    if s.mgc.poweredOn then (if s.mgc.stepDone < 11 then some (s.nextStep fails) else none)
    else if s.mgc.mayStart && !fails.contains 0 then some s.powerUp
    else none

/-- R472: 0x5A acts as shutdown, and the package may start at S0, which may fail (R467); any other value is ignored. -/
def execRestart (v : Byte) (s : State) : Host.Outcome State Fault Refusal :=
  .next (if v = 0x5A then { s.shutdown with mgc := { s.shutdown.mgc with mayStart := true } } else s)

/-! ### The sideband's reads (R472) -/

/-- TEMP of a die: temperature × 4 and thermal state. -/
def tempWord (temp st : Nat) : List Byte := leBytes 2 (st % 4 * 2 ^ 12 + temp % 2 ^ 12)

/-- CFGSTAT (R473): of a block that flash is being written with no byte is counted. -/
def Mgc.cfgStat (m : Mgc) : Nat := m.cfgFail % 2 ^ 16 * 2 ^ 16 + m.cfgBuf.length % 1024 * 4 + m.cfgState % 4

/-- The boot record (R469): the format of d4 to d511 is not stated, so their values are free ones, of what they hold. -/
def Mgc.bootRecord (m : Mgc) : List Byte :=
  (List.range 512).flatMap fun i => leBytes 8 (if i < 4 then m.boot.getD i 0 else Config.paramsWord m.params m.training i).toNat

/-- The bytes of the registers from 0 on; those that hold none, or may only be written, read as free values. -/
def State.sidebandBytes (s : State) (off len n : Nat) : List Byte :=
  let m := s.mgc
  let temps := ((List.range 8).flatMap fun d => tempWord (s.die d).temp (s.die d).thermal) ++ tempWord m.tempCd m.thermalCd
    ++ tempWord m.tempSf m.thermalSf
  let record := match m.log.find? fun r => decide ((r.getD 0 0).toNat / 2 ^ 32 = m.logSel.toNat) with
    | some r => r.flatMap fun d => leBytes 8 d.toNat
    | none => (List.range 64).map (Config.freeByte n)
  let from_ := if off < 0x20 then temps.drop off else if off = 0x20 then leBytes 4 (((m.log.head?.getD []).getD 0 0).toNat / 2 ^ 32) else if off = 0x24 then record
    else if off = 0x28 then leBytes 4 m.logSel.toNat else if off = 0x30 then m.bootRecord
    else if off = 0x40 then leBytes 4 m.cfgStat else []
  (List.range len).map fun i => from_.getD i (Config.freeByte n (64 + i))

/-- R472: the board reads bytes at a register's offset; BOOTREC and LOGREAD are streamed. -/
def State.sidebandRead (s : State) (off len : Nat) : State :=
  let (n, s) := s.draw
  { s with mgc := { s.mgc with answer := s.sidebandBytes off len n } }

/-! ### The loading path (R67, R253, R356) -/

/-- R67, R253: the words written and padded, IMLIM set to the padded end. -/
def execProgramLoad (m : ImemId) (addr : Nat) (ws : List Word) (s : State) : Host.Outcome State Fault Refusal :=
  .next (s.loadProgram m addr ws)

/-- R253. -/
def execContextLoad (lc : Nat) (k : Ctx) (entry : Nat) (g1 : DWord) (s : State) : Host.Outcome State Fault Refusal :=
  .next (s.startLoaded (.ctx lc k) lc entry g1)

/-- R356: the TE stream, for a control core, through whose root it translates. -/
def execTeStreamStart (lc entry : Nat) (g1 : DWord) (s : State) : Host.Outcome State Fault Refusal :=
  .next (s.startLoaded .te lc entry g1)

end Sys2Proof.Machine
end

