-- ==== Sys2Proof/Machine/Nx.lean ====
section
/-!
DEFINITION. The network engine (spec/07_copy_network_trellis_engines.md R236 to R244): sends, posted receivers and their
deliveries, reductions, the barrier, and the routing of tokens to experts.
-/

namespace Sys2Proof.Machine

/-! ### Places and peer words (R236, R237) -/

/-- The die and the endpoint's core of the executing NX stream. -/
def nxHere (s : State) : M (Nat × Nat) :=
  match s.cur with
  | .nx d => .ok (d, s.coreOf (.nx d))
  | _ => faultFree .illegal

/-- A place of an NX word: the handle's page, or the scratchpad. -/
def nxPlace (s : State) (sp : BitVec 1) (h : BitVec 4) (off len : Nat) (write : Bool) : M Place :=
  openPlace s (if sp = 1 then 1 else 0) h off len write

/-- The die, package and tag of a peer word. -/
def peerPkg (v : DWord) : Nat := dbits v 5 0
def peerDie (v : DWord) : Nat := dbits v 9 6
def peerTag (v : DWord) : Nat := dbits v 47 16
def peerAny (v : DWord) : Bool := bit v.toNat 10

/-- ILLEGAL for a peer word that R237 excludes; a receiver that accepts any source names none. -/
def peerOk (s : State) (v : DWord) (receiver : Bool) : M Unit :=
  let named := !(receiver && peerAny v)
  faultIf (decide (dbits v 15 11 ≠ 0) || decide (dbits v 63 48 ≠ 0)
    || (named && (decide (8 ≤ peerDie v) || !s.exchange.present.contains (peerPkg v)))) .illegal v

/-! ### Staging (R223) -/

/-- A command of NX that passes data may issue: a staging buffer is free, and the command before the last has finished. NBAR and NPEND pass
none: DESIGN CHOICE, they neither wait for a buffer nor count among the commands (log entry 68). -/
def State.nxReady (s : State) (d : Nat) : Bool :=
  decide ((s.die d).sends.length < 2) && (s.die d).sends.all fun y => !y.passed

/-- Such a command has issued: those before it are passed. -/
def State.nxPass (s : State) (d : Nat) : State :=
  s.setDie d { s.die d with sends := (s.die d).sends.map fun (y : NxSend) => { y with passed := true } }

/-! ### NSEND (R238) -/

/-- R238. The bytes are staged when it completes; it finishes at the acknowledgement; its delivery releases what its stream accessed before
it (R298). -/
def execNsend (tk : BitVec 3) (h : BitVec 4) (a b : BitVec 5) (sp : BitVec 1) (s : State) :
    Host.Outcome State Fault Refusal :=
  finish s <| command s tk .finish fun s q => do
    let (d, c) ← nxHere s
    waitUntil s (s.nxReady d && decide (s.trackerUsed c < 64))
    let peer := s.rg b
    peerOk s peer false
    let v := s.rg a
    let n ← lengthOf v
    let x ← nxPlace s sp h (placeOff v) n false
    waitUntil s ((s.die d).pendingBytes + n < 2 ^ 40)
    let (s, _, bs) ← readPlace s x c (run x.off n)
    let (m, s) := s.nextSeq
    let e : NxSend :=
      { seq := m, len := n, peer := peer, data := bs, stage := 0, due := 0, via := 0, core := c, job := s.me.job.getD 0, passed := false,
        pushes := q.pushes, tag := q.tag, clock := s.releaseOf s.self m 0 }
    let s := s.nxPass d
    .ok (s.setDie d { s.die d with sends := (s.die d).sends ++ [e], pendingBytes := (s.die d).pendingBytes + n }).retire

/-! ### Matching (R238, R240) -/

/-- The whole cells of a message of n bytes that a receiver takes (R239): all of it off a lattice page. -/
def Receiver.fits (r : Receiver) (n : Nat) : Nat :=
  let n := min n (r.cap - r.filled)
  if r.ltype = 0 then n else n / cellSize r.ltype * cellSize r.ltype

/-- The receiver takes a message: tag and source agree, and it waits for one, or, in the match table, has room behind those
that matched already. -/
def Receiver.accepts (r : Receiver) (h : NxHeader) : Bool :=
  decide (peerTag r.peer = h.tag)
  && (peerAny r.peer || (decide (peerPkg r.peer = h.pkg) && decide (peerDie r.peer = h.die)))
  && (if r.kind = 1 then decide ((r.matched.foldl (fun (x : Receiver) m => { x with filled := x.filled + x.fits m.data.length }) r).filled < r.cap)
      else r.matched.isEmpty && r.done.isNone)

/-- A header at a die: it matches the oldest posted receiver that accepts it, or joins the pending list of 256; none where
that is full. -/
def Die.arrive (k : Die) (h : NxHeader) : Option Die :=
  match findIdx (fun r => r.accepts h) k.receivers with
  | some i =>
    let r := k.receivers.getD i default
    some { k with receivers := k.receivers.set i { r with matched := r.matched ++ [h] } }
  | none => if k.headers.length < 256 then some { k with headers := k.headers ++ [h] } else none

/-- A receiver is posted: it takes the headers that wait and that it accepts, oldest first. -/
def Die.post (k : Die) (r : Receiver) : Die :=
  let (r, left) := k.headers.foldl (fun (x : Receiver × List NxHeader) h =>
    if x.1.accepts h then ({ x.1 with matched := x.1.matched ++ [h] }, x.2) else (x.1, x.2 ++ [h])) (r, [])
  { k with receivers := k.receivers ++ [r], headers := left }

/-- The header of a send. -/
def NxSend.header (x : NxSend) (pkg die : Nat) : NxHeader := ⟨pkg, die, peerTag x.peer, x.seq, x.data⟩

/-- The header of a send comes to its destination, which takes or refuses it (R238). -/
def State.headerComes (s : State) (src : Nat) (x : NxSend) : State :=
  let d := peerDie x.peer
  let stage := fun (s : State) (n due : Nat) => s.setDie src { s.die src with sends := (s.die src).sends.map fun y =>
    if y.seq = x.seq then { y with stage := n, due := due } else y }
  match (s.die d).arrive (x.header s.pkg src) with
  | some k => stage (s.setDie d k) 1 0
  | none => stage s 2 (s.tick + 1700)

/-- An earlier send of the same die to the same die with the same tag has not been taken. -/
def Die.overtakes (k : Die) (x : NxSend) : Bool :=
  k.sends.any fun y => decide (y.seq < x.seq) && decide (y.stage = 0 ∨ y.stage = 2)
    && decide (peerPkg y.peer = peerPkg x.peer) && decide (peerDie y.peer = peerDie x.peer)
    && decide (peerTag y.peer = peerTag x.peer)

/-- R238: the header of a message of this package, named by its sender and number, or one from another package (log
entry 8), comes to a die. -/
def execNxHeaderArrival (die : Nat) (hdr : NxHeader) (s : State) : Host.Outcome State Fault Refusal :=
  happen s <|
    if hdr.pkg ≠ s.pkg then
      if s.exchange.present.contains hdr.pkg then ((s.die die).arrive hdr).map (s.setDie die) else none
    else match (s.die hdr.die).sends.find? fun x => decide (x.seq = hdr.seq) with
      | none => none
      | some x =>
        if decide (x.stage = 0) && decide (peerPkg x.peer = s.pkg) && decide (peerDie x.peer = die)
            && !(s.die hdr.die).overtakes x then some (s.headerComes hdr.die x) else none

/-- R238: `die` is the sender's, `pos` the place of its send. -/
def execNxHeaderRetry (die pos : Nat) (s : State) : Host.Outcome State Fault Refusal :=
  happen s <|
    match (s.die die).sends[pos]? with
    | none => none
    | some x =>
      if decide (x.stage = 2) && decide (x.due ≤ s.tick) && !(s.die die).overtakes x then
        some (s.headerComes die x) else none

/-! ### NRECV, NMATCH and NRED (R239 to R241) -/

/-- The checks of a receiver's fields and place; its receiver, not yet posted. -/
def receiver (s : State) (kind : Nat) (sp : BitVec 1) (h : BitVec 4) (a b : BitVec 5) (op : Nat) : M Receiver := do
  let (_, c) ← nxHere s
  let peer := s.rg b
  peerOk s peer true
  let v := s.rg a
  let n ← lengthOf v
  let x ← nxPlace s sp h (placeOff v) n true
  x.wholeCells x.off n
  let ds ← x.dests (siteOf s.cur) c (run x.off n)
  reach s (ds.filterMap Dest.pa?) (x.name x.off) x.hash
  let (root, base, lt) := match x.page with
    | some (r, p) => (r, p.va + x.off, p.ltype)
    | none => (noRoot, x.off, 0)
  .ok ⟨0, kind, c, s.me.job.getD 0, peer, x.page.isSome, root, base, lt, n, 0, op, 0, [], [], none, Clock.empty⟩

/-- A receiver posted on a die, its command issued. -/
def State.postReceiver (s : State) (d : Nat) (r : Receiver) : State :=
  let (n, s) := (s.nxPass d).nextSeq
  s.setDie d ((s.die d).post { r with seq := n })

/-- The receiver that the executing stream's NRECV or NRED has posted. -/
def State.posted (s : State) (d : Nat) : Option Receiver :=
  (s.die d).receivers.find? fun r => decide (r.kind ≠ 1) && decide (some r.job = s.me.job)

/-- A receiver taken away. -/
def State.dropReceiver (s : State) (d : Nat) (r : Receiver) : State :=
  s.setDie d { s.die d with receivers := (s.die d).receivers.filter fun x => decide (x.seq ≠ r.seq) }

/-- All that was delivered to a receiver is performed, what bounced among it. -/
def State.landedAll (s : State) (d : Nat) (r : Receiver) : Bool := r.landed.all fun n => !s.bouncedOf (.nx d n)

/-- R239: the result word of an NRECV. -/
def recvWord (r : Receiver) (m : NxHeader) : DWord :=
  dw (r.filled + b2n (decide (r.cap < m.data.length)) * 2 ^ 40 + (m.pkg + 64 * m.die) * 2 ^ 41)

/-- R239: posts, waits for the delivery, acquires it, writes gd. -/
def execNrecv (tk : BitVec 3) (h : BitVec 4) (a b d : BitVec 5) (sp : BitVec 1) (s : State) :
    Host.Outcome State Fault Refusal :=
  finish s <| command s tk .issue fun s _ => do
    let (die, _) ← nxHere s
    match s.posted die with
    | none =>
      waitUntil s (s.nxReady die)
      let r ← receiver s 0 sp h a b 0
      .error (.goOn (s.postReceiver die r))
    | some r => match r.done with
      | none => .error (.wait s)
      | some m =>
        waitUntil s (s.landedAll die r)
        .ok (((s.dropReceiver die r).acquire s.self r.clock).wg d (recvWord r m)).retire

/-- R240: waits while the die's 64 entries are in use. -/
def execNmatch (tk : BitVec 3) (h : BitVec 4) (a b c : BitVec 5) (sp : BitVec 1) (s : State) :
    Host.Outcome State Fault Refusal :=
  finish s <| command s tk .issue fun s _ => do
    let (die, _) ← nxHere s
    waitUntil s (s.nxReady die)
    let id ← cardId s c
    let r ← receiver s 1 sp h a b 0
    let s ← readCard s id
    let x := s.card id
    if !cardFlag x.words 3 then faultAt .format (dw id) 4 0
    cardFormat id (!s.prepared id || decide (x.state ≠ .prepared))
    waitUntil s (((s.die die).receivers.filter fun r => decide (r.kind = 1)).length < 64)
    .ok ((s.setCard id { x with state := .waiting }).postReceiver die { r with card := id }).retire

/-- The operations of R241: element bytes and local ⊕ incoming. -/
def redOp (o : Nat) : Nat × (Nat → Nat → Nat) :=
  match o with
  | 0 => (4, fun a b => (a + b) % 2 ^ 32)
  | 1 => (8, fun a b => (a + b) % 2 ^ 64)
  | 2 => (4, fadd .fp32 0)
  | 3 => (4, pickFloat .fp32 true)
  | 4 => (2, fadd .bf16 0)
  | 5 => (4, max)
  | _ => (4, min)

/-- Element by element over n elements of w bytes. -/
def combine (w : Nat) (f : Nat → Nat → Nat) : Nat → List Byte → List Byte → List Byte
  | 0, _, _ => []
  | n + 1, x, y => leBytes w (f (leNat (x.take w)) (leNat (y.take w))) ++ combine w f n (x.drop w) (y.drop w)

/-- The writer of a write as it is made through a page of a root. -/
def Writer.via (w : Writer) (q : Option (Nat × Page)) : Writer :=
  { w with hash := q.map (·.2.hash), scope := (q.map (·.2.scope)).getD 0, page := q.map fun q => (q.1, q.2.key) }

/-- A delivery that has taken effect is noted with its receiver. -/
def State.noteLanded (s : State) (die : Nat) (r : Receiver) (n : Nat) : State :=
  s.setDie die { s.die die with receivers := (s.die die).receivers.map fun x =>
    if x.seq = r.seq then { x with landed := x.landed ++ [n] } else x }

/-- Landed runs take effect as writes of a writer, at a site and for a core: bytes written, records on their way. -/
def State.land (s : State) (by_ : Writer) (site core : Nat) (ls : List (Landing × List Byte)) (o : BounceOwner) : State :=
  let s := ls.foldl (fun s x => match x.1, x.1.part? site x.2 with
    | .page i q _, some p => p.pieces.foldl (fun s d => s.writePiece core (by_.via (some (i, q))) p d) s
    | _, _ => s) s
  { s with toBounce := s.toBounce ++ ls.filterMap fun x => x.1.bounce? x.2 o }

/-- The values that an NRED finds in the runs of its buffer, from a VA on; those of a run that is not resident are free (log entry 29). -/
def reduceRead (s : State) : List (Landing × (Nat × Nat × Nat)) → M (State × List Byte)
  | [] => .ok (s, [])
  | (l, (va, _, n)) :: ls => do
    let (s, bs) ← match l with
      | .page _ p ds => readPieces s (some p) (ds.filterMap Dest.pa?) fun i => dw ((va + i) / 64 * 64)
      | _ => .ok (s.draw.2, (List.range n).map (Config.freeByte s.draw.1))
    let (s, cs) ← reduceRead s ls
    .ok (s, bs ++ cs)

/-- The combined bytes of an NRED go into its buffer in one step; a page that is not resident bounces them. A translation that faults raises
its cause with the standard EWORD (R82). -/
def reduceInto (s : State) (die : Nat) (r : Receiver) (m : NxHeader) : M State := do
  let (w, f) := redOp r.op
  let merged := fun (bs : List Byte) => combine w f (r.cap / w) bs m.data
  let (n, s) := s.nextSeq
  let by_ := s.writerOf (.nx die) r.job n none 0 none
  if !r.paged then
    let pas := (run r.base r.cap).map (scratchPa s.pkg r.core)
    let (s, bs) ← readPieces s none pas fun i => dw ((r.base + i) / 64 * 64)
    .ok ((s.noteLanded die r n).perform (pas.zip (merged bs)) false by_)
  else
    let rs := pieces64k r.base r.cap
    let (s, ls) ← landings s r.root die (dw r.base) rs
    let (s, old) ← reduceRead s (ls.zip rs)
    let bs := merged old
    .ok ((s.noteLanded die r n).land by_ die r.core (ls.zip (rs.map fun x => (bs.drop x.2.1).take x.2.2)) (.nx die n))

/-- R241. A message of another length is consumed and raises FORMAT with its length. -/
def execNred (tk : BitVec 3) (h : BitVec 4) (a b : BitVec 5) (sp : BitVec 1) (o : BitVec 4) (s : State) :
    Host.Outcome State Fault Refusal :=
  let short := match s.cur with
    | .nx die => (match s.posted die with
      | some r => (match r.done with
        | some m => if m.data.length ≠ r.cap then some (die, r, m.data.length) else none
        | none => none)
      | none => none)
    | _ => none
  match short with
  | some (die, r, n) => .next (takeTrap (s.dropReceiver die r) ⟨.format, some (dw n), .std 1 0, .none⟩)
  | none => finish s <| command s tk .issue fun s _ => do
    let (die, _) ← nxHere s
    match s.posted die with
    | none =>
      waitUntil s (s.nxReady die)
      let n ← lengthOf (s.rg a)
      if n % (redOp o.toNat).1 ≠ 0 then faultFree .illegal
      let r ← receiver s 2 sp h a b o.toNat
      if r.ltype ≠ 0 then fault .latticeType (dw r.base)
      .error (.goOn (s.postReceiver die r))
    | some r => match r.done with
      | none => .error (.wait s)
      | some m =>
        let s ← (if r.landed.length < 2 then reduceInto s die r m else .ok s)
        match s.posted die with
        | some r => if s.landedAll die r then .ok (s.dropReceiver die r).retire else .error (.goOn s)
        | none => .ok s.retire

/-! ### Deliveries (R238, R239, R344, R374) -/

/-- An instance of a job on a core is being cut, or is saved: deliveries to its buffers bounce (R344). -/
def State.cutAway (s : State) (j c : Nat) : Bool :=
  match s.job? j with
  | none => false
  | some x => decide ((s.core c).cut = some j) || x.insts.any fun i => decide (i.core = c) && (match i.state with
      | .saved _ => true
      | _ => false)

/-- The runs of a buffer at a VA, in 64 KiB pages, each with its bytes, for a site; those for an instance that is cut away bounce whatever
the page (R344). -/
def landRuns (s : State) (shut : Bool) (root site : Nat) (bs : List Byte) :
    List (Nat × Nat × Nat) → M (State × List (Landing × List Byte))
  | [] => .ok (s, [])
  | (va, o, n) :: rs => do
    let (s, l) ← match s.deviceWalk root va with
      | (s, .page p) => if shut then .ok (s, Landing.bounce root va (bounceDie p.pa)) else landing s root site va n (dw va)
      | (s, _) => landing s root site va n (dw va)
    let (s, ls) ← landRuns s shut root site bs rs
    .ok (s, (l, (bs.drop o).take n) :: ls)

/-- The bytes of some runs that go to a bounce buffer of this package. -/
def bouncedBytes (ls : List (Landing × List Byte)) : Nat :=
  (ls.map fun x => match x.1 with
    | .bounce _ _ _ => x.2.length
    | _ => 0).sum

/-- The addresses at which some runs write. -/
def landedKeys (s : State) (ls : List (Landing × List Byte)) : List Nat :=
  ls.flatMap fun x => match x.1 with
    | .page _ _ ds => (ds.filterMap Dest.pa?).map s.direct
    | _ => []

/-- A delivery that cannot go ahead: where a gated core refused it, the core is asked to be ungated (R411); how far its walks have come
is kept. -/
def State.refusedBy {α : Type} (s : State) (r : M α) : Option State :=
  match r with
  | .error (.trap t) => (match t.note with
    | .ungate c => some (s.askUngate c)
    | _ => none)
  | .error (.wait t) => some (s.keepWalks t)
  | _ => none

/-- A message taken by a receiver is on its way no more: its sender is told, when it is of this package. -/
def State.delivered (s : State) (m : NxHeader) (via : Nat) : State :=
  if m.pkg ≠ s.pkg then s
  else s.setDie m.die { s.die m.die with sends := (s.die m.die).sends.map fun x =>
    if x.seq = m.seq then { x with stage := 3, via := via } else x }

/-- A receiver after a message of which it takes n bytes was delivered, with what the delivery releases. -/
def Receiver.took (r : Receiver) (m : NxHeader) (n via : Nat) (k : Clock) : Receiver :=
  { r with matched := r.matched.drop 1, filled := r.filled + n, landed := r.landed ++ [via],
           done := if r.kind = 1 then none else some m, clock := r.clock.join k }

/-- The send of a message of this package. -/
def State.sendOf (s : State) (m : NxHeader) : Option NxSend :=
  if m.pkg = s.pkg then (s.die m.die).sends.find? fun x => decide (x.seq = m.seq) else none

/-- The writer of what a message writes: its sender, with the place of its NSEND; or another package, at this moment. -/
def State.messageWriter (s : State) (m : NxHeader) (via : Nat) : Writer :=
  match s.sendOf m with
  | some x => s.writerOf (.nx m.die) x.job x.seq none 0 none
  | none => { who := .away m.pkg, at_ := via }

/-- What the delivery of a message releases (R298): what its sender accessed before, or all that the other package has written here. -/
def State.messageClock (s : State) (m : NxHeader) (via : Nat) : Clock :=
  match s.sendOf m with
  | some x => x.clock
  | none => Clock.empty.raise (.away m.pkg) 3 via

/-- R240: a full match-table entry is removed and its card released, on the core that posted it (log entry 30); of a card that cannot be
corrected the error is recorded and no job is made (log entry 15). -/
def State.nmatchRelease (s : State) (die : Nat) (r : Receiver) : State :=
  match (s.dropReceiver die r).deviceRead (run (cardPa r.card 0) 128) with
  | (s, false) => s
  | (s, true) =>
    let j := newJob r.card (s.card r.card).words (.nmatch die) r.root r.core s.tick false 0 r.clock
    let (_, s) := s.addJob { j with ready := true, readyTick := s.tick }
    s.setCard r.card { s.card r.card with state := .ready }

/-- The root that a released job uses: that of the job which executed the NMATCH (R356). -/
def State.postRoot (s : State) (r : Receiver) : Nat :=
  match s.job? r.job with
  | some j => j.root
  | none => if r.paged then r.root else 0

/-- A receiver in its place after a delivery; one whose stream has gone is withdrawn. -/
def State.keepReceiver (s : State) (die : Nat) (r : Receiver) : State :=
  let live := (s.stream (.nx die)).run.live && decide ((s.stream (.nx die)).job = some r.job)
  if r.kind ≠ 1 && !live then s.dropReceiver die r
  else s.setDie die { s.die die with receivers := (s.die die).receivers.map fun x => if x.seq = r.seq then r else x }

/-- Bytes of a message for a receiver land, under a number: in its buffer, or in the bounce buffer where its instance is cut away (R344); those
for a scratchpad then bounce into the die's own buffer, under a VA that no rule gives (log entry 29). -/
def State.deliverBytes (s : State) (die via : Nat) (r : Receiver) (m : NxHeader) (shut : Bool) (bs : List Byte) : Option State :=
  let n := bs.length
  let va := r.base + r.filled
  let k := s.messageClock m via
  let by_ := s.messageWriter m via
  let took := fun (s : State) (keys : List Nat) =>
    (s.keepReceiver die (r.took m n via (if keys.isEmpty then k else k.over keys s.histNow))).delivered m via
  if n = 0 then some (took s [])
  else if !r.paged then
    if shut then
      let b : ToBounce := ⟨0, die, Config.padVa r.core va % 2 ^ 56, s.postRoot r, n, bs, .nx die via⟩
      some (took { s with toBounce := s.toBounce ++ [b] } [])
    else if (s.core r.core).gated then some (s.askUngate r.core)
    else
      let pas := (run va n).map (scratchPa s.pkg r.core)
      some (took (s.perform (pas.zip bs) false by_) (pas.map s.direct))
  else match landRuns { s with cur := if m.pkg = s.pkg then .nx m.die else .nx die } shut r.root die bs (pieces64k va n) with
    | .ok (t, ls) => some (took ({ t with cur := s.cur }.land by_ die r.core ls (.nx die via)) (landedKeys s ls))
    | x => s.refusedBy x

/-- The next message of a receiver is delivered. An NRED combines the message when its stream goes on; for an instance that is cut away the
reduction bounces: DESIGN CHOICE, its record holds free bytes, and it is made when the record is completed (log entry 29). -/
def State.deliver (s : State) (die : Nat) (r : Receiver) (m : NxHeader) : Option State :=
  let shut := s.cutAway r.job r.core
  let (via, s') := s.nextSeq
  if r.kind = 2 then
    if shut && decide (m.data.length = r.cap) then
      let (q, s') := s'.draw
      s'.deliverBytes die via { r with landed := r.landed ++ [via] } m true ((List.range r.cap).map (Config.freeByte q))
    else s'.deliverBytes die via r m shut []
  else s'.deliverBytes die via r m shut (m.data.take (r.fits m.data.length))

/-- The package whose pages a root translates for, of an NROUTE's payload; the site at which it joins whole cells: its own, or the control die's
of another package, as for CRMT (R232). -/
def State.payloadSite (s : State) (die root : Nat) : Nat := if s.rootPkg root = s.pkg then die else 8

/-- A payload of a die's NROUTE is delivered to its expert's buffer (R244). A payload that bounced counts as pending until its record is completed. -/
def State.deliverPayload (s : State) (die : Nat) (x : RouteRun) (k e va : Nat) (bs : List Byte) : Option State :=
  let root := ((Tab.get x.experts e none).map (·.buffer.1)).getD 0
  let site := s.payloadSite die root
  match landRuns { s with cur := .nx die } false root site bs (pieces64k va bs.length) with
  | .ok (t, ls) =>
    let t := { t with cur := s.cur }
    let d := t.die die
    let t := t.setDie die { d with route := some { x with parts := x.parts.eraseIdx k }, pendingBytes := d.pendingBytes - (bs.length - bouncedBytes ls) }
    some (t.land (t.writerOf (.nx die) x.job x.seq none 0 none) site x.core ls (.route die e))
  | r => s.refusedBy r

/-- R239, R240, R244: at `pos` below the number of receivers, the next message of that receiver is delivered, or its full
match-table entry releases its card; above it, a payload of the die's NROUTE is delivered. -/
def execNxDelivery (die pos : Nat) (s : State) : Host.Outcome State Fault Refusal :=
  happen s <|
    let k := s.die die
    match k.receivers[pos]? with
    | some r => match r.matched with
      | m :: _ => s.deliver die r m
      | [] => if decide (r.kind = 1) && decide (r.filled = r.cap) && s.landedAll die r
          then some (s.nmatchRelease die { r with root := s.postRoot r }) else none
    | none => match k.route with
      | none => none
      | some x => match x.parts[pos - k.receivers.length]? with
        | none => none
        | some (e, va, bs) => s.deliverPayload die x (pos - k.receivers.length) e va bs

/-- R238: the acknowledgement of a delivery that has been performed; from another package at any time (log entry 8). Its push
releases what the stream accessed before (R299). -/
def execNsendAck (die seq : Nat) (s : State) : Host.Outcome State Fault Refusal :=
  happen s <|
    let k := s.die die
    match k.sends.find? fun x => decide (x.seq = seq) with
    | none => none
    | some x =>
      let local_ := decide (peerPkg x.peer = s.pkg)
      let released := decide (x.pushes = 0) || s.performedBefore (.nx die) x.seq
      if ((local_ && decide (x.stage = 3) && !s.bouncedOf (.nx (peerDie x.peer) x.via)) || !local_) && released then
        let s := s.setDie die { k with sends := k.sends.filter (fun y => decide (y.seq ≠ seq)),
                                       pendingBytes := k.pendingBytes - x.len }
        some (s.pushDone (.nx die) x.core x.job x.seq x.pushes x.tag)
      else none

/-! ### NBAR and NPEND (R242) -/

/-- R242: arrives once the pending-byte counter reads 0, and stands there until the release. -/
def execNbar (tk : BitVec 3) (s : State) : Host.Outcome State Fault Refusal :=
  finish s <| command s tk .issue fun s _ => do
    let (die, _) ← nxHere s
    waitUntil s ((s.die die).pendingBytes = 0)
    .error (.goOn (s.setMe { s.me with run := .parked .nbar }))

/-- The NX streams that a job has: one on each die where it runs with NX. -/
def State.nxStreams (s : State) (j : Nat) (jb : Job) : List UnitId :=
  if bit (cardEngines jb.words) 4 then ((jb.insts.map fun i => UnitId.nx (i.core / 4)).eraseDups).filter fun u =>
    decide ((s.stream u).job = some j)
  else []

/-- R242: every participant has arrived, and its earlier accesses are performed; each then completes its NBAR. -/
def execNbarRelease (job : Nat) (s : State) : Host.Outcome State Fault Refusal :=
  happen s <|
    match s.job? job with
    | none => none
    | some jb =>
      let us := s.nxStreams job jb
      if !us.isEmpty && jb.allStarted && us.all fun u =>
          decide ((s.stream u).run = .parked .nbar) && s.allPerformed u then
        some (us.foldl (fun s u =>
          let t := { s with cur := u }
          let t := t.setMe { t.me with run := .running }
          let r := match decode u.half t.me.word with
            | .ok (.nbar tk) => command t tk .issue fun s _ => .ok s.retire
            | _ => .ok t.retire
          let t := match r with
            | .ok x => x
            | .error (.trap e) => takeTrap t e
            | .error (.trapIn x e) => takeTrap x e
            | .error (.wait x) => x
            | .error (.goOn x) => x
          { t with cur := s.cur }) (s.meet us 3))
      else none

/-- R242. -/
def execNpend (tk : BitVec 3) (d : BitVec 5) (s : State) : Host.Outcome State Fault Refusal :=
  finish s <| command s tk .issue fun s _ => do
    let (die, _) ← nxHere s
    .ok (s.wg d (dw ((s.die die).pendingBytes % 2 ^ 40))).retire

/-! ### NROUTE (R243, R244) -/

/-- The regions of a route record in their order: offset and size. -/
def routeRegions (w : List Word) : List (Nat × Nat) :=
  [(wd w 1, 4 * wd w 0), (wd w 2, 32 * wd w 3), (wd w 6, wd w 0 * wd w 5), (wd w 7, 4 * wd w 0), (wd w 8, 4 * wd w 0)]

/-- The words of a route record that break its table. -/
def routeChecks (w : List Word) : List (Nat × Bool) :=
  [ (0, decide (wd w 0 = 0) || decide (65536 < wd w 0)), (3, decide (wd w 3 = 0) || decide (65535 < wd w 3)),
    (4, decide (wd w 4 = 0) || decide (65535 < wd w 4)),
    (5, decide (wd w 5 = 0) || decide (wd w 5 % 64 ≠ 0) || decide (65536 < wd w 5)) ]
  ++ (List.range 7).map fun i => (9 + i, decide (wd w (9 + i) ≠ 0))

/-- The choices of a token: first and second. -/
def choices (t : Nat) : Nat × Nat := (bits t 15 0, bits t 31 16)

/-- The checks of an NROUTE at issue; its run, before the first token, with its place among commands. -/
def routeStart (s : State) (core off : Nat) : M (State × RouteRun) := do
  faultIf (off % 64 ≠ 0) .misalign (dw off)
  let (s, w) ← readScratch s core off 64
  recordIf (routeChecks w) (dw off)
  match (routeRegions w).find? fun x => decide (scratchSize < x.1 + x.2) with
  | some x => fault .handleBound (dw x.1)
  | none =>
    let here : Place := ⟨1, none, 0, s.pkg⟩
    let (s, _, map) ← readPlace s here core (run (wd w 2) (32 * wd w 3))
    let badRes := (List.range (wd w 3)).any fun e =>
      decide (leNat ((map.drop (32 * e + 24)).take 8) ≠ 0)
      || (List.range 3).any fun k => decide (bits (leNat ((map.drop (32 * e + 8 * k)).take 8)) 63 62 ≠ 0)
    if badRes then faultAt .format (dw off) 4 0
    let (s, _, tt) ← readPlace s here core (run (wd w 1) (4 * wd w 0))
    let bad := (List.range (wd w 0)).find? fun i =>
      let (a, b) := choices (wordAt tt i)
      decide (wd w 3 ≤ a) || (decide (wd w 3 ≤ b) && decide (b ≠ 0xFFFF))
    match bad with
    | some i => faultAt .format (dw i) 4 0
    | none =>
      let (n, s) := s.nextSeq
      .ok (s, { core := core, job := s.me.job.getD 0, seq := n, root := s.me.root, words := w, table := tt, map := map, token := 0, second := false, sawGated := false, sawFailed := false,
                dropped := 0, experts := [], tops := [], parts := [] })

/-- An address of an expert map entry, in CRMT's layout: its translation goes on, it fails, or it lies in a page of a package, reached through a
root. -/
inductive MapAddr where
  | later
  | failed
  | at (root : Nat) (p : Page) (va : Nat)

/-- An address translated at the package that it names, through the root of the control core of the same number there (R243). -/
def State.mapAddr (s : State) (root v : Nat) : State × MapAddr :=
  let va := bits v 55 0
  let pkg := bits v 61 56
  if !(s.exchange.present.contains pkg) || decide (va % 4 ≠ 0) then (s, .failed)
  else
    let key := s.rootKey pkg root
    match s.deviceWalk key va with
    | (s, .page p) => (s, if p.writable && !p.trellis then .at key p va else .failed)
    | (s, .fault _ _ _) => (s, .failed)
    | (s, .stuck _ _) => (s, .later)

/-- The addresses of n bytes at a VA of a page, as an access of a package at a site reaches them: of a SYS lattice page the replica lies in that
package (R149, R379). -/
def Page.cellsOf (p : Page) (pkg site va n : Nat) : List Nat :=
  let q := if p.ltype ≠ 0 ∧ p.scope = 3 then { p with pkg := pkg } else p
  (run (va - p.va) n).filterMap (q.byte site)

/-- What an expert's three addresses come to (R243) for a package and a site: none while a translation goes on; an expert, or none where it
fails. -/
def expertOf (pkg site : Nat) (a b c : MapAddr) : Option (Option Expert) :=
  let later := [a, b, c].any fun x => match x with
    | .later => true
    | _ => false
  if later then none
  else some (match a, b, c with
    | .at _ p u, .at _ q v, .at r _ w =>
      let x := p.cellsOf pkg site u 4
      let y := q.cellsOf pkg site v 4
      if p.ltype = 0 ∧ q.ltype = 1 ∧ x.length = 4 ∧ y.length = 4 then some ⟨(p, x), (q, y), (r, w)⟩ else none
    | _, _, _ => none)

/-- The expert of an entry of the map. -/
def State.expert (s : State) (root : Nat) (map : List Byte) (e : Nat) : State × Option (Option Expert) :=
  let word := fun (k : Nat) => leNat ((map.drop (32 * e + 8 * k)).take 8)
  let (s, a) := s.mapAddr root (word 0)
  let (s, b) := s.mapAddr root (word 1)
  let (s, c) := s.mapAddr root (word 2)
  (s, expertOf s.pkg (siteOf s.cur) a b c)

/-- What a claim answers: the old value, a closed port, or a failed expert. -/
inductive Claim where
  | old (c : Nat)
  | gated
  | failed

/-- Bytes read for a command that raises no fault any more: of uncorrectable ones the error is recorded, and they are free. -/
def State.soundBytes (s : State) (hash : Option Nat) (pas : List Nat) (bs : List Byte) : State × List Byte :=
  match s.firstBad pas with
  | none => (s.noteReads s.cur pas hash, bs)
  | some i =>
    let cw := codewordOf (s.direct (pas.getD i 0))
    let (n, s) := (s.recordBad (badKind cw) cw (s.unitCode s.cur) (s.cardCode s.cur) hash).draw
    (s, (List.range bs.length).map fun i => if s.badAt (pas.getD i 0) then Config.freeByte n i else bs.getD i 0)

/-- A claim on an expert: an AMO, ADD 1 on its counter in one step at its home (R141, R244). It releases what its stream accessed before the
NROUTE, which is then performed, and acquires. -/
def claim (s : State) (r : RouteRun) (x : Option Expert) : M (State × Claim) :=
  match x with
  | none => .ok (s, .failed)
  | some e =>
    let (p, pas) := e.counter
    match s.gatedCore s.cur pas with
    | some c => .ok (s.askUngate c, .gated)
    | none =>
      if s.mustWait s.cur pas (some p.hash) || !s.performedBefore s.cur r.seq then .error (.wait s)
      else
        let (s, bs) := s.hashBytes p.hash pas (s.rdAll pas)
        let (s, bs) := s.soundBytes (some p.hash) pas bs
        let old := leNat bs
        let k := s.homeReleases pas
        let s := (s.seenNow s.self pas).acquire s.self k
        let by_ := { s.writerOf s.cur r.job (r.seq - 1) (some p.hash) p.scope (some p.scope) with at_ := r.seq }
        let s := s.perform (pas.zip (leBytes 4 ((old + 1) % 2 ^ 32))) true { by_ with clock := by_.clock.join k }
        .ok (s.acquireOwn s.self p.scope Clock.empty, .old old)

/-- One word stored into the core's scratchpad. -/
def State.putWord (s : State) (r : RouteRun) (off v : Nat) : State :=
  s.perform (cellsAt (scratchPa s.pkg r.core off) (leBytes 4 v)) true (s.writerOf s.cur r.job r.seq none 0 none)

/-- A token that no expert takes (R244). -/
def State.dropToken (s : State) (r : RouteRun) (viaGate viaFail : Bool) : State × RouteRun :=
  let w := r.words
  let v := r.token + b2n viaGate * 2 ^ 31 + b2n viaFail * 2 ^ 30
  let s := (s.putWord r (wd w 8 + 4 * r.dropped) v).putWord r (wd w 7 + 4 * r.token) 0xFFFFFFFF
  (s, { r with token := r.token + 1, second := false, sawGated := false, sawFailed := false, dropped := r.dropped + 1 })

/-- A token that expert e has given slot c: its payload on the way, in the pending-byte counter (R244). -/
def State.placeToken (s : State) (die : Nat) (r : RouteRun) (e c : Nat) (x : Option Expert) : State × RouteRun :=
  let w := r.words
  let pas := (run (wd w 6 + r.token * wd w 5) (wd w 5)).map (scratchPa s.pkg r.core)
  let (s, bs) := s.lookUnits s.cur none 1 pas
  let (s, bs) := s.soundBytes none pas bs
  let va := ((x.map (·.buffer.2)).getD 0 + c * wd w 5) % 2 ^ 56
  let s := s.putWord r (wd w 7 + 4 * r.token) (c * 65536 + e)
  let s := s.setDie die { s.die die with pendingBytes := (s.die die).pendingBytes + wd w 5 }
  (s, { r with token := r.token + 1, second := false, sawGated := false, sawFailed := false,
               tops := Tab.set r.tops e (max (Tab.get r.tops e 0) (c + 1)), parts := r.parts ++ [(e, va, bs)] })

/-- One claim of an NROUTE (R244): each waits for its answer before the next, and an expert's first one for the translation of its
addresses. -/
def routeStep (s : State) (die : Nat) (r : RouteRun) : M State := do
  let w := r.words
  let tok := wordAt r.table r.token
  let e := if r.second then (choices tok).2 else (choices tok).1
  let put := fun (x : State × RouteRun) => x.1.setDie die { x.1.die die with route := some x.2 }
  if e = 0xFFFF then .ok (put (s.dropToken r r.sawGated r.sawFailed))
  else
    let (s, x) := match Tab.find? r.experts e with
      | some x => (s, some x)
      | none => s.expert r.root r.map e
    match x with
    | none => .error (.wait s)
    | some x =>
      let r := { r with experts := Tab.set r.experts e x }
      let (s, answer) ← claim s r x
      let g := r.sawGated || (match answer with
        | .gated => true
        | _ => false)
      let f := r.sawFailed || (match answer with
        | .failed => true
        | _ => false)
      let full := if r.second then put (s.dropToken r g f) else put (s, { r with second := true, sawGated := g, sawFailed := f })
      match answer with
      | .old c => if c < wd w 4 then .ok (put (s.placeToken die r e c x)) else .ok full
      | _ => .ok full

/-- The next token of an NROUTE has a claim made (R244). -/
def routeTurn (s : State) (die : Nat) (r : RouteRun) : M State := do
  waitUntil s ((s.die die).pendingBytes + wd r.words 5 < 2 ^ 40)
  routeStep s die r

/-- Every token is done, delivered and joined. -/
def RouteRun.over (r : RouteRun) : Bool := decide (wd r.words 0 ≤ r.token) && r.parts.isEmpty && r.tops.isEmpty

/-- R243, R244: a claim at each turn; it completes after its last join. -/
def execNroute (tk : BitVec 3) (d a : BitVec 5) (s : State) : Host.Outcome State Fault Refusal :=
  finish s <| command s tk .issue fun s _ => do
    let (die, core) ← nxHere s
    match (s.die die).route with
    | none =>
      waitUntil s (s.nxReady die)
      let (s, r) ← routeStart s core (s.rg a).toNat
      let s := s.nxPass die
      .error (.goOn (s.setDie die { s.die die with route := some r }))
    | some r =>
      if r.over then .ok ((s.setDie die { s.die die with route := none }).wg d (dw r.dropped)).retire
      else
        waitUntil s (r.token < wd r.words 0)
        let t ← routeTurn s die r
        .error (.goOn t)

/-- The experts whose fill cell may be joined: their deliveries are acknowledged, what bounced among it. -/
def State.joinable (s : State) (die : Nat) (r : RouteRun) : List Nat :=
  if r.token < wd r.words 0 then []
  else (r.tops.map (·.1)).filter fun e => (r.parts.all fun p => decide (p.1 ≠ e)) && !s.bouncedOf (.route die e)

/-- The join of expert e (R244): a release, at the site of the die, in one step; none while it waits (R150, R288, R411). -/
def State.fillJoin (s : State) (die e : Nat) (r : RouteRun) : Option State :=
  let u : UnitId := .nx die
  let s' := s.setDie die { s.die die with route := some { r with tops := Tab.erase r.tops e } }
  match Tab.get r.experts e none with
  | none => some s'
  | some x =>
    let (p, pas) := x.fill
    match s.gatedCore u pas with
    | some c => some (s.askUngate c)
    | none =>
      if s.mustWait u pas (some p.hash) || !s.performedBefore u r.seq then none
      else
        let (n, t) := s'.nextSeq
        let by_ := (t.writerOf u r.job n (some p.hash) p.scope (some p.scope))
        some (t.joinUnit 1 die p.replicated (decide (p.scope = 3)) by_ pas (leBytes 4 (Tab.get r.tops e 0)))

/-- R355: the NROUTE of a job that has ended, begun before, goes on without its stream: to its next claim, or to its end. -/
def State.routeAlone (s : State) (die : Nat) (r : RouteRun) : Option State :=
  if (s.stream (.nx die)).run.live then none
  else if r.over then some (s.setDie die { s.die die with route := none })
  else if decide (wd r.words 0 ≤ r.token) then none
  else match routeTurn { s with cur := .nx die } die r with
    | .ok t => some { t with cur := s.cur }
    | .error (.wait t) => some (s.keepWalks t)
    | _ => none

/-- R244: the join of an expert, whichever of those that may be made comes first. -/
def execNrouteFillJoin (die : Nat) (s : State) : Host.Outcome State Fault Refusal :=
  happen s <|
    match (s.die die).route with
    | none => none
    | some r => match s.joinable die r with
      | [] => s.routeAlone die r
      | e :: es =>
        let (k, s) := if es.isEmpty then (0, s) else (Config.freeNat s.draw.1, s.draw.2)
        s.fillJoin die ((e :: es).getD (k % (es.length + 1)) e) r

end Sys2Proof.Machine
end

