-- ==== Sys2Proof/Machine/Queues.lean ====
section
/-!
DEFINITION. The queues between VL and VE (spec/06_vector_engines.md R184 to R186, R214, R217, R218, R474): how SB takes its data,
which loads may be popped, filling and performing.
-/

namespace Sys2Proof.Machine

/-! ### Registers as bytes -/

/-- The 256 bytes of a register or queue entry. -/
def vecBytes (v : VWord) : List Byte := (List.range 256).map fun i => BitVec.ofNat 8 (v.toNat / 2 ^ (8 * i))

/-- A register from its bytes. -/
def vecOf (bs : List Byte) : VWord := BitVec.ofNat 2048 (leNat bs)

/-- A register with bytes laid at positions, zero elsewhere. -/
def vecAt (cells : List (Nat × Byte)) : VWord :=
  vecOf ((List.range 256).map fun i => ((cells.find? fun c => decide (c.1 = i)).map (·.2)).getD 0)

/-! ### The store buffer takes its data (R184, R186, R474) -/

/-- An SB entry with its SQ entry: only enabled bytes are written; nothing under a revoked image. -/
def SbEntry.take (e : SbEntry) (q : SqEntry) : SbEntry :=
  let dst := if e.revoked then [] else e.dst.filter fun d => bit q.en.toNat d.1
  { e with data := some q.data, dst := dst, span := spanOf (dst.map (·.2)) }

/-- SQ entries go to the SB entries that lack one, in order. -/
def takeData : List SbEntry → List SqEntry → List SbEntry × List SqEntry
  | [], qs => ([], qs)
  | e :: es, qs =>
    if e.data.isSome then (e :: (takeData es qs).1, (takeData es qs).2)
    else match qs with
      | [] => (e :: es, [])
      | q :: qs => (e.take q :: (takeData es qs).1, (takeData es qs).2)

/-- A core's SB after it has taken what SQ holds for it. -/
def State.sbTake (s : State) (c : Nat) : State :=
  let k := s.core c
  let (sb, sq) := takeData k.sb k.sq
  s.setCore c { k with sb := sb, sq := sq }

/-- The next SQ entry is an index entry for VL: no store before it still lacks its data (R184, R213). -/
def Core.indexEntry (k : Core) : Option SqEntry := if k.sb.all (·.data.isSome) then k.sq.head? else none

/-! ### Pops (R184, R218) -/

/-- An address lies in a core's own scratchpad, in a package. -/
def ownScratch (pkg c pa : Nat) : Bool :=
  decide (kindOf pa = 2) && decide (pkgOf pa = pkg) && decide (scratchCore pa = c)

/-- A load comes after a store of the core's own scratchpad that is not performed, and their bytes meet (R218). -/
def LqEntry.after (e : LqEntry) (pkg c : Nat) (b : SbEntry) : Bool :=
  decide (b.seq < e.seq) && share ((e.src.map (·.2.1)).filter (ownScratch pkg c)) b.addrs

/-- The LQ entries of a job, oldest first: LQ is empty when a job starts (R290), and what an earlier job left there is discarded (R186). -/
def Core.entriesOf (k : Core) (j : Nat) : List LqEntry := k.lq.filter fun e => decide (e.job = j)

/-- The n oldest LQ entries of a job may be popped: filled, and with no older data than R218 allows. -/
def Core.ready (k : Core) (pkg c j n : Nat) : Bool :=
  decide (n ≤ (k.entriesOf j).length) && ((k.entriesOf j).take n).all fun e => e.filled && !(k.sb.any (e.after pkg c))

/-- LQ without the n oldest entries of a job. -/
def popped (j : Nat) : Nat → List LqEntry → List LqEntry
  | _, [] => []
  | 0, es => es
  | n + 1, e :: es => if e.job = j then popped j n es else e :: popped j (n + 1) es

/-! ### Accesses of VL -/

/-- What an access of VL waits for before it issues: a channel, a request of its die to another package (R409), other agents' accesses that are
ordered before it, its own unperformed shared-subset stores of the bytes, and earlier jobs' tracker entries (R288, R300). Its own SB is not
checked (R218, R219). -/
def State.vlWaits (s : State) (c : Nat) (pas : List Nat) (hash : Option Nat) : Bool :=
  s.chanShut pas hash || s.remoteFull (.eng .vl c) pas || s.ordersAfter (s.agentOf (.eng .vl c)) pas
  || (s.pending.any fun p => decide (p.who = .eng .vl c) && share pas (p.bytes.map (·.1)))
  || s.trackedBefore c ((s.stream (.eng .vl c)).job.getD 0) pas

/-- An access that is made as its command issues waits besides for the older loads of its bytes (R301), and for the older stores of
bytes of the core's own scratchpad (R218). -/
def Core.vlHolds (k : Core) (pkg c : Nat) (pas : List Nat) : Bool :=
  (k.lq.any fun e => !e.filled && share pas (e.src.map (·.2.1)))
  || k.sb.any fun b => share (pas.filter (ownScratch pkg c)) b.addrs

/-! ### A load's data arrives (R184, R214, R216) -/

/-- The entry that fetched bytes make: laid at their places, or decoded from a trellis block. -/
def LqEntry.content (e : LqEntry) (bs : List Byte) : VWord :=
  match e.decode with
  | none => vecAt ((e.src.map (·.1)).zip bs)
  | some (mode, table, used) =>
    let m := (tcwMode mode).getD default
    let st := leNat bs
    vecOf ((List.range 256).map fun i => if i < used then BitVec.ofInt 8 (weightAt m table st i) else 0)

/-- The HASH of the page that an access was checked under. -/
def hashOf (p : Option (Nat × Page)) : Nat := (p.map (·.2.hash)).getD 0

/-- An uncorrectable byte that an entry of a core has fetched is recorded (R214, R450, R462). -/
def State.recordLoad (s : State) (c pa : Nat) (e : LqEntry) : State :=
  s.recordBad (badKind pa) (codewordOf (s.direct pa)) c (s.cardCode (.eng .vl c)) (e.of.map (·.2.hash))

/-- The addresses that an LQ entry fetches. -/
def LqEntry.pas (e : LqEntry) : List Nat := e.src.map (·.2.1)

/-- The entry at a place may be filled: its channels are open, and the older loads of its bytes are (R301). -/
def State.mayFill (s : State) (c pos : Nat) (e : LqEntry) : Bool :=
  !s.chanShut e.pas (some (hashOf e.of))
  && ((s.core c).lq.take pos).all fun x => x.filled || !share e.pas x.pas

/-- The entry at a place is filled with what VL's load returns (R301), with what was ordered before its command, or marked. -/
def State.fillEntry (s : State) (c pos : Nat) (e : LqEntry) : State :=
  let pas := e.pas
  let put := fun (s : State) (e : LqEntry) => s.setCore c { s.core c with lq := (s.core c).lq.set pos e }
  match s.firstBad pas with
  | some i => (put s { e with filled := true, marked := some ((e.src.getD i (0, 0, 0)).2.2 / 64 * 64) }).recordLoad c (pas.getD i 0) e
  | none =>
    let a : Agent := .unit (.eng .vl c) e.job
    let (s, bs) := (s.noteReads (.eng .vl c) pas (e.of.map (·.2.hash))).lookEach a ((s.view a).at_ e.seq) (e.of.map (·.2)) e.es pas
    let (s, bs) := s.hashBytes (hashOf e.of) pas bs
    put s { e with filled := true, data := e.content bs }

/-- The oldest push of a finished load that has nothing left to release is made (R299). -/
def State.vlPush (s : State) (c : Nat) : Option State :=
  let k := s.core c
  (k.vlPushes.find? fun p => s.performedBefore (.eng .vl c) p.seq).map fun p =>
    (s.setCore c { k with vlPushes := k.vlPushes.filter fun q => decide (q.seq ≠ p.seq) }).pushDone (.eng .vl c) c p.job p.seq p.pushes p.tag

/-- A command of VL whose last entry is filled finishes (R213): it pushes, at once where nothing earlier is left to release. -/
def State.loadFinished (s : State) (c : Nat) (e : LqEntry) : State :=
  if !e.finishes then s
  else if s.performedBefore (.eng .vl c) e.seq then s.pushDone (.eng .vl c) c e.job e.seq e.pushes e.tag
  else s.setCore c { s.core c with vlPushes := (s.core c).vlPushes ++ [⟨e.seq, e.job, e.pushes, e.tag⟩] }

/-- R184: a load's data arrives; or the push of one whose data has arrived is made. An entry that is fetched again has finished
before. -/
def execVlLoadFill (core pos : Nat) (s : State) : Host.Outcome State Fault Refusal :=
  happen s <|
    match s.vlPush core with
    | some t => some t
    | none => match (s.core core).lq[pos]? with
      | none => none
      | some e => if e.filled || !s.mayFill core pos e then none else
        some ((s.fillEntry core pos { e with finishes := false }).loadFinished core e)

/-! ### A store is performed (R184, R217, R218, R287) -/

/-- The bytes that an SB entry with its data still writes. -/
def SbEntry.cells (e : SbEntry) : List (Nat × Byte) :=
  e.dst.map fun d => (d.2, BitVec.ofNat 8 ((e.data.getD 0).toNat / 2 ^ (8 * d.1)))

/-- The pieces in which an SB entry writes what it still writes (R217). -/
def SbEntry.pieces (e : SbEntry) : List (List (Nat × Byte)) := unitsOf e.cells e.es

/-- The pieces that may be written now, as (entry, piece): an entry with its data and a tracker entry; two stores write the
same byte in their order, and a store follows the older loads of its bytes, also one that is to be fetched again (R218, R301), and what an
acquire or a FENCE has ordered before it (R300). -/
def State.sbPieces (s : State) (c free : Nat) : List (Nat × Nat) :=
  let k := s.core c
  (List.range k.sb.length).flatMap fun i =>
    let before := (k.sb.take i).flatMap SbEntry.addrs
    match k.sb[i]? with
    | none => []
    | some e =>
      if e.data.isNone || decide (free ≤ i) || !s.inOrder (.eng .vl c) e.job e.seq then []
      else
        let loads := (k.lq.filter fun x => decide (x.seq < e.seq) && (!x.filled || k.sb.any (x.after s.pkg c))).flatMap (·.pas)
        let us := e.pieces
        ((List.range us.length).filter fun n =>
          let pas := (us.getD n []).map (·.1)
          !share before pas && !share loads pas && !s.chanShut pas (some e.hash)).map fun n => (i, n)

/-- Loads that come after a performed piece and had been filled are fetched again (R218). -/
def refill (pkg c seq : Nat) (pas : List Nat) (e : LqEntry) : LqEntry :=
  if e.filled && decide (seq < e.seq) && share ((e.src.map (·.2.1)).filter (ownScratch pkg c)) pas
  then { e with filled := false, marked := none } else e

/-- One piece written. -/
def State.sbWrite (s : State) (c : Nat) (x : Nat × Nat) : State :=
  let k := s.core c
  match k.sb[x.1]? with
  | none => s
  | some e =>
    let piece := e.pieces.getD x.2 []
    let pas := piece.map (·.1)
    let e := { e with dst := e.dst.filter fun d => !pas.contains d.2 }
    let by_ := { s.writerOf (.eng .vl c) e.job e.seq (some e.hash) e.scope none with page := some (e.root, e.page), tracked := some (c, e.job) }
    (s.setCore c { k with sb := k.sb.set x.1 e, lq := k.lq.map (refill s.pkg c e.seq pas) }).perform piece true by_

/-- The oldest store with its data all of whose bytes are performed finishes, once its push has nothing left to release (R299). -/
def State.sbSettle (s : State) (c : Nat) : Option State :=
  let k := s.core c
  (k.sb.find? fun e => e.data.isSome && e.dst.isEmpty && !e.revoked && (decide (e.pushes = 0) || s.performedBefore (.eng .vl c) e.seq)).map fun e =>
    (s.setCore c { k with sb := k.sb.filter fun f => decide (f.seq ≠ e.seq) }).pushDone (.eng .vl c) c e.job e.seq e.pushes e.tag

/-- A restored store of the executing VL stream whose image was revoked (R474): the stream raises HANDLE_REVOKED for it before its next
word. -/
def State.revokedStore (s : State) : Option SbEntry :=
  match s.cur with
  | .eng .vl c => (s.core c).sb.find? fun e => e.revoked && decide (some e.job = s.me.job)
  | _ => none

/-- HANDLE_REVOKED for a restored store (R474), which takes its data and writes nothing. -/
def State.raiseRevoked (s : State) (e : SbEntry) : State :=
  let u := s.cur
  let c := s.coreOf u
  let x := s.me
  let off := fun (f : SbEntry) => if f.seq = e.seq then { f with revoked := false, dst := [], span := none } else f
  let s := (s.setCore c { s.core c with sb := (s.core c).sb.map off }).setMe { x with cmdIndex := e.cmd }
  let s := s.raise u Cause.handleRevoked.code false x.pc (dw e.low) (s.engineWord u 0 0)
  s.setStream u { s.stream u with cmdIndex := x.cmdIndex }

/-- R184: a piece of a store that has its data is performed, whichever; a store whose last piece that was finishes. -/
def execVlStorePerform (core : Nat) (s : State) : Host.Outcome State Fault Refusal :=
  happen s <|
    match s.sbSettle core with
    | some t => some t
    | none =>
      let sb := (s.core core).sb
      let others := s.trackerUsed core - (sb.filter (·.data.isSome)).length
      match s.sbPieces core (64 - others) with
      | [] => none
      | [x] => let t := s.sbWrite core x; some ((t.sbSettle core).getD t)
      | x :: xs =>
        let (n, s) := s.draw
        let t := s.sbWrite core ((x :: xs).getD (Config.freeNat n % (xs.length + 1)) x)
        some ((t.sbSettle core).getD t)

end Sys2Proof.Machine
end

