-- ==== Sys2Proof/Machine/Preempt.lean ====
section
/-!
DEFINITION. Pre-emption and context switch (spec/13_traps_preemption_contexts.md R342 to R354, R474; spec/12 R329): the policy, the
consistent cut, the save slot, the start of a job and the return of a saved instance.
-/

namespace Sys2Proof.Machine

/-! ### Issue (R328) -/

/-- A least-loaded job takes its core at issue (R321). -/
def State.placeJob (s : State) (n : Nat) (j : Job) : State :=
  if cardPlace j.words = 3 ∧ j.unissued then
    s.setJob n { j with insts := (s.issueCores j).map fun c => ⟨c, 0, .waiting, 0, 0, 0⟩ }
  else s

/-- One card a tick goes into a queue; a gated core is asked to be ungated (R310). -/
def State.issuedOn (s : State) (c : Nat) : State :=
  let k := s.core c
  s.setCore c { k with issueFrom := s.tick + 1, ungate := k.ungate || k.gated }

/-- A kernel that has issued waits for its transfers no more: entries that only it held are free (R260). -/
def State.freeNamed (s : State) (o : Origin) : State :=
  match o with
  | .krun i _ _ => s.sweepScb i
  | _ => s

/-- R328. -/
def execQueueIssue (core : Nat) (s : State) : Host.Outcome State Fault Refusal :=
  happen s ((s.nextIssue core).map fun k =>
    ((s.issueCores k.2).foldl State.issuedOn ((s.placeJob k.1 k.2).issueJob k.1)).freeNamed k.2.origin)

/-! ### The decision (R329, R342, R343) -/

/-- The tokens that a decision costs the newcomer's card. -/
def State.spend (s : State) (n cost : Nat) : State :=
  match s.job? n with
  | none => s
  | some x => s.setCard x.card { s.card x.card with tokens := (s.card x.card).tokens - cost }

/-- The card for which a job is drained enters the queue ahead of every other (R343). -/
def State.goesFirst (s : State) (n : Nat) : State :=
  match s.job? n with
  | none => s
  | some x => s.setJob n { x with first := true }

/-- A save slot taken for a cut (R342). -/
def cutEntry (slot c n card : Nat) : Saved := { holdEntry slot 2 (.eng .cx c) (some n) card c 0 false false with noticed := true }

/-- R329, R342, R343. A slot that is taken holds a header of zeros (R351). -/
def execPreemptionDecision (core : Nat) (s : State) : Host.Outcome State Fault Refusal :=
  happen s ((s.preemptor core).map fun (n, j, x, p, cost) =>
    let s := s.spend x cost
    match p with
    | .drain => (s.setJob n { j with phase := some .drain }).goesFirst x
    | .kill => (s.setJob n { j with phase := some .kill }).setCore core { s.core core with cut := some n }
    | .checkpoint =>
      let slot := s.freeSlot.getD 0
      let s := { s with saved := s.saved ++ [cutEntry slot core n j.card] }
      let s := s.putDwords (s.slotPa slot) (List.replicate 32 0)
      (s.setJob n { j with phase := some .seeking, cutSlot := some slot }).setCore core { s.core core with cut := some n })

/-! ### Stop points (R345) -/

/-- A stream that may stop at a kernel-iteration boundary stops there; MX when its commands are known to be free of faults (R165). -/
def State.boundaryStop (s : State) (u : UnitId) : Option State :=
  let x := s.stream u
  match x.jl with
  | none => none
  | some l =>
    if !l.boundary || !s.cutPending u || s.mxOpen u then none
    else
      let live := match s.jobOf u with
        | some j => cardLive j.words
        | none => 0
      some (s.setStream u { x with jl := some { l with boundary := false }, run := .parked (.stop (BitVec.ofNat 24 live) false) })

/-- A stream of a held instance stands at a wait. -/
def waitsIn (x : Stream) : Bool :=
  match x.run with
  | .running => x.waiting.isSome || x.queued.isSome
  | .parked _ => true
  | _ => false

/-- What a stream of an instance contributes where it stands at a stop point (R345); `held` when the instance is held. A stream that holds a
lock passes its stop points (R140). -/
def State.stopLive (s : State) (held : Bool) (u : UnitId) : Option (BitVec 24) :=
  let x := s.stream u
  match x.run with
  | .off => some 0
  | .halted => some 0
  | .parked (.stop m _) => some m
  | .held _ => if (s.locksOf u).isEmpty then some 0xFFFFFF else none
  | _ => if held && waitsIn x && (s.locksOf u).isEmpty then some 0xFFFFFF else none

/-- The streams of the instance of a job on a core, and whether one is held. -/
def State.instStreams (s : State) (n c : Nat) : List UnitId × Bool :=
  let us := s.jobUnits n c
  (us, us.any fun u => match (s.stream u).run with
    | .held _ => true
    | _ => false)

/-- A stream that goes on from where it stopped: from a PPOINT it completes (R345, R354), else it runs what stands there. -/
def Stream.goesOn (x : Stream) : Stream :=
  match x.run with
  | .parked (.stop _ true) => { x with run := .running }.next
  | .parked (.stop _ false) => { x with run := .running }
  | _ => x

/-- The streams at stop points whose generation is older than that of another one of the instance: they run to their next ones (R345). -/
def State.laggards (s : State) (us : List UnitId) : List UnitId :=
  us.filter fun u => (match (s.stream u).run with
      | .parked (.stop _ _) => true
      | _ => false)
    && us.any fun v => (s.stream v).run.live && olderTag (s.stream v).gen (s.stream u).gen

/-- R345: the older ones at stop points go on; or all stand at stop points of one generation. -/
def execCutStopPointsReached (core : Nat) (s : State) : Host.Outcome State Fault Refusal :=
  happen s <|
    match (s.core core).cut with
    | none => none
    | some n => match s.job? n with
      | none => none
      | some j =>
        if j.phase ≠ some .seeking then none
        else
          let (us, held) := s.instStreams n core
          match s.laggards us with
          | u :: vs => some ((u :: vs).foldl (fun s v => s.setStream v (s.stream v).goesOn) s)
          | [] => match us.mapM (s.stopLive held) with
            | none => none
            | some lives =>
              let gens := ((us.filter fun u => (s.stream u).run.live).map fun u => (s.stream u).gen).eraseDups
              if gens.length ≤ 1 then some (s.setJob n { j with phase := some (.arrived (lives.foldl (· ||| ·) 0) (gens.headD 0)) })
              else none

/-! ### Draining forward (R346, R474) -/

/-- The transfers that run on a core have all passed through staging and been written here (R344). -/
def State.transfersQuiet (s : State) (c : Nat) : Bool :=
  ((s.core c).cx.all (·.xfer.isNone))
  && s.lcs.all fun l => l.2.scb.all fun e => e.kernel.isSome || e.finished || decide (e.core ≠ c) || decide (e.run = 0)
    || decide ((transferRuns e.record).length ≤ e.run)

/-- The buffers that a live mask names are final (R183). -/
def MxState.finalIn (m : MxState) (live now : Nat) : Bool :=
  (!bit live 0 || decide (m.acc0.final ≤ now)) && (!bit live 1 || decide (m.acc1.final ≤ now))

/-- Everything that an instance has started is done, but for VL stores that lack their data; the transfers that ran on its core have
finished there. -/
def State.cutDrained (s : State) (n c live : Nat) : Bool :=
  let k := s.core c
  !s.trackerHas c n
  && (k.cx.all fun f => decide (f.job ≠ n)) && s.transfersQuiet c
  && (k.mx.flight.all fun f => decide (f.job ≠ n)) && k.mx.finalIn live s.now
  && (k.lq.all fun e => e.filled || decide (e.job ≠ n)) && (k.vlPushes.all fun e => decide (e.job ≠ n))
  && (k.sb.all fun e => decide (e.job ≠ n) || e.data.isNone)
  && ((s.die (c / 4)).sends.all fun x => !(decide (x.core = c) && decide (x.job = n)))
  && (decide ((s.stream (.nx (c / 4))).job ≠ some n) || (s.die (c / 4)).route.isNone)

/-! ### The save slot (R349 to R353) -/

/-- Doublewords of a number, low first. -/
def dwordsOf (n x : Nat) : List DWord := (List.range n).map fun i => dw (x / 2 ^ (64 * i))

/-- Doublewords of bytes. -/
def dwordsOfBytes (bs : List Byte) : List DWord := (List.range ((bs.length + 7) / 8)).map fun i => dw (leNat ((bs.drop (8 * i)).take 8))

/-- A buffer as it is saved: what is pending promoted (R183); where an FA sum has no room for that, it stays pending (log entry 22). -/
def Acc.settled (b : Acc) : Acc := b.flush.getD b

/-- MX as it is saved under a live mask. -/
def MxState.settled (m : MxState) (live : Nat) : MxState :=
  { m with acc0 := if bit live 0 then m.acc0.settled else m.acc0, acc1 := if bit live 1 then m.acc1.settled else m.acc1 }

/-- What VE's and MX's blocks hold beyond the registers (R352), under a live mask. -/
def State.blockExtra (s : State) (live : Nat) (u : UnitId) : List (Nat × List DWord) :=
  match u with
  | .eng .ve c =>
    let ms := (s.core c).ve.masks
    [(0x400, [dw ms.length]), (0x420, ms.reverse.flatMap fun m => dwordsOf 4 m.toNat)]
  | .eng .mx c =>
    let m := (s.core c).mx.settled live
    let st := fun (a : Acc) => dw (a.header.1 + 2 ^ 32 * a.header.2)
    [ (0x400, m.td.toList.flatMap fun d => dwordsOf 2 d.toNat), (0x500, [dw m.tref, st m.acc0, st m.acc1, dw m.pi]),
      (0x520, dwordsOfBytes ((List.range 256).map fun i => m.tbl.getD i 0)) ]
  | _ => []

/-- A token queue's count and its sixteen halfwords (R349). -/
def queueImage (q : TokenQueue) : List DWord :=
  let ts := (List.range 16).map fun i => match q.toks[i]? with
    | some t => t.tag.toNat + 256 * b2n t.isVoid
    | none => 0
  dw q.toks.length :: (List.range 4).map fun i =>
    dw (((List.range 4).map fun j => ts.getD (4 * i + j) 0 * 2 ^ (16 * j)).sum)

/-- The queues among the five engines, in order. -/
def engineQueues : List (Endpoint × Endpoint) :=
  let es : List Endpoint := [.cx, .vl, .ve, .mx, .nx]
  es.flatMap fun p => (es.filter fun e => decide (e ≠ p)).map fun e => (p, e)

/-- Bytes stored by the device at a physical address. -/
def State.putBytes (s : State) (pa : Nat) (bs : List Byte) : State := s.poke (cellsAt pa bs)

/-- Bytes whose layout the spec does not give, as free values (log entry 22). -/
def State.putFree (s : State) (pa n : Nat) : State :=
  let (k, s) := s.draw
  s.putBytes pa ((List.range n).map (Config.freeByte k))

/-- The offset of a scratchpad sixteenth. -/
def sixteenth (i : Nat) : Nat := 1572864 * i

/-- The registers of the vector quarters (R112): v24 to v30 in the last. -/
def quarter (q : Nat) : List Nat := (List.range 8).filterMap fun i => if 8 * q + i < 31 then some (8 * q + i) else none

/-- A stream's unstarted command is saved: one that is tagged younger than G_cut (R346); another one is reached again. -/
def Stream.savedCommand (x : Stream) (g : Byte) : Option Queued := x.queued.filter fun q => !q.started && olderTag q.tag g

/-- The 16 bytes of an unstarted command (R350). -/
def Queued.image (q : Queued) : List Byte :=
  leBytes 4 q.word.toNat ++ leBytes 4 q.delta ++ leBytes 2 (q.pops.toNat * 32 + q.pushes.toNat) ++ [q.tag, 0, 0, 0, 0, 0]

/-- The unstarted commands of a cut (R350): a stream's stands at its sequencer, so that each engine has at most one. -/
def State.savedCommands (s : State) (n c : Nat) (g : Byte) : List (UnitId × Queued) :=
  (s.jobUnits n c).filterMap fun u => ((s.stream u).savedCommand g).map fun q => (u, q)

/-- NCMD of a header (R351): the counts by engine. -/
def commandCounts (qs : List (UnitId × Queued)) : Nat := (qs.map fun q => 2 ^ (5 * ((blockOf q.1 - 0x1000) / 2048))).sum

/-- The regions of a checkpoint (R349) written to its slot. -/
def State.writeRegions (s : State) (pa n c live : Nat) (g : Byte) : State :=
  let k := s.core c
  let us := s.jobUnits n c
  let s := (s.putFree (pa + 0x100) 1280).putBytes (pa + 0x100) ((s.savedCommands n c g).flatMap fun q => q.2.image)
  let s := s.putFree (pa + 0x600) 960
  let s := (List.range 20).foldl (fun s i => match engineQueues[i]? with
    | some p => s.putDwords (pa + 0x600 + 48 * i) (queueImage (k.queue p.1 p.2))
    | none => s) s
  let s := us.foldl (fun s u => s.putBlock (pa + blockOf u) (s.streamBlock u ++ s.blockExtra live u)) s
  let s := (List.range 4).foldl (fun s q => if bit live (18 + q) then
      (quarter q).foldl (fun s r => s.putBytes (pa + 0x8000 + 256 * r) (vecBytes (k.ve.v.toList.getD r 0))) s else s) s
  let s := if bit live 22 then
      let s := s.putFree (pa + 0xA000) 16384
      let s := s.putBytes (pa + 0xA000) (k.lq.flatMap fun e => vecBytes e.data)
      s.putBytes (pa + 0xA000 + 4096) (k.sq.flatMap fun e => vecBytes e.data ++ leBytes 32 e.en.toNat)
    else s
  let s := s.putFree (pa + 0xE000) 8192
  let s := if bit live 0 then s.putBytes (pa + 0x10000) k.mx.acc0.settled.image else s
  let s := if bit live 1 then s.putBytes (pa + 0x500000) k.mx.acc1.settled.image else s
  (List.range 16).foldl (fun s i => if bit live (2 + i) then
    s.putBytes (pa + 0xA00000 + sixteenth i) (s.rdAt (scratchPa s.pkg c (sixteenth i)) 1572864) else s) s

/-- The header of a slot (R351). -/
def State.writeHeader (s : State) (pa kind c live rem iter ncmd gcut strm : Nat) (card : Nat) (cause : DWord)
    (rest : List DWord) (double : Bool) : State :=
  s.putDwords pa ([dw (2 ^ 63 + kind * 2 ^ 60 + c * 2 ^ 40 + live * 2 ^ 16 + card % 2 ^ 16), cause] ++ rest
    ++ [dw (rem % 2 ^ 32 * 2 ^ 32 + iter % 2 ^ 32), s.pcyc, dw (ncmd + gcut * 2 ^ 32 + strm * 2 ^ 40), dw (b2n double)]
    ++ List.replicate 22 0)

/-- The trap record of a held unit: EPC, EINFO, ECMD, EWORD. -/
def Stream.record (x : Stream) : List DWord := [x.epc, x.einfo, x.ecmd, x.eword]

/-- A cut instance as plain data. -/
def State.savedInst (s : State) (n c slot : Nat) (card : Nat) (live : BitVec 24) (gcut : Byte) (held : Option Saved) : Saved where
  slot := slot
  kind := if held.isSome then 3 else 2
  unit := (held.map (·.unit)).getD (.eng .cx c)
  job := some n
  card := card
  code := (held.map (·.code)).getD c
  cause := (held.map (·.cause)).getD 0
  noticed := true
  double := (held.map (·.double)).getD false
  ending := false
  live := live
  gcut := gcut
  streams := (s.jobUnits n c).map fun u => (u, s.stream u)
  ve := some (s.core c).ve
  mx := some ((s.core c).mx.settled live.toNat)
  lq := (s.core c).lq.filter fun e => decide (e.job = n)
  sq := (s.core c).sq
  sb := (s.core c).sb.filter fun e => decide (e.job = n) && e.data.isNone
  tokens := engineQueues.map fun p => (p, (s.core c).queue p.1 p.2)
  ways := (s.core c).ways
  pad := (setBits 16 (bits live.toNat 17 2)).map fun i =>
    (i, (cellsAt 0 (s.rdAt (scratchPa s.pkg c (sixteenth i)) 1572864)).filter fun x => decide (x.2 ≠ 0))
  image := []

/-- The core is released: the instance's streams stop, its queues and token queues are emptied (R347), locks that it holds go (R140). -/
def State.leaveCore (s : State) (n c : Nat) (j : Job) : State :=
  let us := s.jobUnits n c
  let s := us.foldl (fun s u => ((s.setStream u { s.stream u with run := .off, job := none, queued := none, waiting := none }).leaveLines
    u).leaveLocks u) s
  let s := s.clearQueues n c j
  let k := s.core c
  s.setCore c { k with cut := none, jobq := k.jobq.filter (fun x => decide (x ≠ n)) }

/-- A cut job is ready again, its waiting time counted afresh (R329, R347). -/
def Job.cutOff (j : Job) (c tick : Nat) (st : InstState) : Job :=
  { j with ready := true, readyTick := tick, phase := none, first := false, cutSlot := none,
           insts := j.insts.map fun i => if i.core = c then { i with state := st } else i }

/-- A cut job, its card's slot ready again unless the job is a copy of a template. -/
def State.putBack (s : State) (n : Nat) (j : Job) : State :=
  let s := s.setJob n j
  if j.origin.isCopy then s else s.setCard j.card { s.card j.card with state := .ready }

/-- The held unit of an instance whose record the cut's slot takes: the one that is held in that slot (R342), else the first (log entry
36). -/
def State.heldOf (s : State) (us : List UnitId) (slot : Option Nat) : Option Saved :=
  let held := s.saved.filter fun y => us.contains y.unit && decide ((s.stream y.unit).run = .held y.slot)
  (held.find? fun y => decide (some y.slot = slot)).or held.head?

/-- Bit e for each engine stream of a list. -/
def streamBits (us : List UnitId) : Nat := (us.map fun u => 2 ^ ((blockOf u - 0x1000) / 2048)).sum

/-- The save of a checkpoint (R346, R347, R351). Stores of VL that lack their data go with it only under live-mask bit 22 (R474). A hold's own slot
is given up, with a notice that names it and has not been read: DEDUCED, since the notice is posted afresh (R354, R448; log entry 36). -/
def State.saveCut (s : State) (n : Nat) (j : Job) (c : Nat) (live : BitVec 24) (g : Byte) : State :=
  let slot := j.cutSlot.getD 0
  let us := s.jobUnits n c
  let s := if bit live.toNat 22 then s else s.dropUnfed c fun e => decide (e.job = n)
  let held := s.heldOf us j.cutSlot
  let y := s.savedInst n c slot j.card live g held
  let rest := match held with
    | some h => (s.stream h.unit).record
    | none => [0, 0, 0, 0]
  let rem := s.remaining n j
  let iter := s.turnsOf n j
  let ncmd := commandCounts (s.savedCommands n c g)
  let s := s.writeRegions (s.slotPa slot) n c live.toNat g
  let s := s.writeHeader (s.slotPa slot) y.kind c live.toNat rem iter ncmd g.toNat (streamBits us) j.card y.cause rest y.double
  let gone := fun (z : Nat) => decide (z ≠ slot) && decide (some z = held.map (·.slot))
  let s := s.dropSlots fun (z : Saved) => gone z.slot
  let s := { s with faultq := s.faultq.filter fun x => !gone (dbits x 47 40) }
  let s := ({ s with saved := s.saved.filter (fun (z : Saved) => decide (z.slot ≠ slot)) ++ [y] }).noteImage slot
  let s := s.setCore c { s.core c with sb := (s.core c).sb.filter fun e => decide (e.job ≠ n) }
  (s.leaveCore n c j).putBack n (j.cutOff c s.tick (.saved slot))

/-- The end of a kill (R346): unstarted work discarded; the header of a hold's slot rewritten. -/
def State.finishKill (s : State) (n : Nat) (j : Job) (c : Nat) : State :=
  let us := s.jobUnits n c
  let rem := s.remaining n j
  let iter := s.turnsOf n j
  let s := match s.heldOf us j.cutSlot with
    | some h =>
      (s.writeHeader (s.slotPa h.slot) 1 c 0 rem iter 0 0 0 j.card h.cause (s.stream h.unit).record h.double).noteImage h.slot
    | none => s
  let s := us.foldl (fun s u => match u with
    | .nx d => s.unpost d n
    | _ => s) s
  let s := s.leaveCore n c j
  s.putBack n (j.cutOff c s.tick .waiting)

/-- R346: once the cut is consistent, the slot is written and the core released. -/
def execCutSave (core : Nat) (s : State) : Host.Outcome State Fault Refusal :=
  happen s <|
    match (s.core core).cut with
    | none => none
    | some n => match s.job? n with
      | none => none
      | some j =>
        match j.phase with
        | some (.arrived live g) => if s.cutDrained n core live.toNat then some (s.saveCut n j core live g) else none
        | some .kill => if s.cutDrained n core 0 then some (s.finishKill n j core) else none
        | _ => none

/-! ### Start and return (R274, R347, R354) -/

/-- Deliveries to an instance's buffers that bounced are placed before it resumes (R344). -/
def State.placed (s : State) (n c : Nat) : Bool :=
  (s.die (c / 4)).receivers.all fun r => decide (r.job ≠ n) || decide (r.core ≠ c) || s.landedAll (c / 4) r

/-- The job that starts on a core now; a saved instance once its bounced deliveries are placed. -/
def State.starts (s : State) (c : Nat) : Option (Nat × Job × Inst) :=
  if s.now % 10 ≠ 0 then none
  else match s.startable c with
    | some (n, j, i) => (match i.state with
      | .saved _ => if s.placed n c then some (n, j, i) else none
      | _ => some (n, j, i))
    | none => none

/-- A handle as its image restores it (R353): one that was pending walks again from the root. -/
def State.restoredHandle (s : State) (h : Handle) : Handle :=
  match h.state with
  | .pending _ => s.newHandle h.root false h.va
  | _ => h

/-- A stream as it was saved, running on: a hold stays, in the cut's slot where that took its record; a saved command stands at the head
of its queue, one that had begun goes on, another is reached again (R354). -/
def State.restoredStream (s : State) (y : Saved) (tp : Bool) (seed : Nat) (u : UnitId) (x : Stream) : Stream :=
  let begun := x.queued.filter (·.started)
  let x := { x.revoke s.restoredHandle with
    queued := begun.or (x.savedCommand y.gcut), waiting := none
    tp := if tp then x.tp else Vector.ofFn fun (i : Fin 8) => Config.freeReg seed (blockOf u + i.val) &&& 0x3FF }
  match x.run with
  | .parked (.stop _ _) => x.goesOn
  | .held n => if u = y.unit ∧ y.kind = 3 then { x with run := .held y.slot } else { x with run := .held n }
  | _ => x

/-- VE of a restored instance: quarters outside the live mask are undefined (log entry 5). -/
def restoredVe (y : Saved) (seed : Nat) (old : VeState) : VeState :=
  let v : Vector VWord 31 := Vector.ofFn fun (i : Fin 31) =>
    (if bit y.live.toNat (18 + i.val / 8) then old.v[i.val] else Config.freeVec seed i.val)
  { old with v := v }

/-- A buffer of a restored instance: outside the live mask its elements are undefined (log entry 5), its mode, class, band sources and mark
are always saved (R183). -/
def restoredAcc (y : Saved) (seed : Nat) (second : Bool) (old : Acc) : Acc :=
  if bit y.live.toNat (b2n second) then old else { old with base := .undef seed second, elems := [] }

/-- MX of a restored instance. -/
def restoredMx (y : Saved) (seed tick : Nat) (old : MxState) : MxState :=
  { old with tref := tick + 64, flight := [], acc0 := restoredAcc y seed false old.acc0, acc1 := restoredAcc y seed true old.acc1 }

/-- LQ of a restored instance: without bit 22 of the live mask its contents are undefined (R112, log entry 5). -/
def restoredLq (y : Saved) (seed n : Nat) : List LqEntry :=
  if bit y.live.toNat 22 then y.lq
  else ((Config.freeSaved seed).lq.take 16).map fun e =>
    { e with job := n, filled := true, src := [], decode := none, of := none, pushes := 0, finishes := false }

/-- SQ of a restored instance, likewise. -/
def restoredSq (y : Saved) (seed : Nat) : List SqEntry :=
  if bit y.live.toNat 22 then y.sq else (Config.freeSaved seed).sq.take 16

/-- The scratchpad of a restored instance: saved sixteenths come back, the others are undefined (log entry 5). -/
def restoredPad (y : Saved) (pkg seed c : Nat) : List (Nat × Byte) :=
  (List.range 16).flatMap fun i =>
    match Tab.find? y.pad i with
    | some m => (List.range 1572864).map fun o => (scratchPa pkg c (sixteenth i + o), Mem.get m o)
    | none => (List.range 1572864).map fun o => (scratchPa pkg c (sixteenth i + o), Config.freeByte seed (sixteenth i + o))

/-- The engines of a restored instance on its core: those that its streams use (R354). -/
def Core.restoreFor (k : Core) (y : Saved) (n seed tick : Nat) : Core :=
  let us := y.streams.map (·.1)
  let has := fun (h : Half) => us.any fun u => decide (u.half = h)
  let ends := us.map UnitId.endpoint
  let pair := has .vl || has .ve
  { k with ve := if has .ve then (y.ve.map (restoredVe y seed)).getD k.ve else k.ve,
           mx := if has .mx then (y.mx.map (restoredMx y seed tick)).getD k.mx else k.mx,
           lq := if pair then k.lq ++ restoredLq y seed n else k.lq,
           sq := if pair then restoredSq y seed else k.sq,
           sb := if bit y.live.toNat 22 then y.sb ++ k.sb else k.sb,
           ways := y.ways,
           tokens := (y.tokens.filter fun p => ends.contains p.1.1 && ends.contains p.1.2).foldl (fun t p => Tab.set t p.1 p.2) k.tokens }

/-- A saved instance starts again on its core (R354), at the level that the core has; its slot is free, but for one whose unit is still held
(R347). -/
def State.restoreInst (s : State) (n : Nat) (j : Job) (i : Inst) (y : Saved) : State :=
  let c := i.core
  let (seed, s) := s.draw
  let s := s.coherentRo c
  let s := y.streams.foldl (fun s x => s.setStream x.1 (s.restoredStream y (bit y.live.toNat 23) seed x.1 x.2)) s
  let s := (s.setCore c ((s.core c).restoreFor y n seed s.tick)).poke (restoredPad y s.pkg seed c)
  let again := fun (z : Saved) => if z.slot = y.slot then
    { holdEntry z.slot 3 z.unit z.job z.card z.code z.cause z.double false with image := y.image } else z
  let s := if y.kind = 3 then { s with saved := s.saved.map again } else s.dropSlot y.slot
  let insts := j.insts.map fun x => if x.core = c then { x with state := .running, start := s.tick } else x
  let s := s.setJob n { j with insts := insts }
  if j.origin.isCopy then s else s.setCard j.card { s.card j.card with state := .running }

/-- What the firmware wrote into the slot of a saved instance makes its restored state undefined (R351): registers, engines
and queues come back as free values (log entry 33). -/
def scrambled (seed : Nat) (y : Saved) : Saved :=
  let f := Config.freeSaved seed
  { y with live := f.live, ve := f.ve, mx := f.mx, lq := f.lq, sq := f.sq, ways := f.ways, pad := [],
           sb := f.sb.map fun e => { e with job := y.job.getD 0, data := none },
           tokens := y.tokens.map fun p => (p.1, Tab.get f.tokens p.1 TokenQueue.empty),
           streams := y.streams.map fun x => (x.1, x.2.undefinedBy (Config.freeStream seed (blockOf x.1))) }

/-- R274, R354. -/
def execJobStart (core : Nat) (s : State) : Host.Outcome State Fault Refusal :=
  happen s ((s.starts core).map fun (n, j, i) =>
    let stale := fun (z : Saved) => decide (z.job = some n) && decide (z.kind = 1)
      && decide (z.unit.isEngine) && decide (s.coreOf z.unit = core)
      && decide ((s.stream z.unit).run ≠ RunState.held z.slot)
      && !z.ending && decide (i.state = InstState.queued)
    let s := s.dropSlots stale
    let t := match i.state with
      | .saved slot => (match s.saved.find? fun (y : Saved) => decide (y.slot = slot) with
        | some y => if s.slotIntact y then s.restoreInst n j i y else s.draw.2.restoreInst n j i (scrambled s.draw.1 y)
        | none => s.startInst n j i)
      | _ => s.startInst n j i
    t.markDense core)

end Sys2Proof.Machine
end

