-- ==== Sys2Proof/Machine/Te.lean ====
section
/-!
DEFINITION. The trellis engine (spec/07_copy_network_trellis_engines.md R245 to R251): TENC, TDEC and TSTAT.
-/

namespace Sys2Proof.Machine

/-! ### Places (R245, R246) -/

/-- A place of a TE word: a plain offset of a handle's page, whose frame is no scratchpad. -/
def tePlace (s : State) (h : BitVec 4) (v : DWord) (len : Nat) (write : Bool) : M Place := do
  let x ← openPlace s 0 h (placeOff v) len write
  match x.page with
  | some (_, p) =>
    faultIf (p.layout.isNone ∧ kindOf p.pa = 2) .permission (x.name x.off)
    faultIf (write ∧ p.ltype ≠ 0) .latticeType (x.name x.off)
    .ok x
  | none => .ok x

/-- n bytes at an offset of a place. -/
def teRead (s : State) (x : Place) (off n : Nat) : M (State × List Byte) := do
  faultIf (x.limit < off + n) .handleBound (x.name off)
  let (s, _, bs) ← readPlace s x 0 (run off n)
  .ok (s, bs)

/-- Bytes written at an offset of a place: accepted, and performed in atomic units (R130, R307). -/
def teWrite (s : State) (x : Place) (off : Nat) (bs : List Byte) : M State := do
  let ds ← x.dests (siteOf s.cur) 0 (run off bs.length)
  let pas := ds.filterMap Dest.pa?
  reach s pas (x.name off) x.hash
  let (root, p) := x.page.getD (noRoot, default)
  .ok ((unitsOf (pas.zip bs)).foldl (fun (s : State) (u : List (Nat × Byte)) =>
    let (q, s) := s.nextSeq
    let e : Pending := {
      seq := q, who := s.cur, core := none, job := s.me.job.getD 0, kind := .store, bytes := u, va := p.va + off,
      isRelease := false, frees := none, scope := p.scope, root := root, page := p.key, hash := p.hash }
    State.numberWrites { s with pending := s.pending ++ [e] } (u.map fun (c : Nat × Byte) => c.1) (some p.hash)) s)

/-- ILLEGAL outside TE. -/
def onlyTe (s : State) : M Unit := if s.cur = .te then .ok () else faultFree .illegal

/-! ### Scales and targets (R247) -/

/-- The value function of a request: bell, or its table. -/
abbrev ValueFn := Option (List Byte)

/-- Tm: 30 for bell, the largest |entry| for a table. -/
def largestValue (f : ValueFn) : Nat :=
  match f with
  | none => 30
  | some t => (t.map fun b => (sextInt b.toNat 8).natAbs).foldl max 0

/-- The magnitude and exponent of an FP32 target. -/
def targetMag (x : Nat) : Nat × Int :=
  match ElemType.fp32.value x with
  | .fin _ m e => (m, e)
  | _ => (0, 0)

/-- The automatic S10 of a half-block's targets, and whether none sufficed. -/
def autoScale (f : ValueFn) (xs : List Nat) : Nat × Bool :=
  let m := (xs.map targetMag).foldl maxMag (0, 0)
  if m.1 = 0 ∨ largestValue f = 0 then (0, false) else s10For (largestValue f) m.1 m.2

/-- q = RNE(target / s × 256) clamped to ±2^20, and whether it was. -/
def quantTarget (c x : Nat) : Int × Bool :=
  let lim : Int := (2 ^ 20 : Nat)
  let q := match ElemType.fp32.value x with
    | .fin neg m e => quotientRne neg m (e + 8) c
    | _ => 0
  if q < -lim then (-lim, true) else if lim < q then (lim, true) else (q, false)

/-! ### The passes of a block (R248, R249) -/

/-- A block to be encoded: mode, value function, and its 256 quantised targets; none for weights with k ≥ K. -/
structure Block where
  mode : TcwMode
  fn : ValueFn
  q : List (Option Int)

/-- Groups of a block. -/
def Block.groups (x : Block) : Nat := 256 / x.mode.g

/-- The cost of a group under a window. -/
def Block.cost (x : Block) (grp w : Nat) : Nat :=
  ((List.range x.mode.g).map fun j => match x.q.getD (grp * x.mode.g + j) none with
    | none => 0
    | some t => (t - 256 * windowValue x.fn w j).natAbs ^ 2).sum

/-- Costs by window; none where a window is not admitted. -/
abbrev Costs := Array (Option Nat)

/-- The better of two (cost, window) pairs: the lower cost, the first of equals. -/
def better (x y : Option (Nat × Nat)) : Option (Nat × Nat) :=
  match x, y with
  | some a, some b => if a.1 ≤ b.1 then x else y
  | none, y => y
  | x, none => x

/-- The least candidate of window w′ at a step: its cost and predecessor window, ties to the lower. -/
def leastBefore (b : Nat) (cost : Costs) (w : Nat) : Option (Nat × Nat) :=
  (List.range (2 ^ b)).foldl (fun best y =>
    let p := w * 2 ^ b % 65536 + y
    better best ((cost.getD p none).map fun c => (c, p))) none

/-- One step: the costs, and each window's predecessor. -/
def Block.advance (x : Block) (cost : Costs) (grp : Nat) : Costs × Array Nat :=
  let ls := ((List.range 65536).map (leastBefore x.mode.b cost)).toArray
  (((List.range 65536).map fun w => (ls.getD w none).map fun p => p.1 + x.cost grp w).toArray,
    (ls.map fun l => (l.map (·.2)).getD 0))

/-- The windows of the all-zero start at step 0, or of a fixed one. -/
def Block.start (x : Block) (fixed : Option Nat) : Costs :=
  ((List.range 65536).map fun w => match fixed with
    | none => some (x.cost 0 w)
    | some a => if w = a then some (x.cost 0 w) else none).toArray

/-- Steps 1 to n: the last costs, and the predecessors of each step, last first. -/
def Block.steps (x : Block) (fixed : Option Nat) (n : Nat) : Costs × List (Array Nat) :=
  (List.range n).foldl (fun (c : Costs × List (Array Nat)) i =>
    let (k, p) := x.advance c.1 ((i + 1) % x.groups)
    (k, p :: c.2)) (x.start fixed, [])

/-- The windows traced back from the last, first step first. -/
def traceBack (w : Nat) : List (Array Nat) → List Nat → List Nat
  | [], acc => w :: acc
  | p :: ps, acc => traceBack (p.getD w 0) ps (w :: acc)

/-- The window of least cost among those admitted, ties to the lower. -/
def leastWindow (cost : Costs) (allowed : Nat → Bool) : Nat :=
  (((List.range 65536).foldl (fun best w =>
    if allowed w then better best ((cost.getD w none).map fun c => (c, w)) else best) none).map (·.2)).getD 0

/-- A stream from the traced windows: group s mod G takes the low bits of the window at step s. -/
def Block.stream (x : Block) (win : List Nat) (first : Nat) : Nat :=
  (List.range x.groups).foldl (fun n i =>
    let s := first + i
    n + win.getD s 0 % 2 ^ x.mode.b * 2 ^ (s % x.groups * x.mode.b)) 0

/-- The cost of a stream: each group once, under the window that R51 computes. -/
def Block.total (x : Block) (st : Nat) : Nat :=
  ((List.range x.groups).map fun q => x.cost q (window x.mode st q)).sum

/-- A forced pass from a start window (R249): its stream. -/
def Block.forced (x : Block) (a : Nat) : Nat :=
  let (cost, back) := x.steps (some a) (x.groups - 1)
  let w := leastWindow cost fun w => decide (w / 2 ^ x.mode.b = a % 2 ^ (16 - x.mode.b))
  x.stream (traceBack w back []) 0

/-- A block encoded (R248, R249): its stream, and whether passes 2 and 3 ran. -/
def Block.encode (x : Block) : Nat × Bool × Bool :=
  let n := x.groups
  let l := ceilDiv 16 x.mode.b
  let (cost, back) := x.steps none (n + l - 1)
  let win := traceBack (leastWindow cost fun _ => true) back []
  let st := x.stream win l
  if (List.range n).all fun i => decide (window x.mode st ((l + i) % n) = win.getD (l + i) 0) then (st, false, false)
  else
    let a := window x.mode st 0
    let b := win.getD n 0
    let s2 := x.forced a
    if a = b then (s2, true, false)
    else
      let s3 := x.forced b
      let c2 := x.total s2
      let c3 := x.total s3
      (if c2 < c3 ∨ (c2 = c3 ∧ a < b) then s2 else s3, true, true)

/-! ### TENC (R246 to R249) -/

/-- The words of an encode request that break its table or R53. -/
def reqChecks (w : List Word) : List (Nat × Bool) :=
  [ (0, (tcwMode (bits (wd w 0) 7 0)).isNone || decide (1 < bits (wd w 0) 15 8) || decide (bits (wd w 0) 31 17 ≠ 0)),
    (1, decide (wd w 1 = 0) || decide (2 ^ 24 < wd w 1)), (2, decide (wd w 2 = 0) || decide (2 ^ 24 < wd w 2)) ]
  ++ (List.range 10).map fun i => (6 + i, decide (wd w (6 + i) ≠ 0))

/-- One block of an image: its bytes, its cost, clamps, and passes run. -/
structure Encoded where
  bytes : List Byte
  cost : Nat
  clamps : Nat
  pass2 : Bool
  pass3 : Bool

/-- A block of at most 256 targets encoded under supplied scales, or automatic ones. -/
def encodeBlock (m : TcwMode) (f : ValueFn) (supplied : Option Nat) (xs : List Nat) : Encoded :=
  let (a, ca) := autoScale f (xs.take 128)
  let (b, cb) := autoScale f (xs.drop 128)
  let sw := supplied.getD (a + 1024 * b)
  let qs := (List.range 256).map fun k => (xs[k]?).map (quantTarget (scaleOf sw k))
  let clamps := (qs.filter fun q => (q.map (·.2)).getD false).length
    + (if supplied.isSome then 0 else b2n ca + b2n cb)
  let x : Block := ⟨m, f, qs.map fun q => q.map (·.1)⟩
  let (st, p2, p3) := x.encode
  ⟨leBytes 4 sw ++ leBytes (m.bytes - 4) st, x.total st, clamps, p2, p3⟩

/-- The header of an image (R53). -/
def imageHeader (code k n : Nat) (table : Bool) : List Byte :=
  let blocks := ceilDiv k 256 * n
  leBytes 4 (code + 256 * b2n table) ++ leBytes 4 blocks ++ leBytes 4 k ++ leBytes 4 n ++ leBytes 4 (blocks / 2 ^ 32)
    ++ List.replicate 44 0

/-- R246 to R249. -/
def execTenc (h : BitVec 4) (a : BitVec 5) (j : BitVec 4) (b : BitVec 5) (s : State) : Host.Outcome State Fault Refusal :=
  finish s do
    onlyTe s
    noAux (s.rg a)
    noAux (s.rg b)
    let d ← tePlace s h (s.rg a) 0 true
    let x ← tePlace s j (s.rg b) 64 false
    let (s, hd) ← teRead s x x.off 64
    let w := wordsOf hd 16
    recordIf (reqChecks w) (dw x.off)
    let code := bits (wd w 0) 7 0
    let mode := (tcwMode code).getD default
    let table := decide (bits (wd w 0) 15 8 = 1)
    let k := wd w 1
    let n := wd w 2
    let rows := ceilDiv k 256
    let (s, tgt) ← teRead s x (wd w 3) (4 * n * k)
    let target := fun (i : Nat) => wordAt tgt i
    match (List.range (n * k)).find? fun i => (match ElemType.fp32.value (target i) with
        | .fin _ _ _ => false
        | _ => true) with
    | some i => faultAt .format (dw (wd w 3 + 4 * i)) 4 0
    | none => .ok ()
    let (s, scw) ← if bit (wd w 0) 16 then teRead s x (wd w 4) (4 * rows * n) else .ok (s, [])
    let _ ← (List.range (scw.length / 4)).mapM fun i => do
      let v := wordAt scw i
      if bits v 31 20 ≠ 0 then faultAt .format (dw (wd w 4 + 4 * i)) 4 0
      if s10Exp (scaleOf v 0) = 255 ∨ s10Exp (scaleOf v 128) = 255 then
        faultAt .scaleInvalid (dw (wd w 4 + 4 * i)) 4 0
    let (s, tbl) ← if table then teRead s x (wd w 5) 256 else .ok (s, [])
    let f : ValueFn := if table then some tbl else none
    let size := 64 + tbl.length + rows * n * mode.bytes
    faultIf (d.limit < d.off + size) .handleBound (d.name d.off)
    let blocks := (List.range (rows * n)).map fun i =>
      let (col, kb) := (i / rows, i % rows)
      let xs := (List.range (min 256 (k - 256 * kb))).map fun e => target (col * k + 256 * kb + e)
      encodeBlock mode f (if bit (wd w 0) 16 then some (wordAt scw i) else none) xs
    let s ← teWrite s d d.off (imageHeader code k n table ++ tbl ++ blocks.flatMap (·.bytes))
    let count := fun (p : Encoded → Bool) => (blocks.filter p).length
    let stats : Vector DWord 4 := #v[dw (min ((blocks.map (·.cost)).sum) (2 ^ 64 - 1)), dw ((blocks.map (·.clamps)).sum),
      dw (count (·.pass2) + 2 ^ 32 * count (·.pass3)), dw blocks.length]
    .ok (({ s with teStats := stats }).setMe s.me.counted).retire

/-! ### TDEC and TSTAT (R250, R251) -/

/-- R250. -/
def execTdec (h : BitVec 4) (a : BitVec 5) (j : BitVec 4) (b : BitVec 5) (s : State) : Host.Outcome State Fault Refusal :=
  finish s do
    onlyTe s
    noAux (s.rg a)
    noAux (s.rg b)
    let d ← tePlace s h (s.rg a) 0 true
    let x ← tePlace s j (s.rg b) 64 false
    let (s, hd) ← teRead s x x.off 64
    match tcwHeader (wordsOf hd 16) with
    | .error f => faultAt .format (dw x.off) 4 f
    | .ok t =>
      let blocks := t.rows * t.n
      let (s, body) ← teRead s x (x.off + 64) (t.size - 64)
      let tblLen := if t.table then 256 else 0
      let block := fun (i : Nat) => (body.drop (tblLen + i * t.mode.bytes)).take t.mode.bytes
      match (List.range blocks).find? fun i => decide (bits (wordAt (block i) 0) 31 20 ≠ 0) with
      | some i => faultAt .format (dw (x.off + 64 + tblLen + i * t.mode.bytes)) 4 0
      | none =>
        faultIf (d.limit < d.off + 260 * blocks) .handleBound (d.name d.off)
        let f : ValueFn := if t.table then some (body.take 256) else none
        let vs := (List.range blocks).flatMap fun i =>
          let st := leNat ((block i).drop 4)
          (List.range 256).map fun e =>
            if t.k ≤ 256 * (i % t.rows) + e then 0 else BitVec.ofInt 8 (weightAt t.mode f st e)
        let sws := (List.range blocks).flatMap fun i => (block i).take 4
        let s ← teWrite s d d.off (vs ++ sws)
        .ok (s.setMe s.me.counted).retire

/-- R251. -/
def execTstat (d : BitVec 5) (f : BitVec 2) (s : State) : Host.Outcome State Fault Refusal :=
  finish s do
    onlyTe s
    .ok ((s.setMe s.me.counted).wg d (s.teStats[f.toNat]'(f.isLt))).retire

end Sys2Proof.Machine
end

