-- ==== Sys2Proof/Machine/Sfn.lean ====
section
/-!
DEFINITION. The special functions of VSFN (spec/06_vector_engines.md R199), correctly rounded. The algebraic ones are exact. Of
the others an interval that holds the exact value is formed, some 300 bits narrow, and both its ends are rounded: they
agree, since the exact value is neither representable nor halfway between two values. Should they not agree, the result
is a free value (log entry 31).
-/

namespace Sys2Proof.Machine

/-! ### Fixed point -/

/-- Fraction bits of the fixed-point numbers here. -/
def fxBits : Nat := 384

/-- One, in fixed point. -/
def fxOne : Int := 2 ^ fxBits

/-- A bound, in last places, on the error of every series below: each truncates some hundred terms by a last place and
multiplies such an error by less than 2^20. -/
def fxErr : Int := 2 ^ 64

/-- The product of fixed-point numbers. -/
def fxMul (a b : Int) : Int := a * b / fxOne

/-- The quotient of fixed-point numbers. -/
def fxDiv (a b : Int) : Int := a * fxOne / b

/-- (−1)^neg × m × 2^e with q fraction bits; exact for e ≥ −q. -/
def fxOf (q : Nat) (neg : Bool) (m : Nat) (e : Int) : Int :=
  let x : Int := if 0 ≤ e + q then m * 2 ^ (e + q).toNat else m / 2 ^ (-(e + q)).toNat
  if neg then -x else x

/-- A series whose term k + 1 comes from term k: the sum of n terms. -/
def series (next : Nat → Int → Int) : Nat → Nat → Int → Int
  | 0, _, _ => 0
  | n + 1, k, t => t + series next n (k + 1) (next k t)

/-- The sum of sign^j × z^(2j+1) / (2j+1), n terms, with q fraction bits; `p` is z^(2k+1). -/
def oddSeries (q : Nat) (alternate : Bool) (z2 : Int) : Nat → Nat → Int → Int
  | 0, _, _ => 0
  | n + 1, k, p =>
    let t := p / (2 * (k : Int) + 1)
    (if alternate && decide (k % 2 = 1) then -t else t) + oddSeries q alternate z2 n (k + 1) (p * z2 / 2 ^ q)

/-- ln 2 = 2 atanh(1/3). -/
def fxLn2 : Int := 2 * oddSeries fxBits false (fxOne / 9) 140 0 (fxOne / 3)

/-- Fraction bits of the argument reduction of sin and cos: enough for the largest finite argument. -/
def redBits : Nat := 544

/-- π/2 = 8 atan(1/5) − 2 atan(1/239), with redBits fraction bits. -/
def halfPi : Int :=
  let one : Int := 2 ^ redBits
  8 * oddSeries redBits true (one / 25) 130 0 (one / 5) - 2 * oddSeries redBits true (one / 57121) 40 0 (one / 239)

/-- e^r for |r| below 1. -/
def fxExp (r : Int) : Int := series (fun k t => fxMul t r / (k + 1)) 130 0 fxOne

/-- sin r and cos r for |r| below 1. -/
def fxSin (r : Int) : Int := series (fun k t => -(fxMul (fxMul t r) r) / ((2 * k + 2) * (2 * k + 3))) 70 0 r

def fxCos (r : Int) : Int := series (fun k t => -(fxMul (fxMul t r) r) / ((2 * k + 1) * (2 * k + 2))) 70 0 fxOne

/-- The nearest integer to a / b. -/
def nearest (a b : Int) : Int := (2 * a + b) / (2 * b)

/-- e^x of a fixed-point x as y × 2^k: y in fixed point, near 1. -/
def expParts (x : Int) : Int × Int :=
  let k := nearest x fxLn2
  (fxExp (x - k * fxLn2), k)

/-- e^−x of a fixed-point x ≥ 0, in fixed point. -/
def expNeg (x : Int) : Int :=
  let (y, k) := expParts (-x)
  y / 2 ^ (-k).toNat

/-- ln(m × 2^e) in fixed point, m > 0. -/
def fxLn (m : Nat) (e : Int) : Int :=
  let j := Nat.log2 m
  let x : Int := m * fxOne / 2 ^ j
  let z := fxDiv (x - fxOne) (x + fxOne)
  (e + j) * fxLn2 + 2 * oddSeries fxBits false (fxMul z z) 140 0 z

/-- The integer square root, by its bits from bit n − 1 down. -/
def isqrt (x : Nat) : Nat → Nat → Nat
  | 0, r => r
  | n + 1, r => isqrt x n (if (r + 2 ^ n) * (r + 2 ^ n) ≤ x then r + 2 ^ n else r)

/-! ### Results -/

/-- The rounding of a value of a sign that lies strictly between lo × 2^e and hi × 2^e; none where the ends disagree. -/
def ElemType.between (t : ElemType) (rnd : RoundMode) (neg : Bool) (lo hi e : Int) : Option Nat :=
  let a := t.round rnd neg (2 * lo + 1).toNat (e - 1)
  let b := t.round rnd neg (2 * hi - 1).toNat (e - 1)
  if a = b then some a.1 else none

/-- The rounding of a fixed-point value that is known to within fxErr. -/
def ElemType.near (t : ElemType) (rnd : RoundMode) (y e : Int) : Option Nat :=
  t.between rnd (decide (y < 0)) (y.natAbs - fxErr) (y.natAbs + fxErr) (e - fxBits)

/-- The rounding of a value a little below m × 2^e: by less than a part in 2^70. -/
def ElemType.below (t : ElemType) (rnd : RoundMode) (neg : Bool) (m : Nat) (e : Int) : Option Nat :=
  some (t.round rnd neg (2 * (m * 2 ^ 64) - 1) (e - 65)).1

/-- A value far below the least subnormal. -/
def ElemType.tiny (t : ElemType) (rnd : RoundMode) (neg : Bool) : Option Nat := some (t.round rnd neg 1 (-400)).1

/-- A value far above the largest finite one. -/
def ElemType.huge (t : ElemType) (rnd : RoundMode) : Option Nat := some (t.round rnd false 1 400).1

/-- Whether |m × 2^e| is below 2^n, or at or above it. -/
def magBelow (m : Nat) (e n : Int) : Bool := decide ((Nat.log2 m : Int) + e < n)

/-- e^x. -/
def sfnExp (t : ElemType) (rnd : RoundMode) (neg : Bool) (m : Nat) (e : Int) : Option Nat :=
  if !magBelow m e 9 then (if neg then t.tiny rnd false else t.huge rnd)
  else
    let (y, k) := expParts (fxOf fxBits neg m e)
    t.near rnd y k

/-- 2^x: exact at integers. -/
def sfnExp2 (t : ElemType) (rnd : RoundMode) (neg : Bool) (m : Nat) (e : Int) : Option Nat :=
  if !magBelow m e 9 then (if neg then t.tiny rnd false else t.huge rnd)
  else
    let x := fxOf fxBits neg m e
    let k := x / fxOne
    let r := x - k * fxOne
    if r = 0 then some (t.round rnd false 1 k).1 else t.near rnd (fxExp (fxMul r fxLn2)) k

/-- 1 / (1 + e^−x), in fixed point, for |x| below 128. -/
def fxSigm (neg : Bool) (m : Nat) (e : Int) : Int :=
  let t := expNeg (fxOf fxBits false m e)
  if neg then fxDiv t (fxOne + t) else fxDiv fxOne (fxOne + t)

/-- sin (or cos) of a finite x. -/
def sfnTrig (t : ElemType) (rnd : RoundMode) (cosine neg : Bool) (m : Nat) (e : Int) : Option Nat :=
  if magBelow m e (-40) then (if cosine then t.below rnd false 1 0 else t.below rnd neg m e)
  else
    let x := fxOf redBits neg m e
    let n := nearest x halfPi
    let r := (x - n * halfPi) / 2 ^ (redBits - fxBits)
    let quadrant := (n + (if cosine then 1 else 0)) % 4
    let y := if quadrant % 2 = 0 then fxSin r else fxCos r
    t.near rnd (if 2 ≤ quadrant then -y else y) 0

/-- F applied to a nonzero finite value, other than its exact cases that the callers take. -/
def sfnFinite (f : Nat) (t : ElemType) (rnd : RoundMode) (neg : Bool) (m : Nat) (e : Int) : Option Nat :=
  match f with
  | 0 => sfnExp t rnd neg m e
  | 1 => sfnExp2 t rnd neg m e
  | 2 =>
    if neg then some t.nan
    else if m = 2 ^ Nat.log2 m ∧ (Nat.log2 m : Int) + e = 0 then some 0
    else t.near rnd (fxLn m e) 0
  | 3 =>
    if neg then some t.nan
    else if m = 2 ^ Nat.log2 m then
      let k := (Nat.log2 m : Int) + e
      some (t.round rnd (decide (k < 0)) k.natAbs 0).1
    else t.near rnd (fxDiv (fxLn m e) fxLn2) 0
  | 4 => some (t.roundQuot rnd neg 1 m (-e)).1
  | 5 =>
    if neg then some t.nan
    else
      let (m, e) := if e % 2 = 0 then (m, e) else (2 * m, e - 1)
      let r := isqrt (2 ^ 128 / m) 65 0
      some (t.round rnd false (2 * r + b2n (decide (r * r * m ≠ 2 ^ 128))) (-(e / 2) - 65)).1
  | 6 =>
    if neg then some t.nan
    else
      let (m, e) := if e % 2 = 0 then (m, e) else (2 * m, e - 1)
      let r := isqrt (m * 2 ^ 64) 48 0
      some (t.round rnd false (2 * r + b2n (decide (r * r ≠ m * 2 ^ 64))) (e / 2 - 33)).1
  | 7 =>
    if magBelow m e (-40) then t.below rnd neg m e
    else if !magBelow m e 6 then t.below rnd neg 1 0
    else
      let q := expNeg (2 * fxOf fxBits false m e)
      let y := fxDiv (fxOne - q) (fxOne + q)
      t.near rnd (if neg then -y else y) 0
  | 8 =>
    if magBelow m e 7 then t.near rnd (fxSigm neg m e) 0
    else if neg then t.tiny rnd false
    else t.below rnd false 1 0
  | 9 =>
    if magBelow m e 7 then
      let y := fxSigm neg m e
      t.between rnd neg (m * (y - fxErr)) (m * (y + fxErr)) (e - fxBits)
    else if neg then t.tiny rnd true
    else t.below rnd false m e
  | 10 => sfnTrig t rnd false neg m e
  | _ => sfnTrig t rnd true neg m e

/-- F of ±0. -/
def sfnZero (f : Nat) (t : ElemType) (rnd : RoundMode) (neg : Bool) : Nat :=
  match f with
  | 0 => (t.round rnd false 1 0).1
  | 1 => (t.round rnd false 1 0).1
  | 2 => t.inf true
  | 3 => t.inf true
  | 4 => t.inf neg
  | 5 => t.inf neg
  | 6 => t.sign neg
  | 7 => t.sign neg
  | 8 => (t.round rnd false 1 (-1)).1
  | 9 => t.sign neg
  | 10 => t.sign neg
  | _ => (t.round rnd false 1 0).1

/-- F of ±∞. -/
def sfnInf (f : Nat) (t : ElemType) (rnd : RoundMode) (neg : Bool) : Nat :=
  match f with
  | 0 => if neg then 0 else t.inf false
  | 1 => if neg then 0 else t.inf false
  | 2 => if neg then t.nan else t.inf false
  | 3 => if neg then t.nan else t.inf false
  | 4 => t.sign neg
  | 5 => if neg then t.nan else 0
  | 6 => if neg then t.nan else t.inf false
  | 7 => (t.round rnd neg 1 0).1
  | 8 => if neg then 0 else (t.round rnd false 1 0).1
  | 9 => if neg then t.sign true else t.inf false
  | _ => t.nan

/-- VSFN's function F on an element of a type (R199). -/
def sfn (f : Nat) (t : ElemType) (rnd : RoundMode) (x : Nat) : Nat :=
  match t.value x with
  | .nan => t.nan
  | .inf neg => sfnInf f t rnd neg
  | .fin neg m e =>
    if m = 0 then sfnZero f t rnd neg
    else (sfnFinite f t rnd neg m e).getD (Config.freeSfn (16 * f + 4 * rnd) x % 2 ^ t.width)

end Sys2Proof.Machine
end

