-- ==== Sys2Proof/Machine/Ve.lean ====
section
/-!
DEFINITION. The vector execute engine (spec/06_vector_engines.md R187 to R211; spec/01 R54): elements, masks, the queue port v31, and
every VE instruction.
-/

namespace Sys2Proof.Machine

/-! ### Elements and masks (R187, R188) -/

/-- The elements of w bits of a register, element 0 first. -/
def elemsOf (w : Nat) (v : VWord) : List Nat := (List.range (2048 / w)).map fun i => v.toNat / 2 ^ (w * i) % 2 ^ w

/-- Elements of w bits as a number, element 0 lowest. -/
def packElems (w : Nat) : List Nat → Nat
  | [] => 0
  | x :: xs => x % 2 ^ w + 2 ^ w * packElems w xs

/-- The mask in force: the top entry, or all ones. -/
def VeState.mask (v : VeState) : BitVec 256 := v.masks.headD (BitVec.allOnes 256)

/-- v[n], n below 31. -/
def VeState.reg (v : VeState) (n : BitVec 5) : VWord := if h : n.toNat < 31 then v.v[n.toNat] else 0

/-- v[n] := x, n below 31. -/
def VeState.setReg (v : VeState) (n : BitVec 5) (x : VWord) : VeState :=
  if h : n.toNat < 31 then { v with v := v.v.set n.toNat x h } else v

/-! ### The frame of a VE instruction (R185, R190 to R195) -/

/-- What an instruction reads at issue: the element type and rounding mode of VT, the mask in force, its sources. -/
structure VeIn where
  t : ElemType
  rnd : RoundMode
  mask : BitVec 256
  src : List VWord

/-- Bits of an element of T. -/
def VeIn.w (x : VeIn) : Nat := x.t.width

/-- Elements of a register in T. -/
def VeIn.n (x : VeIn) : Nat := 2048 / x.t.width

/-- Source i's elements in T. -/
def VeIn.el (x : VeIn) (i : Nat) : List Nat := elemsOf x.t.width (x.src.getD i 0)

/-- Whether element i is present under the mask. -/
def VeIn.on (x : VeIn) (i : Nat) : Bool := bit x.mask.toNat i

/-- What an instruction writes to one register: the elements, their width, and which of them it writes. -/
structure VeOut where
  w : Nat
  vals : List Nat
  on : Nat → Bool

/-- The result of a masked instruction (R194). -/
def VeIn.masked (x : VeIn) (vals : List Nat) : VeOut := ⟨x.w, vals, x.on⟩

/-- A result that writes every element. -/
def whole (w : Nat) (vals : List Nat) : VeOut := ⟨w, vals, fun _ => true⟩

/-- A register with the elements that are written replaced. -/
def VeOut.into (o : VeOut) (old : VWord) : VWord :=
  let xs := elemsOf o.w old
  BitVec.ofNat 2048 (packElems o.w ((List.range o.vals.length).map fun i => if o.on i then o.vals.getD i 0 else xs.getD i 0))

/-- The SQ entry that a result pushes: unwritten elements are 0 with their enables clear. -/
def VeOut.entry (o : VeOut) : SqEntry :=
  let n := o.vals.length
  ⟨BitVec.ofNat 2048 (packElems o.w ((List.range n).map fun i => if o.on i then o.vals.getD i 0 else 0)),
   BitVec.ofNat 256 (packElems (o.w / 8) ((List.range n).map fun i => if o.on i then 2 ^ (o.w / 8) - 1 else 0))⟩

/-- A result written to its register, or pushed to SQ. -/
def State.vwrite (s : State) (c : Nat) (d : BitVec 5) (o : VeOut) : State :=
  let k := s.core c
  if d = 31 then (s.setCore c { k with sq := k.sq ++ [o.entry] }).sbTake c
  else s.setCore c { k with ve := k.ve.setReg d (o.into (k.ve.reg d)) }

/-- The core of the executing VE stream. -/
def veCore (s : State) : M Nat :=
  match s.cur with
  | .eng .ve c => .ok c
  | _ => faultFree .illegal

/-- T of VT; ILLEGAL where it is reserved or not one that the instruction accepts (R190). -/
def veType (s : State) (accepts : ElemType → Bool) : M ElemType :=
  match elemTypeOf (dbits s.me.vt 3 0) with
  | none => faultFree .illegal
  | some t => if accepts t then .ok t else faultFree .illegal

/-- The types that the rows of R190 accept. -/
def anyType (_ : ElemType) : Bool := true
def intType (t : ElemType) : Bool := !t.isFloat
def floatType (t : ElemType) : Bool := t.isFloat

/-- The values of sources in field order, each v31 the next LQ entry. -/
def veSources (v : VeState) : List (BitVec 5) → List LqEntry → List VWord
  | [], _ => []
  | r :: rs, q => if r = 31 then ((q.head?.map (·.data)).getD 0) :: veSources v rs (q.drop 1) else v.reg r :: veSources v rs q

/-- ILLEGAL when a field breaks its rule. -/
def illegalIf (b : Bool) : M Unit := if b then faultFree .illegal else .ok ()

/-- A VE instruction: its type check and field checks; waits for filled LQ entries and room in SQ; UNCORRECTABLE for a
marked entry (R214); then the sources are popped and the effect follows. `ds` are the vector destinations. -/
def veCommand (s : State) (tk : BitVec 3) (accepts : ElemType → Bool) (check : ElemType → M Unit)
    (srcs ds : List (BitVec 5)) (effect : State → Nat → VeIn → M State) : Host.Outcome State Fault Refusal :=
  finish s <| command s tk .issue fun s _ => do
    let c ← veCore s
    let t ← veType s accepts
    check t
    let k := s.core c
    let need := (srcs.filter fun r => decide (r = 31)).length
    let j := s.me.job.getD 0
    waitUntil s (k.ready s.pkg c j need)
    waitUntil s (decide (k.sq.length + (ds.filter fun r => decide (r = 31)).length ≤ 16))
    match ((k.entriesOf j).take need).findSome? (·.marked) with
    | some va => faultAt .uncorrectable (dw va) 2 0
    | none =>
      let x : VeIn := ⟨t, dbits s.me.vt 5 4, k.ve.mask, veSources k.ve srcs (k.entriesOf j)⟩
      effect (s.setCore c { k with lq := popped j need k.lq }) c x

/-- No check beyond the type. -/
def noCheck (_ : ElemType) : M Unit := .ok ()

/-- An instruction that computes one result into vd. -/
def veOp (s : State) (tk : BitVec 3) (accepts : ElemType → Bool) (check : ElemType → M Unit) (d : BitVec 5)
    (srcs : List (BitVec 5)) (f : VeIn → VeOut) : Host.Outcome State Fault Refusal :=
  veCommand s tk accepts check srcs [d] fun s c x => .ok (s.vwrite c d (f x)).retire

/-- A masked instruction that computes element by element from its first two (or three) sources. -/
def VeIn.map2 (x : VeIn) (f : Nat → Nat → Nat) : VeOut := x.masked (((x.el 0).zip (x.el 1)).map fun p => f p.1 p.2)

def VeIn.map1 (x : VeIn) (f : Nat → Nat) : VeOut := x.masked ((x.el 0).map f)

def VeIn.map3 (x : VeIn) (f : Nat → Nat → Nat → Nat) : VeOut :=
  x.masked ((((x.el 0).zip (x.el 1)).zip (x.el 2)).map fun p => f p.1.1 p.1.2 p.2)

/-! ### Integer instructions (R196, R197) -/

/-- An element read signed, or unsigned. -/
def readInt (u : Bool) (w x : Nat) : Int := if u then (x % 2 ^ w : Nat) else sextInt x w

/-- The exact value as an element: modulo 2^w, or clamped to the type's range. -/
def writeInt (u sat : Bool) (w : Nat) (v : Int) : Nat :=
  if !sat then unsignedOf v w
  else if u then unsignedOf (if v < 0 then 0 else if (2 ^ w : Nat) ≤ v then (2 ^ w : Nat) - 1 else v) w
  else unsignedOf (clampInt w v) w

/-- A one-bit field. -/
def fl (b : BitVec 1) : Bool := decide (b = 1)

/-- VADD, VSUB, VMUL: an exact operation on a and b. -/
def VeIn.int2 (x : VeIn) (u sat : BitVec 1) (f : Int → Int → Int) : VeOut :=
  x.map2 fun a b => writeInt (fl u) (fl sat) x.w (f (readInt (fl u) x.w a) (readInt (fl u) x.w b))

def execVadd (tk : BitVec 3) (d a b : BitVec 5) (u sat : BitVec 1) (s : State) : Host.Outcome State Fault Refusal :=
  veOp s tk intType noCheck d [a, b] fun x => x.int2 u sat (· + ·)

def execVsub (tk : BitVec 3) (d a b : BitVec 5) (u sat : BitVec 1) (s : State) : Host.Outcome State Fault Refusal :=
  veOp s tk intType noCheck d [a, b] fun x => x.int2 u sat (· - ·)

/-- H with S is ILLEGAL. -/
def execVmul (tk : BitVec 3) (d a b : BitVec 5) (h u sat : BitVec 1) (s : State) : Host.Outcome State Fault Refusal :=
  veOp s tk intType (fun _ => illegalIf (fl h && fl sat)) d [a, b] fun x =>
    x.int2 u sat fun p q => if fl h then p * q / (2 ^ x.w : Nat) else p * q

/-- vd is read after va and vb (R71, R191). -/
def execVmad (tk : BitVec 3) (d a b : BitVec 5) (u sat : BitVec 1) (s : State) : Host.Outcome State Fault Refusal :=
  veOp s tk intType noCheck d [a, b, d] fun x =>
    let r := readInt (fl u) x.w
    x.map3 fun p q c => writeInt (fl u) (fl sat) x.w (r c + r p * r q)

def execVmin (tk : BitVec 3) (d a b : BitVec 5) (u : BitVec 1) (s : State) : Host.Outcome State Fault Refusal :=
  veOp s tk intType noCheck d [a, b] fun x => x.int2 u 0 min

def execVmax (tk : BitVec 3) (d a b : BitVec 5) (u : BitVec 1) (s : State) : Host.Outcome State Fault Refusal :=
  veOp s tk intType noCheck d [a, b] fun x => x.int2 u 0 max

def execVabs (tk : BitVec 3) (d a : BitVec 5) (sat : BitVec 1) (s : State) : Host.Outcome State Fault Refusal :=
  veOp s tk intType noCheck d [a] fun x => x.map1 fun p => writeInt false (fl sat) x.w (sextInt p x.w).natAbs

def execVand (tk : BitVec 3) (d a b : BitVec 5) (s : State) : Host.Outcome State Fault Refusal :=
  veOp s tk anyType noCheck d [a, b] fun x => x.map2 (· &&& ·)

def execVor (tk : BitVec 3) (d a b : BitVec 5) (s : State) : Host.Outcome State Fault Refusal :=
  veOp s tk anyType noCheck d [a, b] fun x => x.map2 (· ||| ·)

def execVxor (tk : BitVec 3) (d a b : BitVec 5) (s : State) : Host.Outcome State Fault Refusal :=
  veOp s tk anyType noCheck d [a, b] fun x => x.map2 (· ^^^ ·)

/-- R197: an immediate count at or above w is ILLEGAL; in the immediate form vb is not read. -/
def veShift (s : State) (tk : BitVec 3) (d a b : BitVec 5) (imm : BitVec 1) (n : BitVec 5) (f : Nat → Nat → Nat → Nat) :
    Host.Outcome State Fault Refusal :=
  veOp s tk intType (fun t => illegalIf (fl imm && decide (t.width ≤ n.toNat))) d (if fl imm then [a] else [a, b]) fun x =>
    if fl imm then x.map1 fun p => f x.w p n.toNat else x.map2 fun p q => f x.w p (q % x.w)

def execVshl (tk : BitVec 3) (d a b : BitVec 5) (i : BitVec 1) (n : BitVec 5) (s : State) :
    Host.Outcome State Fault Refusal :=
  veShift s tk d a b i n fun w p c => p * 2 ^ c % 2 ^ w

def execVshr (tk : BitVec 3) (d a b : BitVec 5) (i u : BitVec 1) (n : BitVec 5) (s : State) :
    Host.Outcome State Fault Refusal :=
  veShift s tk d a b i n fun w p c => unsignedOf (readInt (fl u) w p / (2 ^ c : Nat)) w

/-! ### Floating instructions (R198, R199) -/

def execVfadd (tk : BitVec 3) (d a b : BitVec 5) (s : State) : Host.Outcome State Fault Refusal :=
  veOp s tk floatType noCheck d [a, b] fun x => x.map2 (fadd x.t x.rnd)

def execVfsub (tk : BitVec 3) (d a b : BitVec 5) (s : State) : Host.Outcome State Fault Refusal :=
  veOp s tk floatType noCheck d [a, b] fun x => x.map2 (fsub x.t x.rnd)

def execVfmul (tk : BitVec 3) (d a b : BitVec 5) (s : State) : Host.Outcome State Fault Refusal :=
  veOp s tk floatType noCheck d [a, b] fun x => x.map2 (fmul x.t x.rnd)

def execVfma (tk : BitVec 3) (d a b : BitVec 5) (na n : BitVec 1) (s : State) : Host.Outcome State Fault Refusal :=
  veOp s tk floatType noCheck d [a, b, d] fun x => x.map3 (ffma x.t x.rnd (fl n) (fl na))

def execVfmax (tk : BitVec 3) (d a b : BitVec 5) (s : State) : Host.Outcome State Fault Refusal :=
  veOp s tk floatType noCheck d [a, b] fun x => x.map2 (pickFloat x.t true)

def execVfmin (tk : BitVec 3) (d a b : BitVec 5) (s : State) : Host.Outcome State Fault Refusal :=
  veOp s tk floatType noCheck d [a, b] fun x => x.map2 (pickFloat x.t false)

/-- R199. -/
def execVsfn (tk : BitVec 3) (d a : BitVec 5) (f : BitVec 4) (s : State) : Host.Outcome State Fault Refusal :=
  veOp s tk floatType (fun _ => illegalIf (decide (12 ≤ f.toNat))) d [a] fun x => x.map1 (sfn f.toNat x.t x.rnd)

/-! ### Conversion and quantisation (R200 to R202) -/

/-- Cvt of one element (R200). -/
def convert (src dst : ElemType) (rnd : RoundMode) (x : Nat) : Nat :=
  if dst.isFloat then dst.encode rnd (src.value x) else dst.encodeInt rnd (src.value x)

/-- The parts of a conversion between widths. -/
def cvtParts (ws w : Nat) : Nat := if w < ws then ws / w else w / ws

/-- R200. -/
def execVcvt (tk : BitVec 3) (d a : BitVec 5) (p : BitVec 2) (sc : BitVec 4) (s : State) :
    Host.Outcome State Fault Refusal :=
  veOp s tk anyType (fun t => match elemTypeOf sc.toNat with
      | none => faultFree .illegal
      | some src => illegalIf (decide (cvtParts src.width t.width ≤ p.toNat))) d [a] fun x =>
    let src := (elemTypeOf sc.toNat).getD .i8
    let es := elemsOf src.width (x.src.getD 0 0)
    let ns := 2048 / src.width
    x.masked ((List.range x.n).map fun i =>
      if x.w < src.width then
        (if i / ns = p.toNat then convert src x.t x.rnd (es.getD (i - p.toNat * ns) 0) else 0)
      else convert src x.t x.rnd (es.getD (p.toNat * x.n + i) 0))

/-- A value's magnitude for the choice of a scale; none for an infinity or a NaN. -/
def Value.mag : Value → Option (Nat × Int)
  | .fin _ m e => some (m, e)
  | _ => none

/-- The code that a block's largest magnitude needs, and whether none suffices (R201). -/
def blockCode (xs : List Value) : Nat × Bool :=
  match xs.mapM Value.mag with
  | none => (0x3FB, true)
  | some ms =>
    let m := ms.foldl maxMag (0, 0)
    s10For 127 m.1 m.2

/-- Q(x, c), and whether it sets SAT (R201). -/
def quantise (c : Nat) : Value → Int × Bool
  | .nan => (0, true)
  | .inf neg => (if neg then -127 else 127, true)
  | .fin neg m e => clamp127 (quotientRne neg m e c)

/-- VQNT's shape: blocks of a register, and the elements of block b. -/
def VeIn.blocks (x : VeIn) : Nat := x.n / 32

def VeIn.block (x : VeIn) (b : Nat) : List Value := ((x.el 0).drop (32 * b) |>.take 32).map x.t.value

/-- The first scale word of those read that is not a code, or that may not be applied (R23, R25): FORMAT or SCALE_INVALID,
EINFO the 16-bit element's index. -/
def checkScales (apply : Bool) (hs : List Nat) (idxs : List Nat) : M Unit :=
  match idxs with
  | [] => .ok ()
  | i :: rest =>
    let w := hs.getD i 0
    if 1024 ≤ w then faultAt .format (dw i) 4 0
    else if apply && decide (s10Exp w = 255) then faultAt .scaleInvalid (dw i) 4 0
    else checkScales apply hs rest

/-- An INT8 output of VQNT: block b's elements under its code at part p, all others 0; whether SAT is set. -/
def VeIn.quants (x : VeIn) (p : Nat) (code : Nat → Nat) : VeOut × Bool :=
  let qs := (List.range x.blocks).flatMap fun b => (x.block b).map (quantise (code b))
  (whole 8 ((List.range 256).map fun j =>
    if p * x.n ≤ j ∧ j < p * x.n + x.n then unsignedOf (qs.getD (j - p * x.n) (0, false)).1 8 else 0), qs.any (·.2))

/-- SAT set where a quantisation saturated. -/
def State.stickSat (s : State) (b : Bool) : State := s.setMe (s.me.stick false b)

/-- R201. DESIGN CHOICE (log entry 68): in mode choose with vd and vb the same register the scales are written after the data, over it; in mode
smax only the scale words that are combined, not those that are only copied, count as read for the FORMAT check. -/
def execVqnt (tk : BitVec 3) (d a b : BitVec 5) (m p : BitVec 2) (s : State) : Host.Outcome State Fault Refusal :=
  let check := fun (t : ElemType) => illegalIf (decide (m = 3) || decide (8 / (2048 / t.width / 32) ≤ p.toNat))
  let srcs := if m = 0 then [a] else [a, b]
  veCommand s tk floatType check srcs (if m = 0 then [d, b] else [d]) fun s c x => do
    let nb := x.blocks
    let hs := elemsOf 16 (x.src.getD 1 0)
    let mine := fun (j : Nat) => decide (p.toNat * nb ≤ j) && decide (j < p.toNat * nb + nb)
    let codes := (List.range nb).map fun b => blockCode (x.block b)
    let sat := codes.any (·.2)
    if m = 0 then
      let (o, q) := x.quants p.toNat fun b => (codes.getD b (0, false)).1
      let scales := whole 16 ((List.range 128).map fun j => if mine j then (codes.getD (j - p.toNat * nb) (0, false)).1 else 0)
      .ok (((s.vwrite c d o).vwrite c b scales).stickSat (sat || q)).retire
    else
      checkScales (decide (m = 2)) hs ((List.range nb).map (p.toNat * nb + ·))
      if m = 1 then
        let o := whole 16 ((List.range 128).map fun j =>
          if mine j then max (codes.getD (j - p.toNat * nb) (0, false)).1 (hs.getD j 0) else hs.getD j 0)
        .ok ((s.vwrite c d o).stickSat sat).retire
      else
        let (o, q) := x.quants p.toNat fun b => hs.getD (p.toNat * nb + b) 0
        .ok ((s.vwrite c d o).stickSat q).retire

/-- R202. -/
def execVdq (tk : BitVec 3) (d a b : BitVec 5) (p : BitVec 2) (s : State) : Host.Outcome State Fault Refusal :=
  veCommand s tk floatType (fun t => illegalIf (decide (256 / (2048 / t.width) ≤ p.toNat))) [a, b] [d] fun s c x => do
    let bytes := elemsOf 8 (x.src.getD 0 0)
    let hs := elemsOf 16 (x.src.getD 1 0)
    let at_ := fun (i : Nat) => p.toNat * x.n + i
    checkScales true hs ((List.range x.n).map fun i => at_ i / 32).eraseDups
    let o := x.masked ((List.range x.n).map fun i =>
      let v := sextInt (bytes.getD (at_ i) 0) 8
      let k := hs.getD (at_ i / 32) 0
      (x.t.round x.rnd (decide (v < 0)) (v.natAbs * s10Sig k) ((s10Exp k : Int) - 129)).1)
    .ok (s.vwrite c d o).retire

/-! ### Compare, select, shuffle (R203, R204) -/

/-- An integer condition. -/
def cmpInt (c : Nat) (a b : Int) : Bool :=
  match c with
  | 0 => decide (a = b)
  | 1 => decide (a ≠ b)
  | 2 => decide (a < b)
  | 3 => decide (a ≤ b)
  | 4 => decide (b < a)
  | _ => decide (b ≤ a)

/-- A floating condition: NE and UN hold with a NaN, the others do not. -/
def cmpFloat (c : Nat) (a b : Value) : Bool :=
  if a = .nan ∨ b = .nan then decide (c = 1 ∨ c = 6)
  else
    let lt := ltValue a b
    let gt := ltValue b a
    match c with
    | 0 => !lt && !gt
    | 1 => lt || gt
    | 2 => lt
    | 3 => !gt
    | 4 => gt
    | 5 => !lt
    | _ => false

/-- R203. -/
def execVcmp (tk : BitVec 3) (d a b : BitVec 5) (u : BitVec 1) (c : BitVec 3) (s : State) :
    Host.Outcome State Fault Refusal :=
  veOp s tk anyType (fun t => illegalIf (decide (c = 7) || (!t.isFloat && decide (c = 6)) || (t.isFloat && fl u))) d [a, b]
    fun x => x.map2 fun p q =>
      let r := if x.t.isFloat then cmpFloat c.toNat (x.t.value p) (x.t.value q)
        else cmpInt c.toNat (readInt (fl u) x.w p) (readInt (fl u) x.w q)
      if r then 2 ^ x.w - 1 else 0

/-- R204: the mask selects; every element is written. -/
def execVsel (tk : BitVec 3) (d a b : BitVec 5) (s : State) : Host.Outcome State Fault Refusal :=
  veOp s tk anyType noCheck d [a, b] fun x =>
    whole x.w ((List.range x.n).map fun i => if x.on i then (x.el 0).getD i 0 else (x.el 1).getD i 0)

/-- R204. -/
def execVshuf (tk : BitVec 3) (d a b : BitVec 5) (z : BitVec 1) (s : State) : Host.Outcome State Fault Refusal :=
  veOp s tk anyType noCheck d [a, b] fun x =>
    x.masked ((x.el 1).map fun i => if x.n ≤ i && fl z then 0 else (x.el 0).getD (i % x.n) 0)

/-! ### Reductions and scans (R54, R205, R206) -/

/-- Two operands of a node, of which either may be absent. -/
def node (f : Nat → Nat → Nat) : Option Nat → Option Nat → Option Nat
  | none, b => b
  | a, none => a
  | some a, some b => some (f a b)

/-- One level of the tree: adjacent operands joined. -/
def level (f : Nat → Nat → Nat) : List (Option Nat) → List (Option Nat)
  | a :: b :: xs => node f a b :: level f xs
  | xs => xs

/-- The tree of R54, k levels. -/
def tree (f : Nat → Nat → Nat) : Nat → List (Option Nat) → Option Nat
  | 0, xs => xs.headD none
  | k + 1, xs => tree f k (level f xs)

/-- An operation of VRED on two elements. -/
def vredOp (t : ElemType) (rnd : RoundMode) (op : Nat) (a b : Nat) : Nat :=
  let w := t.width
  let pick := fun (u : Bool) (f : Int → Int → Int) => unsignedOf (f (readInt u w a) (readInt u w b)) w
  if t.isFloat then (if op = 0 then fadd t rnd a b else pickFloat t (decide (op = 2)) a b)
  else match op with
    | 0 => (a + b) % 2 ^ w
    | 1 => pick false min
    | 2 => pick false max
    | 3 => a &&& b
    | 4 => a ||| b
    | 5 => a ^^^ b
    | 6 => pick true min
    | _ => pick true max

/-- R205: the result in element 0, +0 elsewhere. -/
def execVred (tk : BitVec 3) (d a : BitVec 5) (o : BitVec 3) (s : State) : Host.Outcome State Fault Refusal :=
  veOp s tk anyType (fun t => illegalIf (t.isFloat && decide (2 < o.toNat))) d [a] fun x =>
    let es := (List.range x.n).map fun i => if x.on i then some ((x.el 0).getD i 0) else none
    let r := (tree (vredOp x.t x.rnd o.toNat) 8 es).getD 0
    whole x.w (r :: List.replicate (x.n - 1) 0)

/-- The running sum of a scan over (element, present). -/
def scan (add : Nat → Nat → Nat) (excl : Bool) : Nat → List (Nat × Bool) → List Nat
  | _, [] => []
  | s, (v, on) :: xs =>
    let s' := if on then add s v else s
    (if excl then s else s') :: scan add excl s' xs

/-- R206. -/
def execVscan (tk : BitVec 3) (d a : BitVec 5) (e : BitVec 1) (s : State) : Host.Outcome State Fault Refusal :=
  veOp s tk anyType noCheck d [a] fun x =>
    x.masked (scan (vredOp x.t x.rnd 0) (fl e) 0 ((List.range x.n).map fun i => ((x.el 0).getD i 0, x.on i)))

/-! ### The mask stack (R207, R208) -/

/-- The stack of a core's VE replaced. -/
def State.setMasks (s : State) (c : Nat) (ms : List (BitVec 256)) : State :=
  let k := s.core c
  s.setCore c { k with ve := { k.ve with masks := ms } }

/-- MASK_STACK when the stack is full, or empty; before any pop of va. -/
def maskStack (s : State) (bad : List (BitVec 256) → Bool) : M Unit := do
  let c ← veCore s
  if bad (s.core c).ve.masks then faultFree .maskStack else .ok ()

/-- R207. -/
def execVmpush (tk : BitVec 3) (a : BitVec 5) (s : State) : Host.Outcome State Fault Refusal :=
  veCommand s tk anyType (fun _ => maskStack s fun ms => decide (16 ≤ ms.length)) [a] [] fun s c x =>
    let m := (List.range x.n).filter fun i => x.on i && decide ((x.el 0).getD i 0 ≠ 0)
    .ok (s.setMasks c (BitVec.ofNat 256 (m.foldl (fun n i => n + 2 ^ i) 0) :: (s.core c).ve.masks)).retire

/-- R207: the top against the mask below it. -/
def execVminv (tk : BitVec 3) (s : State) : Host.Outcome State Fault Refusal :=
  veCommand s tk anyType (fun _ => maskStack s List.isEmpty) [] [] fun s c _ =>
    match (s.core c).ve.masks with
    | [] => .ok s.retire
    | top :: ms => .ok (s.setMasks c ((ms.headD (BitVec.allOnes 256) &&& ~~~top) :: ms)).retire

/-- R207. -/
def execVmpop (tk : BitVec 3) (s : State) : Host.Outcome State Fault Refusal :=
  veCommand s tk anyType (fun _ => maskStack s List.isEmpty) [] [] fun s c _ =>
    .ok (s.setMasks c ((s.core c).ve.masks.drop 1)).retire

/-- R208: a taken one makes no end check (R101). -/
def execVbmz (tk : BitVec 3) (o : BitVec 22) (s : State) : Host.Outcome State Fault Refusal :=
  veCommand s tk anyType noCheck [] [] fun s c x =>
    let clear := (List.range x.n).all fun i => !x.on i
    .ok (if !(s.core c).ve.masks.isEmpty && clear then s.jump (s.me.target o.toInt) else s.retire)

/-! ### Moving single values (R209 to R211) -/

/-- The element that VIMM writes at a place (R209). DESIGN CHOICE (log entry 68): where the type is FP32 and the immediate is the
pattern of a BF16 NaN, R34's canonical NaN is not put in its place: the 16 bits stand in the upper half as written. -/
def immElem (t : ElemType) (v i : Nat) : Nat :=
  match t with
  | .i8 => v % 256
  | .i32 => unsignedOf (sextInt v 16) 32
  | .e4m3 => if i % 2 = 0 then v % 256 else v / 256
  | .e5m2 => if i % 2 = 0 then v % 256 else v / 256
  | .fp32 => v * 2 ^ 16
  | _ => v

/-- R209. -/
def execVimm (tk : BitVec 3) (d : BitVec 5) (i : BitVec 16) (s : State) : Host.Outcome State Fault Refusal :=
  veOp s tk anyType (fun t => illegalIf (decide (t = .i8) && decide (256 ≤ i.toNat))) d [] fun x =>
    x.masked ((List.range x.n).map (immElem x.t i.toNat))

/-- R210. -/
def execVget (tk : BitVec 3) (d a b : BitVec 5) (sg : BitVec 1) (s : State) : Host.Outcome State Fault Refusal :=
  veCommand s tk anyType (fun t => illegalIf (fl sg && t.isFloat)) [a] [] fun s _ x =>
    let v := (x.el 0).getD ((s.rg b).toNat % x.n) 0
    .ok (s.wg d (if fl sg then dwi (sextInt v x.w) else dw v)).retire

/-- R210: into v31 every element is enabled, and element x keeps its popped value where its mask bit is clear. -/
def execVput (tk : BitVec 3) (d a b : BitVec 5) (s : State) : Host.Outcome State Fault Refusal :=
  veCommand s tk anyType noCheck [d] [d] fun s c x =>
    let i := (s.rg b).toNat % x.n
    let es := x.el 0
    .ok (s.vwrite c d (whole x.w (if x.on i then es.set i ((s.rg a).toNat % 2 ^ x.w) else es))).retire

/-- R211: a reserved TYPE is ILLEGAL and leaves VT unchanged. -/
def execVcfg (tk : BitVec 3) (c : BitVec 1) (r : BitVec 2) (t : BitVec 4) (s : State) :
    Host.Outcome State Fault Refusal :=
  finish s <| command s tk .issue fun s _ => do
    let k ← veCore s
    if 8 ≤ t.toNat then faultFree .illegal
    let s := s.setMe { s.me with vt := dw (r.toNat * 16 + t.toNat) }
    .ok (if fl c then s.setMasks k [] else s).retire

end Sys2Proof.Machine
end

