-- ==== Sys2Proof/Machine/Vl.lean ====
section
/-!
DEFINITION. The vector access engine (spec/06_vector_engines.md R212 to R221): loads and gathers into LQ, stores and scatters
through SB, VLDT, VQSYNC.
-/

namespace Sys2Proof.Machine

/-! ### Elements (R213, R217) -/

/-- An element that a command reaches: its offset, its bytes, its first byte in the queue entry. -/
structure VlElem where
  off : Nat
  n : Nat
  at_ : Nat

/-- The 256 bytes of VLD and VST. -/
def contiguous (s : State) (a : BitVec 5) (o : BitVec 13) : List VlElem := [⟨(s.rg a + dw (32 * o.toNat)).toNat, 256, 0⟩]

/-- The elements of VLDH and VSTH. -/
def strided (s : State) (a b : BitVec 5) (es : Nat) (c : BitVec 6) : List VlElem :=
  (List.range (c.toNat + 1)).map fun i => ⟨(s.rg a + dw i * s.rg b).toNat, es, es * i⟩

/-- The active elements of VGTH and VSCT. -/
def gathered (s : State) (a : BitVec 5) (es : Nat) (q : SqEntry) : List VlElem :=
  ((List.range 64).filter fun i => bit q.en.toNat (4 * i)).map fun i =>
    ⟨(s.rg a + dw (q.data.toNat / 2 ^ (32 * i) % 2 ^ 32)).toNat, es, 4 * i⟩

/-- The bytes of an element size code; ILLEGAL for 3. -/
def elemBytes (e : BitVec 2) : M Nat := if e = 3 then faultFree .illegal else .ok (2 ^ e.toNat)

/-- A checked command: its page and root where it reaches any byte, and its bytes as (entry byte, address, VA). -/
structure VlAccess where
  page : Option (Nat × Page) := none
  src : List (Nat × Nat × Nat) := []

/-- Every element checked, in order (R213). -/
def vlCheck (s : State) (h : BitVec 4) (al : Nat) (write : Bool) : List VlElem → M VlAccess
  | [] => .ok {}
  | x :: xs => do
    let (hd, p) ← handleTo s h x.off x.n al write
    faultIf (write && decide (p.ltype ≠ 0)) .latticeType (dw (p.va + x.off))
    let pas ← p.addrs (siteOf s.cur) x.off x.n
    let r ← vlCheck s h al write xs
    .ok { page := some (hd.root, p),
          src := (List.range x.n).map (fun i => (x.at_ + i, pas.getD i 0, p.va + x.off + i)) ++ r.src }

/-- The VA that a whole command's fault names: its lowest element's. -/
def VlAccess.va (x : VlAccess) : DWord := dw ((x.src.map (·.2.2)).headD 0)

def VlAccess.pas (x : VlAccess) : List Nat := x.src.map (·.2.1)

/-- Some bytes lie in a scratchpad that is not the core's own. -/
def VlAccess.foreign (x : VlAccess) (pkg c : Nat) : Bool :=
  x.pas.any fun pa => decide (kindOf pa = 2) && !ownScratch pkg c pa

/-- The homes answer: REMOTE_GATED (R411), waits (R288, R300); `now` for an access that is made as its command issues. -/
def VlAccess.go (x : VlAccess) (s : State) (c : Nat) (now : Bool) : M Unit :=
  match s.gatedCore s.cur x.pas with
  | some g => .error (.trap ⟨.remoteGated, some x.va, .std 1 0, .ungate g⟩)
  | none => waitUntil s (!s.vlWaits c x.pas (some (hashOf x.page)) && !(now && (s.core c).vlHolds s.pkg c x.pas))

/-- The core of the executing VL stream. -/
def vlCore (s : State) : M Nat :=
  match s.cur with
  | .eng .vl c => .ok c
  | _ => faultFree .illegal

/-- A VL load command: one whose entries are all filled as it issues finishes at once (R213, R215). -/
def loadCommand (s : State) (tk : BitVec 3) (body : State → Nat → Queued → M State) : Host.Outcome State Fault Refusal :=
  finish s do
    let t ← command s tk .finish fun s q => do
      let c ← vlCore s
      body s c q
    let c ← vlCore s
    let new := (t.core c).lq.drop (s.core c).lq.length
    match new.find? (·.finishes) with
    | some e =>
      if new.all (·.filled) then
        .ok ((t.setCore c { t.core c with lq := (t.core c).lq.map fun x => { x with finishes := x.finishes && !x.filled } }).loadFinished
          c e)
      else .ok t
    | none => .ok t

/-- Entries reserved in LQ. -/
def State.reserveLq (s : State) (c : Nat) (es : List LqEntry) : State :=
  s.setCore c { s.core c with lq := (s.core c).lq ++ es }

/-- The LQ entry of a checked load; a frame in another core's scratchpad is read before VL goes on (R215). -/
def loadEntry (s : State) (c : Nat) (q : Queued) (x : VlAccess) (es : Nat) : State :=
  let (n, s) := s.nextSeq
  let e : LqEntry := ⟨n, s.me.job.getD 0, x.src.isEmpty, 0, none, x.src, es, none, x.page, q.pushes, q.tag, true⟩
  let s := s.reserveLq c [e]
  if x.foreign s.pkg c then s.fillEntry c ((s.core c).lq.length - 1) e else s

/-- Room for n LQ entries. -/
def roomLq (s : State) (c n : Nat) : M Unit := waitUntil s (decide ((s.core c).lq.length + n ≤ 16))

/-- A load of elements known at issue. -/
def load (s : State) (tk : BitVec 3) (h : BitVec 4) (al : State → M Nat) (elems : State → Nat → List VlElem) :
    Host.Outcome State Fault Refusal :=
  loadCommand s tk fun s c q => do
    let n ← al s
    roomLq s c 1
    let x ← vlCheck s h n false (elems s n)
    x.go s c (x.foreign s.pkg c)
    .ok (loadEntry s c q x n).retire

/-! ### VLD, VLDH, VGTH (R213) -/

def execVld (tk : BitVec 3) (h : BitVec 4) (a : BitVec 5) (o : BitVec 13) (s : State) :
    Host.Outcome State Fault Refusal :=
  load s tk h (fun _ => .ok 4) fun s _ => contiguous s a o

def execVldh (tk : BitVec 3) (h : BitVec 4) (a b : BitVec 5) (e : BitVec 2) (c : BitVec 6) (s : State) :
    Host.Outcome State Fault Refusal :=
  load s tk h (fun _ => elemBytes e) fun s n => strided s a b n c

/-- The index entry that a command takes; VL waits for it. -/
def takeIndex (s : State) (c : Nat) : M (SqEntry × State) :=
  match (s.core c).indexEntry with
  | none => .error (.wait s)
  | some q => .ok (q, s.setCore c { s.core c with sq := (s.core c).sq.drop 1 })

def execVgth (tk : BitVec 3) (h : BitVec 4) (a : BitVec 5) (e : BitVec 2) (s : State) :
    Host.Outcome State Fault Refusal :=
  loadCommand s tk fun s c q => do
    let n ← elemBytes e
    roomLq s c 1
    let (ix, t) ← takeIndex s c
    let x ← vlCheck s h n false (gathered s a n ix)
    x.go s c (x.foreign s.pkg c)
    .ok (loadEntry t c q x n).retire

/-! ### VLDT (R216) -/

/-- R216: the header, the TBL and the scale word are read before VL goes on; the stream when the entry is filled. -/
def execVldt (tk : BitVec 3) (h : BitVec 4) (a b : BitVec 5) (scale : BitVec 1) (s : State) :
    Host.Outcome State Fault Refusal :=
  loadCommand s tk fun s c q => do
    let v := s.rg b
    faultIf (dbits v 63 48 ≠ 0) .format v
    roomLq s c (1 + scale.toNat)
    let o := (s.rg a).toNat
    let (hd, p) ← handleTo s h o 64 64 false
    let read := fun (s : State) (off n : Nat) => do
      let pas ← p.addrs (siteOf s.cur) off n
      VlAccess.go { page := some (hd.root, p), src := pas.map fun pa => (0, pa, p.va + off) } s c true
      readPlain s (some p) pas fun _ => dw (p.va + off)
    let (s, hb) ← read s o 64
    match tcwHeader (wordsOf hb 16) with
    | .error f => faultAt .format (dw (p.va + o)) 4 f
    | .ok x =>
      let kb := dbits v 23 0
      let n := dbits v 47 24
      faultIf (decide (x.rows ≤ kb) || decide (x.n ≤ n)) .format v
      let ob := o + x.blockAt n kb
      faultIf (decide (2 ^ p.bits < ob + x.mode.bytes)) .handleBound (dw (p.va + ob))
      let (s, tbl) ← if x.table then (do
        let (s, t) ← read s (o + 64) 256
        .ok (s, some t)) else .ok (s, none)
      let (s, sb) ← read s ob 4
      if bits (leNat sb) 31 20 ≠ 0 then faultAt .format (dw (p.va + ob)) 4 0
      let m := x.mode.bytes - 4
      let pas ← p.addrs (siteOf s.cur) (ob + 4) m
      let y : VlAccess := { page := some (hd.root, p), src := (List.range m).map fun i => (i, pas.getD i 0, p.va + ob + 4 + i) }
      y.go s c (y.foreign s.pkg c)
      let (sq, s) := s.nextSeq
      let e : LqEntry := ⟨sq, s.me.job.getD 0, false, 0, none, y.src, 1, some (bits (leNat hb) 7 0, tbl, min 256 (x.k - 256 * kb)), y.page,
        q.pushes, q.tag, true⟩
      let f : LqEntry := { e with filled := true, data := vecOf sb, src := [], decode := none, finishes := false }
      let s := s.reserveLq c (if scale = 1 then [e, f] else [e])
      let s := if y.foreign s.pkg c then s.fillEntry c ((s.core c).lq.length - 1 - scale.toNat) e else s
      .ok s.retire

/-! ### VST, VSTH, VSCT (R217) -/

/-- A store command of elements of es bytes enters SB; one to another core's scratchpad waits for its data and the home's acceptance
first. -/
def storeEntry (s : State) (c : Nat) (q : Queued) (x : VlAccess) (es : Nat) (en : BitVec 256) : M State := do
  waitUntil s (!x.foreign s.pkg c || (s.core c).indexEntry.isSome)
  let (n, s) := s.nextSeq
  let low := (minBy id (x.src.map (·.2.2))).getD 0
  let e : SbEntry := ⟨n, s.me.job.getD 0, x.src.map fun d => (d.1, d.2.1), es, none,
    ownRanges s.pkg c (x.src.map fun d => .mem d.2.1), low, en, none, (x.page.map (·.2.scope)).getD 0,
    (x.page.map (·.2.key)).getD 0, (x.page.map (·.1)).getD 0, s.me.cmdIndex, false, hashOf x.page, q.pushes, q.tag⟩
  .ok (((s.setCore c { s.core c with sb := (s.core c).sb ++ [e] }).sbTake c).retire)

/-- The frame of a VL store command: it waits while SB is full (R184). -/
def storeCommand (s : State) (tk : BitVec 3) (body : State → Nat → Queued → M State) : Host.Outcome State Fault Refusal :=
  finish s <| command s tk .finish fun s q => do
    let c ← vlCore s
    body s c q

/-- Room for one SB entry. -/
def roomSb (s : State) (c : Nat) : M Unit := waitUntil s (decide ((s.core c).sb.length < 16))

def execVst (tk : BitVec 3) (h : BitVec 4) (a : BitVec 5) (o : BitVec 13) (s : State) :
    Host.Outcome State Fault Refusal :=
  storeCommand s tk fun s c q => do
    roomSb s c
    let x ← vlCheck s h 4 true (contiguous s a o)
    x.go s c false
    storeEntry s c q x 1 0

def execVsth (tk : BitVec 3) (h : BitVec 4) (a b : BitVec 5) (e : BitVec 2) (c : BitVec 6) (s : State) :
    Host.Outcome State Fault Refusal :=
  storeCommand s tk fun s k q => do
    let n ← elemBytes e
    roomSb s k
    let x ← vlCheck s h n true (strided s a b n c)
    x.go s k false
    storeEntry s k q x n 0

def execVsct (tk : BitVec 3) (h : BitVec 4) (a : BitVec 5) (e : BitVec 2) (s : State) :
    Host.Outcome State Fault Refusal :=
  storeCommand s tk fun s c q => do
    let n ← elemBytes e
    roomSb s c
    let (ix, t) ← takeIndex s c
    let x ← vlCheck s h n true (gathered s a n ix)
    x.go s c false
    storeEntry t c q x n ix.en

/-! ### VQSYNC (R219) -/

/-- R219: its preset pops, it waits for every earlier command of VL, then pushes. -/
def execVqsync (tk : BitVec 3) (s : State) : Host.Outcome State Fault Refusal :=
  finish s <| command s tk .issue (early := true) fun s _ => do
    let c ← vlCore s
    if (s.core c).lq.all (·.filled) && (s.core c).sb.isEmpty then .ok s.retire else .error (.goOn s)

end Sys2Proof.Machine
end

