-- ==== Sys2Proof/Machine/Dispatch.lean ====
section
/-!
DEFINITION. What each instruction does: one arm per row of spec/opcode_table.json, each one direct call of its meaning.
-/

namespace Sys2Proof.Machine

/-- The effect of an instruction, executed by the unit `cur` of the state (or by the unit of the package whose event it is). -/
def exec (i : Instr) (s : State) : Host.Outcome State Fault Refusal :=
  match i with
  | .add d a b => Sys2Proof.Machine.execAdd d a b s
  | .sub d a b => Sys2Proof.Machine.execSub d a b s
  | .mul d a b => Sys2Proof.Machine.execMul d a b s
  | .mulh d a b => Sys2Proof.Machine.execMulh d a b s
  | .mulhu d a b => Sys2Proof.Machine.execMulhu d a b s
  | .div d a b => Sys2Proof.Machine.execDiv d a b s
  | .divu d a b => Sys2Proof.Machine.execDivu d a b s
  | .rem d a b => Sys2Proof.Machine.execRem d a b s
  | .remu d a b => Sys2Proof.Machine.execRemu d a b s
  | .and d a b => Sys2Proof.Machine.execAnd d a b s
  | .or d a b => Sys2Proof.Machine.execOr d a b s
  | .xor d a b => Sys2Proof.Machine.execXor d a b s
  | .andn d a b => Sys2Proof.Machine.execAndn d a b s
  | .shl d a b => Sys2Proof.Machine.execShl d a b s
  | .shr d a b => Sys2Proof.Machine.execShr d a b s
  | .sra d a b => Sys2Proof.Machine.execSra d a b s
  | .rol d a b => Sys2Proof.Machine.execRol d a b s
  | .slt d a b => Sys2Proof.Machine.execSlt d a b s
  | .sltu d a b => Sys2Proof.Machine.execSltu d a b s
  | .seq d a b => Sys2Proof.Machine.execSeq d a b s
  | .min d a b => Sys2Proof.Machine.execMin d a b s
  | .max d a b => Sys2Proof.Machine.execMax d a b s
  | .minu d a b => Sys2Proof.Machine.execMinu d a b s
  | .maxu d a b => Sys2Proof.Machine.execMaxu d a b s
  | .clz d a => Sys2Proof.Machine.execClz d a s
  | .popc d a => Sys2Proof.Machine.execPopc d a s
  | .idx d a b sb => Sys2Proof.Machine.execIdx d a b sb s
  | .extu d a b w => Sys2Proof.Machine.execExtu d a b w s
  | .sext d a n => Sys2Proof.Machine.execSext d a n s
  | .cmovnz d a b => Sys2Proof.Machine.execCmovnz d a b s
  | .addi d a im => Sys2Proof.Machine.execAddi d a im s
  | .andi d a im => Sys2Proof.Machine.execAndi d a im s
  | .ori d a im => Sys2Proof.Machine.execOri d a im s
  | .xori d a im => Sys2Proof.Machine.execXori d a im s
  | .shli d a n => Sys2Proof.Machine.execShli d a n s
  | .shri d a n => Sys2Proof.Machine.execShri d a n s
  | .srai d a n => Sys2Proof.Machine.execSrai d a n s
  | .slti d a im => Sys2Proof.Machine.execSlti d a im s
  | .sltiu d a im => Sys2Proof.Machine.execSltiu d a im s
  | .muli d a im => Sys2Proof.Machine.execMuli d a im s
  | .li d im => Sys2Proof.Machine.execLi d im s
  | .lui d im => Sys2Proof.Machine.execLui d im s
  | .auipc d im => Sys2Proof.Machine.execAuipc d im s
  | .beq a b o => Sys2Proof.Machine.execBeq a b o s
  | .bne a b o => Sys2Proof.Machine.execBne a b o s
  | .blt a b o => Sys2Proof.Machine.execBlt a b o s
  | .bge a b o => Sys2Proof.Machine.execBge a b o s
  | .bltu a b o => Sys2Proof.Machine.execBltu a b o s
  | .bgeu a b o => Sys2Proof.Machine.execBgeu a b o s
  | .j o => Sys2Proof.Machine.execJ o s
  | .call o => Sys2Proof.Machine.execCall o s
  | .jr d a => Sys2Proof.Machine.execJr d a s
  | .loop l a e => Sys2Proof.Machine.execLoop l a e s
  | .loopi l c e => Sys2Proof.Machine.execLoopi l c e s
  | .leave l sb m => Sys2Proof.Machine.execLeave l sb m s
  | .tkwait d c e => Sys2Proof.Machine.execTkwait d c e s
  | .tksig c e => Sys2Proof.Machine.execTksig c e s
  | .rdv n => Sys2Proof.Machine.execRdv n s
  | .gfence n => Sys2Proof.Machine.execGfence n s
  | .swpt n => Sys2Proof.Machine.execSwpt n s
  | .ppoint m => Sys2Proof.Machine.execPpoint m s
  | .trap c => Sys2Proof.Machine.execTrap c s
  | .eret => Sys2Proof.Machine.execEret s
  | .mfs d im => Sys2Proof.Machine.execMfs d im s
  | .mts a im => Sys2Proof.Machine.execMts a im s
  | .cyc d => Sys2Proof.Machine.execCyc d s
  | .halt => Sys2Proof.Machine.execHalt s
  | .nop => Sys2Proof.Machine.execNop s
  | .trans h a => Sys2Proof.Machine.execTrans h a s
  | .hrel h => Sys2Proof.Machine.execHrel h s
  | .hchk d h => Sys2Proof.Machine.execHchk d h s
  | .ld d h a z o => Sys2Proof.Machine.execLd d h a z o s
  | .st sb h a z o => Sys2Proof.Machine.execSt sb h a z o s
  | .lda d h a z o => Sys2Proof.Machine.execLda d h a z o s
  | .stl sb h a z o => Sys2Proof.Machine.execStl sb h a z o s
  | .ldro d h a z o => Sys2Proof.Machine.execLdro d h a z o s
  | .ldlk d h a z o => Sys2Proof.Machine.execLdlk d h a z o s
  | .lockGrant core bank bit => Sys2Proof.Machine.execLockGrant core bank bit s
  | .stul sb h a z o => Sys2Proof.Machine.execStul sb h a z o s
  | .amo d h a b p z => Sys2Proof.Machine.execAmo d h a b p z s
  | .lookup d a => Sys2Proof.Machine.execLookup d a s
  | .tagset a b => Sys2Proof.Machine.execTagset a b s
  | .tagclr a => Sys2Proof.Machine.execTagclr a s
  | .drain p => Sys2Proof.Machine.execDrain p s
  | .fence h p => Sys2Proof.Machine.execFence h p s
  | .ljoin h a b z => Sys2Proof.Machine.execLjoin h a b z s
  | .lwait d h a b z => Sys2Proof.Machine.execLwait d h a b z s
  | .lwaitTimeout u => Sys2Proof.Machine.execLwaitTimeout u s
  | .winfo d f => Sys2Proof.Machine.execWinfo d f s
  | .trd d h a b => Sys2Proof.Machine.execTrd d h a b s
  | .mma tk a b c sb f => Sys2Proof.Machine.execMma tk a b c sb f s
  | .mmas tk a b c sb f => Sys2Proof.Machine.execMmas tk a b c sb f s
  | .mzero tk c sb m => Sys2Proof.Machine.execMzero tk c sb m s
  | .mpi tk a t u => Sys2Proof.Machine.execMpi tk a t u s
  | .mrnd tk t c sb r => Sys2Proof.Machine.execMrnd tk t c sb r s
  | .mnorm tk c sb => Sys2Proof.Machine.execMnorm tk c sb s
  | .msave tk a c sb => Sys2Proof.Machine.execMsave tk a c sb s
  | .mload tk a c sb => Sys2Proof.Machine.execMload tk a c sb s
  | .mtd tk t a b => Sys2Proof.Machine.execMtd tk t a b s
  | .mstb tk a f => Sys2Proof.Machine.execMstb tk a f s
  | .mtbl tk a sb => Sys2Proof.Machine.execMtbl tk a sb s
  | .mxpt tk t g c sb => Sys2Proof.Machine.execMxpt tk t g c sb s
  | .mxOccupancyEnd core => Sys2Proof.Machine.execMxOccupancyEnd core s
  | .vadd tk d a b u sb => Sys2Proof.Machine.execVadd tk d a b u sb s
  | .vsub tk d a b u sb => Sys2Proof.Machine.execVsub tk d a b u sb s
  | .vmul tk d a b h u sb => Sys2Proof.Machine.execVmul tk d a b h u sb s
  | .vmad tk d a b u sb => Sys2Proof.Machine.execVmad tk d a b u sb s
  | .vmin tk d a b u => Sys2Proof.Machine.execVmin tk d a b u s
  | .vmax tk d a b u => Sys2Proof.Machine.execVmax tk d a b u s
  | .vand tk d a b => Sys2Proof.Machine.execVand tk d a b s
  | .vor tk d a b => Sys2Proof.Machine.execVor tk d a b s
  | .vxor tk d a b => Sys2Proof.Machine.execVxor tk d a b s
  | .vshl tk d a b im n => Sys2Proof.Machine.execVshl tk d a b im n s
  | .vshr tk d a b im u n => Sys2Proof.Machine.execVshr tk d a b im u n s
  | .vabs tk d a sb => Sys2Proof.Machine.execVabs tk d a sb s
  | .vfadd tk d a b => Sys2Proof.Machine.execVfadd tk d a b s
  | .vfsub tk d a b => Sys2Proof.Machine.execVfsub tk d a b s
  | .vfmul tk d a b => Sys2Proof.Machine.execVfmul tk d a b s
  | .vfma tk d a b na n => Sys2Proof.Machine.execVfma tk d a b na n s
  | .vfmax tk d a b => Sys2Proof.Machine.execVfmax tk d a b s
  | .vfmin tk d a b => Sys2Proof.Machine.execVfmin tk d a b s
  | .vsfn tk d a f => Sys2Proof.Machine.execVsfn tk d a f s
  | .vcvt tk d a p sb => Sys2Proof.Machine.execVcvt tk d a p sb s
  | .vqnt tk d a b m p => Sys2Proof.Machine.execVqnt tk d a b m p s
  | .vdq tk d a b p => Sys2Proof.Machine.execVdq tk d a b p s
  | .vred tk d a o => Sys2Proof.Machine.execVred tk d a o s
  | .vshuf tk d a b z => Sys2Proof.Machine.execVshuf tk d a b z s
  | .vsel tk d a b => Sys2Proof.Machine.execVsel tk d a b s
  | .vcmp tk d a b u c => Sys2Proof.Machine.execVcmp tk d a b u c s
  | .vimm tk d im => Sys2Proof.Machine.execVimm tk d im s
  | .vmpush tk a => Sys2Proof.Machine.execVmpush tk a s
  | .vminv tk => Sys2Proof.Machine.execVminv tk s
  | .vmpop tk => Sys2Proof.Machine.execVmpop tk s
  | .vbmz tk o => Sys2Proof.Machine.execVbmz tk o s
  | .vget tk d a b sb => Sys2Proof.Machine.execVget tk d a b sb s
  | .vput tk d a b => Sys2Proof.Machine.execVput tk d a b s
  | .vscan tk d a x => Sys2Proof.Machine.execVscan tk d a x s
  | .vcfg tk c r t => Sys2Proof.Machine.execVcfg tk c r t s
  | .vld tk h a o => Sys2Proof.Machine.execVld tk h a o s
  | .vldh tk h a b e c => Sys2Proof.Machine.execVldh tk h a b e c s
  | .vst tk h a o => Sys2Proof.Machine.execVst tk h a o s
  | .vsth tk h a b e c => Sys2Proof.Machine.execVsth tk h a b e c s
  | .vgth tk h a e => Sys2Proof.Machine.execVgth tk h a e s
  | .vsct tk h a e => Sys2Proof.Machine.execVsct tk h a e s
  | .vldt tk h a b sb => Sys2Proof.Machine.execVldt tk h a b sb s
  | .vqsync tk => Sys2Proof.Machine.execVqsync tk s
  | .vlLoadFill core pos => Sys2Proof.Machine.execVlLoadFill core pos s
  | .vlStorePerform core => Sys2Proof.Machine.execVlStorePerform core s
  | .cpy tk p h a q j b => Sys2Proof.Machine.execCpy tk p h a q j b s
  | .cpy3 tk p h a q j b => Sys2Proof.Machine.execCpy3 tk p h a q j b s
  | .cpyenc tk a => Sys2Proof.Machine.execCpyenc tk a s
  | .cfill tk p h a b => Sys2Proof.Machine.execCfill tk p h a b s
  | .crmt tk a q j b => Sys2Proof.Machine.execCrmt tk a q j b s
  | .cfetch tk h a b => Sys2Proof.Machine.execCfetch tk h a b s
  | .cevict tk h a b keep => Sys2Proof.Machine.execCevict tk h a b keep s
  | .cxCommandFinish core => Sys2Proof.Machine.execCxCommandFinish core s
  | .nsend tk h a b sb => Sys2Proof.Machine.execNsend tk h a b sb s
  | .nrecv tk h a b d sb => Sys2Proof.Machine.execNrecv tk h a b d sb s
  | .nmatch tk h a b c sb => Sys2Proof.Machine.execNmatch tk h a b c sb s
  | .nred tk h a b sb o => Sys2Proof.Machine.execNred tk h a b sb o s
  | .nbar tk => Sys2Proof.Machine.execNbar tk s
  | .nbarRelease job => Sys2Proof.Machine.execNbarRelease job s
  | .nroute tk d a => Sys2Proof.Machine.execNroute tk d a s
  | .nrouteFillJoin die => Sys2Proof.Machine.execNrouteFillJoin die s
  | .npend tk d => Sys2Proof.Machine.execNpend tk d s
  | .nxHeaderArrival die hdr => Sys2Proof.Machine.execNxHeaderArrival die hdr s
  | .nxHeaderRetry die pos => Sys2Proof.Machine.execNxHeaderRetry die pos s
  | .nxDelivery die pos => Sys2Proof.Machine.execNxDelivery die pos s
  | .nsendAck die seq => Sys2Proof.Machine.execNsendAck die seq s
  | .tenc h a j b => Sys2Proof.Machine.execTenc h a j b s
  | .tdec h a j b => Sys2Proof.Machine.execTdec h a j b s
  | .tstat d f => Sys2Proof.Machine.execTstat d f s
  | .jpost a b => Sys2Proof.Machine.execJpost a b s
  | .jprep h a b => Sys2Proof.Machine.execJprep h a b s
  | .sxfer h a d => Sys2Proof.Machine.execSxfer h a d s
  | .krun d a b => Sys2Proof.Machine.execKrun d a b s
  | .sbwait d a => Sys2Proof.Machine.execSbwait d a s
  | .rpush a => Sys2Proof.Machine.execRpush a s
  | .rpop d => Sys2Proof.Machine.execRpop d s
  | .ovly h a m => Sys2Proof.Machine.execOvly h a m s
  | .codset h a b => Sys2Proof.Machine.execCodset h a b s
  | .cmm d a => Sys2Proof.Machine.execCmm d a s
  | .cdwait d a => Sys2Proof.Machine.execCdwait d a s
  | .watch h a d => Sys2Proof.Machine.execWatch h a d s
  | .unwatch a => Sys2Proof.Machine.execUnwatch a s
  | .lxset h a d => Sys2Proof.Machine.execLxset h a d s
  | .layset h a b => Sys2Proof.Machine.execLayset h a b s
  | .ptoken d a b => Sys2Proof.Machine.execPtoken d a b s
  | .jqpush side a => Sys2Proof.Machine.execJqpush side a s
  | .done side d => Sys2Proof.Machine.execDone side d s
  | .faultq d => Sys2Proof.Machine.execFaultq d s
  | .resumeRetry a => Sys2Proof.Machine.execResumeRetry a s
  | .resumeHandler a => Sys2Proof.Machine.execResumeHandler a s
  | .abort a => Sys2Proof.Machine.execAbort a s
  | .inval a => Sys2Proof.Machine.execInval a s
  | .invalidationComplete pos => Sys2Proof.Machine.execInvalidationComplete pos s
  | .migcmdStart a => Sys2Proof.Machine.execMigcmdStart a s
  | .migcmdEnd a => Sys2Proof.Machine.execMigcmdEnd a s
  | .migrationSectorCopy mu => Sys2Proof.Machine.execMigrationSectorCopy mu s
  | .bncq d => Sys2Proof.Machine.execBncq d s
  | .bncdone a => Sys2Proof.Machine.execBncdone a s
  | .bounceDelivery pos => Sys2Proof.Machine.execBounceDelivery pos s
  | .hostirq a => Sys2Proof.Machine.execHostirq a s
  | .registerWrite space im v => Sys2Proof.Machine.execRegisterWrite space im v s
  | .walkComplete u h => Sys2Proof.Machine.execWalkComplete u h s
  | .walkLockRetry u h => Sys2Proof.Machine.execWalkLockRetry u h s
  | .streamTransferFinish lc pos => Sys2Proof.Machine.execStreamTransferFinish lc pos s
  | .cardReady lc pos => Sys2Proof.Machine.execCardReady lc pos s
  | .queueIssue core => Sys2Proof.Machine.execQueueIssue core s
  | .jobStart core => Sys2Proof.Machine.execJobStart core s
  | .jobComplete core job => Sys2Proof.Machine.execJobComplete core job s
  | .completionEntryAppend core => Sys2Proof.Machine.execCompletionEntryAppend core s
  | .rdvRelease job n => Sys2Proof.Machine.execRdvRelease job n s
  | .switchPointRelease core => Sys2Proof.Machine.execSwitchPointRelease core s
  | .ppcReallotment hot => Sys2Proof.Machine.execPpcReallotment hot s
  | .permitBoundary die => Sys2Proof.Machine.execPermitBoundary die s
  | .permitRefill die => Sys2Proof.Machine.execPermitRefill die s
  | .forcedDrop core => Sys2Proof.Machine.execForcedDrop core s
  | .forcedDropLevelTake core => Sys2Proof.Machine.execForcedDropLevelTake core s
  | .profileSample core power => Sys2Proof.Machine.execProfileSample core power s
  | .purseEarn => Sys2Proof.Machine.execPurseEarn s
  | .preemptionDecision core => Sys2Proof.Machine.execPreemptionDecision core s
  | .cutStopPointsReached core => Sys2Proof.Machine.execCutStopPointsReached core s
  | .cutSave core => Sys2Proof.Machine.execCutSave core s
  | .kernelWithdrawal lc pos => Sys2Proof.Machine.execKernelWithdrawal lc pos s
  | .deadlineMissReport job => Sys2Proof.Machine.execDeadlineMissReport job s
  | .reportedCauseDelivery lc k => Sys2Proof.Machine.execReportedCauseDelivery lc k s
  | .holdNoticePost u => Sys2Proof.Machine.execHoldNoticePost u s
  | .watchTrigger => Sys2Proof.Machine.execWatchTrigger s
  | .rateWindowStart => Sys2Proof.Machine.execRateWindowStart s
  | .exchangeRoundStart => Sys2Proof.Machine.execExchangeRoundStart s
  | .exchangeLineJoin pos => Sys2Proof.Machine.execExchangeLineJoin pos s
  | .outerExchangeRound lines => Sys2Proof.Machine.execOuterExchangeRound lines s
  | .codedPost pos far => Sys2Proof.Machine.execCodedPost pos far s
  | .tileDecision slot tile => Sys2Proof.Machine.execTileDecision slot tile s
  | .tileDecode decoder => Sys2Proof.Machine.execTileDecode decoder s
  | .operatorEnd slot => Sys2Proof.Machine.execOperatorEnd slot s
  | .operatorDeadline slot => Sys2Proof.Machine.execOperatorDeadline slot s
  | .seamFlitReceive link flit => Sys2Proof.Machine.execSeamFlitReceive link flit s
  | .seamReplay replay => Sys2Proof.Machine.execSeamReplay replay s
  | .hbmTransferRetry die chan addr wr pass => Sys2Proof.Machine.execHbmTransferRetry die chan addr wr pass s
  | .hbmWriteReattempt die chan pass => Sys2Proof.Machine.execHbmWriteReattempt die chan pass s
  | .laneSwap die chan lane => Sys2Proof.Machine.execLaneSwap die chan lane s
  | .laneSwapResume die chan => Sys2Proof.Machine.execLaneSwapResume die chan s
  | .scrubVisit mem chan => Sys2Proof.Machine.execScrubVisit mem chan s
  | .ppsEdge => Sys2Proof.Machine.execPpsEdge s
  | .ptptod sec ns => Sys2Proof.Machine.execPtptod sec ns s
  | .thermalSample readings => Sys2Proof.Machine.execThermalSample readings s
  | .powerOn fails => Sys2Proof.Machine.execPowerOn fails s
  | .restart v => Sys2Proof.Machine.execRestart v s
  | .cfgwr b => Sys2Proof.Machine.execCfgwr b s
  | .cfgstat v => Sys2Proof.Machine.execCfgstat v s
  | .programLoad m addr ws => Sys2Proof.Machine.execProgramLoad m addr ws s
  | .contextLoad lc k entry g1 => Sys2Proof.Machine.execContextLoad lc k entry g1 s
  | .hostCardWindowWrite off data => Sys2Proof.Machine.execHostCardWindowWrite off data s
  | .hostApertureRead off len => Sys2Proof.Machine.execHostApertureRead off len s
  | .hostApertureWrite off data => Sys2Proof.Machine.execHostApertureWrite off data s
  | .hostAtomicFetchadd off size b => Sys2Proof.Machine.execHostAtomicFetchadd off size b s
  | .hostAtomicSwap off size b => Sys2Proof.Machine.execHostAtomicSwap off size b s
  | .hostAtomicCas off size cmp b => Sys2Proof.Machine.execHostAtomicCas off size cmp b s
  | .writePerformed pos => Sys2Proof.Machine.execWritePerformed pos s
  | .flitBoundaryArbitration link ready payload => Sys2Proof.Machine.execFlitBoundaryArbitration link ready payload s
  | .presentPackagesChange routes => Sys2Proof.Machine.execPresentPackagesChange routes s
  | .teStreamStart lc entry g1 => Sys2Proof.Machine.execTeStreamStart lc entry g1 s

end Sys2Proof.Machine
end

