-- ==== Sys2Proof/Machine/Outside.lean ====
section
/-!
DEFINITION. What comes to the package from outside it, or happens in it at a time that no rule states, and has no row of the opcode
table (log entry 8): accesses of other packages, what is known of them, reads of the host and of the board.
-/

namespace Sys2Proof.Machine

/-- Another package of the domain (R407). -/
def State.isFar (s : State) (p : Nat) : Bool := decide (p ≠ s.pkg) && s.exchange.present.contains p

/-- The writer of an access of another package, with its place among the accepted writes, through a page of a HASH and a scope; of a release, with
every earlier access of that package ordered before it. -/
def awayWriter (p n hash scope : Nat) (rel : Bool) : Writer :=
  let w : Writer := { who := .away p, at_ := n, hash := some hash, scope := scope }
  if rel then { w with rel := some scope, clock := Clock.empty.raise (.away p) scope n } else w

/-- Whether another package's access to these addresses is made: R360 gives each to a memory, and the channels take it. -/
def State.awayMay (s : State) (p : Nat) (pas : List Nat) (hash : Nat) : Bool :=
  s.isFar p && pas.all paExists && !s.chanShut pas (some hash)

/-- Bytes written by another package, unit by unit (R307). -/
def State.awayWrite (s : State) (p : Nat) (cells : List (Nat × Byte)) (hash scope : Nat) (rel : Bool) : State :=
  if !s.awayMay p (cells.map (·.1)) hash then s
  else
    let (n, s) := s.nextSeq
    (unitsOf cells).foldl (fun s u => s.perform u true (awayWriter p n hash scope rel)) s

/-- An AMO of another package (R141), one step at the home; bytes that cannot be corrected are free. -/
def State.awayAmo (s : State) (p op n pa : Nat) (b e : DWord) (hash scope : Nat) : State :=
  let pas := run pa n
  if !s.awayMay p pas hash then s
  else
    let (k, s) := s.nextSeq
    let (s, sound) := s.deviceRead pas (some hash)
    let (s, bs) := if sound then s.hashBytes hash pas (s.rdAll pas) else (s.draw.2, (List.range n).map (Config.freeByte s.draw.1))
    let m := 2 ^ (8 * n)
    s.perform (pas.zip (leBytes n (amoNew op n (leNat bs) (b.toNat % m) (e.toNat % m)))) true (awayWriter p k hash scope true)

/-- Cells that another package's CRMT joins at site 8 of this one (R232). -/
def State.awayJoin (s : State) (p t pa scope : Nat) (bs : List Byte) : State :=
  let cells := cellsAt pa bs
  if !s.awayMay p (cells.map (·.1)) 0 then s
  else
    let (n, s) := s.nextSeq
    (cellUnits t cells).foldl (fun s u =>
      s.joinUnit t 8 (decide (2 ≤ scope)) (decide (scope = 3)) (awayWriter p n 0 scope false) (u.map (·.1)) (u.map (·.2))) s

/-- What is known of another package changes. -/
def State.learn (s : State) (p : Nat) (f : Far → Far) : State := if p = s.pkg then s else s.setFar p (f (s.far p))

/-- A number put into a list, or taken out of it. -/
def member (b : Bool) (n : Nat) (xs : List Nat) : List Nat :=
  let ys := xs.filter fun x => decide (x ≠ n)
  if b then n :: ys else ys

/-- What comes from outside happens. A package that is off is read and has its flash written over the sideband, and nothing else (R472). -/
def State.outside (s : State) (x : Outside) : State :=
  match x with
  | .sidebandRead off len => s.sidebandRead off len
  | .flashWritten => s.flashWritten
  | .firmImage i ws starts => { s with mgc := { s.mgc with images := s.mgc.images.filter (fun y => decide (y.lc ≠ i)) ++ [⟨i, ws, starts⟩] } }
  | .farRoot p i v => s.learn p fun f => { f with roots := Tab.set f.roots i v }
  | .farLayout p i ws => s.learn p fun f => { f with layouts := Tab.set f.layouts i ws }
  | .farGate p c b => s.learn p fun f => { f with gated := member b c f.gated }
  | .farMapped p d b => s.learn p fun f => { f with mapped := member b d f.mapped }
  | .write p cells hash scope rel => if s.mgc.poweredOn then s.awayWrite p cells hash scope rel else s
  | .amo p op n pa b e hash scope => if s.mgc.poweredOn then s.awayAmo p op n pa b e hash scope else s
  | .join p t pa scope bs => if s.mgc.poweredOn then s.awayJoin p t pa scope bs else s
  | .gate c => if s.mgc.poweredOn then s.gateNow c else s
  | .windowRead off len => if s.mgc.poweredOn then s.windowRead off len else s

end Sys2Proof.Machine
end

