-- ==== Sys2Proof/Machine/Time.lean ====
section
/-!
DEFINITION. How time advances (log entry 9): an event that the spec binds to a tick happens at that tick, so time waits while
one is due. Events whose time the spec does not state come when the schedule names them.
-/

namespace Sys2Proof.Machine

/-- Multiples of a period that have come and have not been served (R310, R312, R313, R330, R395, R463). -/
def State.periodsDue (s : State) : Bool :=
  let t := s.tick
  periodDue t 13600 s.served.reallot
  || s.served.boundary.any (periodDue t 6800)
  || s.served.refill.any (periodDue t 27200)
  || periodDue t (max 1 s.ports.purseRate.toNat) s.served.purse
  || periodDue t 170000 s.served.rate
  || s.thermalDue

/-- What is due on a core now: an issue edge or an end of MX (R164), a switch point (R284), a start (R274), an issue (R328), a
pre-emption (R329), a forced drop (R314, R315), a profile record (R317). -/
def State.coreDue (s : State) (c : Nat) : Bool :=
  s.mxDue c || s.mxRunOut c
  || (s.switchDue c).isSome || (s.starts c).isSome || (s.nextIssue c).isSome || (s.preemptor c).isSome
  || (s.fallDue c).isSome || s.takeDue c || s.sampleDue c

/-- A submitted kernel becomes ready, or is withdrawn, now (R324, R331). -/
def State.kernelDue (s : State) (i : Nat) (e : ScbEntry) : Bool :=
  match s.kernelAt i e.ix with
  | none => false
  | some (_, j) => s.readyNow i j || s.withdrawNow j

/-- What is due of kernels now (R324, R331). -/
def State.kernelsDue (s : State) : Bool :=
  (s.lcs.any fun x => x.2.scb.any (s.kernelDue x.1))
  || s.jobs.any fun x => (match x.2.origin with
    | .krun _ _ _ => s.missNow x.2
    | _ => false)

/-- A header refused 1,700 ticks ago comes again now (R238). -/
def State.headersDue (s : State) : Bool :=
  s.dies.any fun d => d.2.sends.any fun x => decide (x.stage = 2) && decide (x.due ≤ s.tick) && !d.2.overtakes x

/-- A coded operator decides a tile, ends, or meets its deadline now (R421, R425). -/
def State.codedDue (s : State) : Bool :=
  s.coded.any fun x => x.2.running && (x.2.finished || decide (x.2.deadline ≤ s.tick)
    || (List.range (codingOf x.2.desc).tiles).any fun t => (s.decidable x.2 t).isSome)

/-- A channel's swap, resumption, write or scrubber visit is due (R453, R454, R456). -/
def State.chanDue (s : State) (d c : Nat) : Bool :=
  let x := s.chan d c
  s.swapDue d c || (x.closed.isNone && decide (x.scrubDue ≤ s.tick))
  || (match x.closed with
    | some t => decide (t + 8500 ≤ s.tick)
    | none => false)
  || x.writeWait.any fun w => decide (w.1 + 850 ≤ s.tick)

/-- An exchange round starts now (R383, R388); one between packages ends when the partner's lines have come, which takes any time. -/
def State.roundDue (s : State) : Bool :=
  s.roundReady || (decide (10 ≤ s.mgc.stepDone) && decide (s.exchange.outerStart + outerLength ≤ s.tick)
    && (s.exchange.outerPartner s.pkg).isNone && s.outerReady [])

/-- An event bound to a tick is due and has not happened. -/
def State.due (s : State) : Bool :=
  s.periodsDue || s.triggerDue || (List.range 32).any s.coreDue || s.kernelsDue || s.headersDue || s.codedDue || s.roundDue
  || (List.range 9).any fun d => (List.range 32).any (s.chanDue d)

/-- Time advances by a tenth of a tick, unless something is due; while the package is off it does not (R466). -/
def State.advance (s : State) : State := if !s.mgc.poweredOn || s.due then s else { s with now := s.now + 1 }

/-- A package that is off takes no part in anything but its own start, its configuration, the time of day and the sideband's LOGSEL (R466, R472,
R473). -/
def State.eventOpen (s : State) (i : Instr) : Bool :=
  s.mgc.poweredOn || (match i with
    | .restart _ => true
    | .powerOn _ => true
    | .cfgwr _ => true
    | .cfgstat _ => true
    | .ptptod _ _ => true
    | .ppsEdge => true
    | .registerWrite space _ _ => decide (space.toNat = 2)
    | _ => false)

end Sys2Proof.Machine
end

