-- ==== Sys2Proof/Machine/Step.lean ====
section
/-!
DEFINITION. One step of the package: the next move that the state lists, or, where it lists none, the one that the free
schedule names (log entry 6).
-/

namespace Sys2Proof.Machine

/-- The move that comes next, and the state that has it behind it. -/
def State.nextMove (s : State) : Move × State :=
  match s.moves with
  | m :: ms => (m, { s with moves := ms })
  | [] => (Config.schedule s.sched, { s with sched := s.sched + 1 })

/-- The state in which a unit executes an instruction that was fetched: the unit is `cur`, and the address, word and
prefixes of the instruction are latched. -/
def State.latch (s : State) (u : UnitId) (f : Fetched) : State :=
  ({ s with cur := u }).setStream u { s.stream u with a := f.a, word := f.word, pfx := f.pfx }

/-- EPC of an uncorrectable word is its own address, as R450 has it, also behind prefixes, where R61 names the address of the first: DESIGN
CHOICE between the two (log entry 68). -/
def State.fetchedAt (s : State) (t : Trap) : State :=
  match t.cause, t.einfo with
  | .uncorrectable, some a => s.setMe { s.me with pc := a }
  | _, _ => s

/-- The words fetched: a corrected one is recorded and written back (R452). -/
def State.noteFetch (s : State) (u : UnitId) (f : Fetched) : State :=
  let a := (s.stream u).pc.toNat
  s.noteReads u ((run a (f.a.toNat + 4 - a)).map (imemPa u.imem))

/-- A unit executes the instruction at its PC. -/
def stepUnit (s : State) (u : UnitId) : Host.Outcome State Fault Refusal :=
  let s := { s with cur := u }
  if s.mayRun u then
    match s.boundaryStop u with
    | some t => .next t
    | none =>
      match s.revokedStore, s.formatAtStart u with
      | some e, _ => .next (s.raiseRevoked e)
      | none, some t => .next (takeTrap s t)
      | none, none =>
        let s := s.setStream u (s.stream u).enterJobLoop
        match fetch s u with
        | .error t => .next (takeTrap (s.fetchedAt t) t)
        | .ok f => if s.mxHolds u f.instr then .next s else exec f.instr ((s.noteFetch u f).latch u f)
  else .next s

/-- One step. -/
def step (s : State) : Host.Outcome State Fault Refusal :=
  match s.nextMove with
  | (.unit u, s) => stepUnit s u
  | (.event i, s) => if wellFormed i && isEvent i && s.eventOpen i then exec i s else .next s
  | (.tick, s) => .next s.advance
  | (.upset x, s) => .next (s.upset x)
  | (.outside x, s) => .next (s.outside x)

/-- The state with a table row's instruction placed where the next step fetches it (log entry 7): the unit that executes
it runs, the word stands at its PC under a raised limit, and that unit's move is next. -/
def State.withFetchWord (s : State) (nbits w : Nat) : State :=
  match decodeTableWord nbits w with
  | some i => s.placeNext (BitVec.ofNat 32 w) i
  | none => s.placeNext (BitVec.ofNat 32 w) .nop

end Sys2Proof.Machine
end

