-- ==== Sys2Proof/Certificates/Slice0/Obligations.lean ====
section
/-!
DEFINITION. The statements for the provers: what decoding, the step, the instructions and the machine do, one Prop each. The helper
definitions before them are in the namespace Sys2Proof.Claim.
-/

namespace Sys2Proof.Claim

open Sys2Proof.Machine

/-! ### Words that several statements use -/

/-- A triple-issued word meets no upset (R121): its three copies agree. -/
def Unvoted (s : State) : Prop := s.me.pfx.tmr = true → ∀ second, Tab.find? s.tmrUpset (s.cur, second) = none

/-- The state after a word whose whole effect is g[d] := v: that register of the executing stream, and the next PC. -/
def wrote (s : State) (d : BitVec 5) (v : DWord) : State := s.setMe (s.me.wg d v).next

/-- The state after a word that only goes on to the next one. -/
def passed (s : State) : State := s.setMe s.me.next

/-- A condition in a register. -/
def one (p : Prop) [Decidable p] : DWord := if p then 1 else 0

/-- No active loop register ends at the instruction. -/
def NoLoopEnds (x : Stream) : Prop := ∀ n : Fin 4, (x.lp.get n).count = 0 ∨ (x.lp.get n).stop ≠ x.a

/-- The job loop does not end at the instruction. -/
def NoJobLoopEnds (x : Stream) : Prop :=
  ∀ l, x.jl = some l → l.count = 0 ∨ x.a + 4 ≠ l.epilogue

/-- Of bytes that an access writes, those that are not of the profile ring, whose fields ignore writes (R318). -/
def landing (cs : List (Nat × Byte)) : List (Nat × Byte) :=
  cs.filter fun c => !(decide (kindOf c.1 = 3) && decide (63 * 2 ^ 20 ≤ c.1 % 2 ^ 26))

/-- The bytes of a number, least significant first, at the addresses of an access. -/
def numberAt (pas : List Nat) (n v : Nat) : List (Nat × Byte) :=
  landing ((List.range n).map fun i => (pas.getD i 0, BitVec.ofNat 8 (v / 256 ^ i)))

/-- A memory after bytes are written where their accesses are made (R376). -/
def written (s : State) (cs : List (Nat × Byte)) : Mem := Mem.setAll s.mem (cs.map fun c => (s.direct c.1, c.2))

/-- What an agent has acquired covers a clock: all that the clock orders is ordered before the agent's later accesses (R298). -/
def Acquired (s : State) (a : Agent) (k : Clock) : Prop :=
  (∀ x ∈ k.upTo, x.2 ≤ (s.view a).now.get x.1.1 x.1.2) ∧ ∀ x ∈ k.bytes, x.2 ≤ Tab.get (s.view a).now.bytes x.1 0

/-- The destination register of the register-only words of the shared subset (R93 to R96, R118). -/
def integerDest : Instr → Option (BitVec 5)
  | .add d _ _ => some d
  | .sub d _ _ => some d
  | .mul d _ _ => some d
  | .mulh d _ _ => some d
  | .mulhu d _ _ => some d
  | .div d _ _ => some d
  | .divu d _ _ => some d
  | .rem d _ _ => some d
  | .remu d _ _ => some d
  | .and d _ _ => some d
  | .or d _ _ => some d
  | .xor d _ _ => some d
  | .andn d _ _ => some d
  | .shl d _ _ => some d
  | .shr d _ _ => some d
  | .sra d _ _ => some d
  | .rol d _ _ => some d
  | .slt d _ _ => some d
  | .sltu d _ _ => some d
  | .seq d _ _ => some d
  | .min d _ _ => some d
  | .max d _ _ => some d
  | .minu d _ _ => some d
  | .maxu d _ _ => some d
  | .clz d _ => some d
  | .popc d _ => some d
  | .idx d _ _ _ => some d
  | .extu d _ _ _ => some d
  | .sext d _ _ => some d
  | .cmovnz d _ _ => some d
  | .addi d _ _ => some d
  | .andi d _ _ => some d
  | .ori d _ _ => some d
  | .xori d _ _ => some d
  | .shli d _ _ => some d
  | .shri d _ _ => some d
  | .srai d _ _ => some d
  | .slti d _ _ => some d
  | .sltiu d _ _ => some d
  | .muli d _ _ => some d
  | .li d _ => some d
  | .lui d _ => some d
  | .auipc d _ => some d
  | .cyc d => some d
  | _ => none

/-- Everything but the executing stream is as before; of that stream, everything but g[d], the PC, the loop state that the
end check of R101 changes, and the mark that it waits. -/
def OnlyRegister (s t : State) (d : BitVec 5) : Prop :=
  { t with streams := s.streams } = s ∧ (∀ u, u ≠ s.cur → t.stream u = s.stream u)
  ∧ (∀ n, n ≠ d → t.me.rg n = s.me.rg n)
  ∧ { t.me with g := s.me.g, pc := s.me.pc, lp := s.me.lp, jl := s.me.jl, waiting := s.me.waiting } = s.me

/-- What a join of the executing stream leaves but for the memory: the next PC, and a release at a scope as the newest write. -/
def Joined (s t : State) (scope : Nat) : Prop :=
  t.me = s.me.next ∧ (∃ e, t.hist = e :: s.hist ∧ e.writer.who = s.agentOf s.cur ∧ e.writer.rel = some scope)
  ∧ t.pending = s.pending ∧ t.cores = s.cores

/-- The state after an LWAIT that completes on a cell as it was found: the joins that its value includes are acquired (R151). -/
def awaited (r : State × Bool × Nat) (d : BitVec 5) (x : Access) : State :=
  let self := r.1.agentOf r.1.cur
  wrote (r.1.acquireOwn self x.page.scope (r.1.joinsOf self x.pas)) d (BitVec.ofNat 64 r.2.2)

end Sys2Proof.Claim

open Sys2Proof Sys2Proof.Machine Sys2Proof.Claim

/-! ### The shared subset: integers (spec/03) -/

/-- R93, R92: the results of the register forms; all sources are read before the destination is written, a write to g0 is
discarded (Stream.wg), nothing traps. CLZ is 64 for 0, else its result z leaves bit 63 − z as the highest set bit; POPC counts the
set bits. -/
def Obligations.IntegerRegisterResults : Prop :=
  (∀ (s : State) (d a b : BitVec 5), Unvoted s →
      exec (.add d a b) s = .next (wrote s d (s.rg a + s.rg b))
      ∧ exec (.sub d a b) s = .next (wrote s d (s.rg a - s.rg b))
      ∧ exec (.mul d a b) s = .next (wrote s d (s.rg a * s.rg b))
      ∧ exec (.mulh d a b) s = .next (wrote s d (BitVec.ofInt 64 ((s.rg a).toInt * (s.rg b).toInt / 2 ^ 64)))
      ∧ exec (.mulhu d a b) s = .next (wrote s d (BitVec.ofNat 64 ((s.rg a).toNat * (s.rg b).toNat / 2 ^ 64)))
      ∧ exec (.and d a b) s = .next (wrote s d (s.rg a &&& s.rg b))
      ∧ exec (.or d a b) s = .next (wrote s d (s.rg a ||| s.rg b))
      ∧ exec (.xor d a b) s = .next (wrote s d (s.rg a ^^^ s.rg b))
      ∧ exec (.andn d a b) s = .next (wrote s d (s.rg a &&& ~~~(s.rg b)))
      ∧ exec (.shl d a b) s = .next (wrote s d (s.rg a <<< ((s.rg b).toNat % 64)))
      ∧ exec (.shr d a b) s = .next (wrote s d (s.rg a >>> ((s.rg b).toNat % 64)))
      ∧ exec (.sra d a b) s = .next (wrote s d ((s.rg a).sshiftRight ((s.rg b).toNat % 64)))
      ∧ exec (.rol d a b) s = .next (wrote s d ((s.rg a).rotateLeft ((s.rg b).toNat % 64)))
      ∧ exec (.slt d a b) s = .next (wrote s d (one ((s.rg a).toInt < (s.rg b).toInt)))
      ∧ exec (.sltu d a b) s = .next (wrote s d (one ((s.rg a).toNat < (s.rg b).toNat)))
      ∧ exec (.seq d a b) s = .next (wrote s d (one (s.rg a = s.rg b)))
      ∧ exec (.min d a b) s = .next (wrote s d (if (s.rg a).toInt < (s.rg b).toInt then s.rg a else s.rg b))
      ∧ exec (.max d a b) s = .next (wrote s d (if (s.rg a).toInt < (s.rg b).toInt then s.rg b else s.rg a))
      ∧ exec (.minu d a b) s = .next (wrote s d (if (s.rg a).toNat < (s.rg b).toNat then s.rg a else s.rg b))
      ∧ exec (.maxu d a b) s = .next (wrote s d (if (s.rg a).toNat < (s.rg b).toNat then s.rg b else s.rg a))
      ∧ exec (.cmovnz d a b) s = .next (wrote s d (if s.rg b = 0 then s.rg d else s.rg a))
      ∧ (∀ n, exec (.idx d a b n) s = .next (wrote s d (s.rg a + s.rg b <<< n.toNat)))
      ∧ (∀ w, exec (.extu d a b w) s
          = .next (wrote s d (BitVec.ofNat 64 ((s.rg a).toNat / 2 ^ ((s.rg b).toNat % 64) % 2 ^ (w.toNat + 1)))))
      ∧ (∀ n, exec (.sext d a n) s = .next (wrote s d (((s.rg a).setWidth (n.toNat + 1)).signExtend 64))))
  ∧ (∀ (s : State) (d a : BitVec 5), Unvoted s →
      (∃ z : Nat, exec (.clz d a) s = .next (wrote s d (BitVec.ofNat 64 z)) ∧ z ≤ 64
        ∧ (s.rg a).toNat < 2 ^ (64 - z) ∧ (z < 64 → 2 ^ (63 - z) ≤ (s.rg a).toNat))
      ∧ exec (.popc d a) s
          = .next (wrote s d (BitVec.ofNat 64 ((List.range 64).filter fun n => (s.rg a).getLsbD n).length)))

/-- R94: the divisions, with their two corners; no division raises a fault. -/
def Obligations.DivisionResults : Prop :=
  ∀ (s : State) (d a b : BitVec 5), Unvoted s →
    (s.rg b = 0 →
      exec (.div d a b) s = .next (wrote s d (BitVec.allOnes 64)) ∧ exec (.rem d a b) s = .next (wrote s d (s.rg a))
      ∧ exec (.divu d a b) s = .next (wrote s d (BitVec.allOnes 64)) ∧ exec (.remu d a b) s = .next (wrote s d (s.rg a)))
    ∧ (s.rg a = BitVec.intMin 64 → s.rg b = BitVec.allOnes 64 →
      exec (.div d a b) s = .next (wrote s d (BitVec.intMin 64)) ∧ exec (.rem d a b) s = .next (wrote s d 0))
    ∧ (s.rg b ≠ 0 →
      (∃ q m : DWord, exec (.divu d a b) s = .next (wrote s d q) ∧ exec (.remu d a b) s = .next (wrote s d m)
        ∧ (s.rg a).toNat = q.toNat * (s.rg b).toNat + m.toNat ∧ m.toNat < (s.rg b).toNat)
      ∧ (¬(s.rg a = BitVec.intMin 64 ∧ s.rg b = BitVec.allOnes 64) →
        ∃ q m : DWord, exec (.div d a b) s = .next (wrote s d q) ∧ exec (.rem d a b) s = .next (wrote s d m)
          ∧ (s.rg a).toInt = q.toInt * (s.rg b).toInt + m.toInt ∧ m.toInt.natAbs < (s.rg b).toInt.natAbs
          ∧ (m.toInt ≠ 0 → (0 < m.toInt ↔ 0 < (s.rg a).toInt))))

/-- R95, R96: the immediate forms; imm is the sign-extended field, or the field widened by a kind 0 prefix (R62). -/
def Obligations.ImmediateResults : Prop :=
  ∀ (s : State) (d a : BitVec 5) (i : BitVec 14) (j : BitVec 19) (n : BitVec 6) (imm limm : Int), Unvoted s →
    (s.me.pfx.imm = none → imm = i.toInt ∧ limm = j.toInt) →
    (∀ p, s.me.pfx.imm = some p → imm = (p ++ i).toInt ∧ limm = (p ++ j).toInt) →
    exec (.addi d a i) s = .next (wrote s d (s.rg a + BitVec.ofInt 64 imm))
    ∧ exec (.andi d a i) s = .next (wrote s d (s.rg a &&& BitVec.ofInt 64 imm))
    ∧ exec (.ori d a i) s = .next (wrote s d (s.rg a ||| BitVec.ofInt 64 imm))
    ∧ exec (.xori d a i) s = .next (wrote s d (s.rg a ^^^ BitVec.ofInt 64 imm))
    ∧ exec (.shli d a n) s = .next (wrote s d (s.rg a <<< n.toNat))
    ∧ exec (.shri d a n) s = .next (wrote s d (s.rg a >>> n.toNat))
    ∧ exec (.srai d a n) s = .next (wrote s d ((s.rg a).sshiftRight n.toNat))
    ∧ exec (.slti d a i) s = .next (wrote s d (one ((s.rg a).toInt < imm)))
    ∧ exec (.sltiu d a i) s = .next (wrote s d (one (((s.rg a).toNat : Int) < imm % 2 ^ 64)))
    ∧ exec (.muli d a i) s = .next (wrote s d (s.rg a * BitVec.ofInt 64 imm))
    ∧ exec (.li d j) s = .next (wrote s d (BitVec.ofInt 64 limm))
    ∧ exec (.lui d j) s = .next (wrote s d (BitVec.ofInt 64 (limm * 2 ^ 32)))
    ∧ exec (.auipc d j) s = .next (wrote s d (s.me.a + BitVec.ofInt 64 (4 * limm)))

/-- R68, R92 and R118: a register-only word changes its destination register, and of the rest only where the stream stands. -/
def Obligations.RegisterWordFrame : Prop :=
  ∀ (i : Instr) (d : BitVec 5) (s t : State), integerDest i = some d → Unvoted s → exec i s = .next t →
    OnlyRegister s t d ∧ (d = 0 → ∀ n, t.me.rg n = s.me.rg n) ∧ ∀ a, Mem.get t.mem a = Mem.get s.mem a

/-! ### The shared subset: where a stream goes on (spec/03) -/

/-- R97, R98: branches and jumps. The target counts from the word itself; a branch not taken goes on; JR reads its target before
it writes the link, and a misaligned target raises MISALIGN with EINFO the target. -/
def Obligations.BranchesAndJumps : Prop :=
  ∀ (s : State) (d a b : BitVec 5) (o : BitVec 14) (f : BitVec 24) (off : Int), Unvoted s →
    (s.me.pfx.imm = none → off = o.toInt) → (∀ p, s.me.pfx.imm = some p → off = (p ++ o).toInt) →
    let go := fun (c : Bool) => if c then s.setMe { s.me with pc := s.me.a + BitVec.ofInt 64 (4 * off), waiting := none }
      else passed s
    exec (.beq a b o) s = .next (go (decide (s.rg a = s.rg b)))
    ∧ exec (.bne a b o) s = .next (go (decide (s.rg a ≠ s.rg b)))
    ∧ exec (.blt a b o) s = .next (go (decide ((s.rg a).toInt < (s.rg b).toInt)))
    ∧ exec (.bge a b o) s = .next (go (decide ((s.rg b).toInt ≤ (s.rg a).toInt)))
    ∧ exec (.bltu a b o) s = .next (go (decide ((s.rg a).toNat < (s.rg b).toNat)))
    ∧ exec (.bgeu a b o) s = .next (go (decide ((s.rg b).toNat ≤ (s.rg a).toNat)))
    ∧ exec (.j f) s = .next (s.setMe { s.me with pc := s.me.a + BitVec.ofInt 64 (4 * f.toInt), waiting := none })
    ∧ exec (.call f) s
        = .next (s.setMe { s.me.wg 31 (s.me.a + 4) with pc := s.me.a + BitVec.ofInt 64 (4 * f.toInt), waiting := none })
    ∧ ((s.rg a).toNat % 4 = 0 →
        exec (.jr d a) s = .next (s.setMe { s.me.wg d (s.me.a + 4) with pc := s.rg a, waiting := none }))
    ∧ ((s.rg a).toNat % 4 ≠ 0 → exec (.jr d a) s = .next (takeTrap s ⟨.misalign, some (s.rg a), .std 0 0, .none⟩))

/-- R101: the end check. Away from a loop's end word the PC is A + 4; at the end word of the innermost loop that ends there, a
count above 1 goes down by one and the loop's start is next; a count of 1 exits, and the next loop outward that ends there is checked. R276:
the job loop is checked after the others: its kernel starts again, or its epilogue follows. R100, R102: LOOP and LOOPI set the loop
register (its count, or the share of it that R322 gives the instance), and skip the body for a count of 0; an end of 0 is ILLEGAL.
R103, R104: LEAVE; without SQ a mask that is not 0 is ILLEGAL.
An inactive loop changes nothing; else the loop and the active loops inside its body end and the PC is the word after its end;
with SQ the squash comes before, after which the stream is at the next generation: of each named engine a command that has not started and is
tagged with the stream's generation is gone, with one void token in each queue that it would have pushed; the others stay. -/
def Obligations.Loops : Prop :=
  ((∀ x : Stream, NoJobLoopEnds x →
        (NoLoopEnds x → x.next = { x with pc := x.a + 4, waiting := none })
        ∧ (∀ n : Fin 4, (x.lp.get n).stop = x.a →
            (∀ m : Fin 4, m ≠ n → (x.lp.get m).count = 0 ∨ (x.lp.get m).stop ≠ x.a ∨ (x.lp.get m).start < (x.lp.get n).start) →
            1 < (x.lp.get n).count.toNat →
            x.next = { x with pc := (x.lp.get n).start, waiting := none,
                              lp := x.lp.set n.val { x.lp.get n with count := (x.lp.get n).count - 1 } n.isLt })
        ∧ (∀ n : Fin 4, (x.lp.get n).stop = x.a → (x.lp.get n).count = 1 →
            (∀ m : Fin 4, m ≠ n → (x.lp.get m).count = 0 ∨ (x.lp.get m).stop ≠ x.a) →
            x.next = { x with pc := x.a + 4, waiting := none,
                              lp := x.lp.set n.val { x.lp.get n with count := 0 } n.isLt })
        ∧ (∀ n o : Fin 4, (x.lp.get n).stop = x.a → (x.lp.get o).stop = x.a → (x.lp.get o).start < (x.lp.get n).start →
            (x.lp.get n).count = 1 → (x.lp.get o).count ≠ 0 →
            (∀ m : Fin 4, m ≠ n → m ≠ o → (x.lp.get m).count = 0 ∨ (x.lp.get m).stop ≠ x.a) →
            let inner := x.lp.set n.val { x.lp.get n with count := 0 } n.isLt
            x.next = { x with pc := if (x.lp.get o).count = 1 then x.a + 4 else (x.lp.get o).start, waiting := none,
                              lp := inner.set o.val { x.lp.get o with count := (x.lp.get o).count - 1 } o.isLt }))
    ∧ (∀ (x : Stream) (l : JobLoop), NoLoopEnds x → x.jl = some l → 0 < l.count → x.a + 4 = l.epilogue →
        x.next = { x with pc := if 1 < l.count then l.kernel else l.epilogue, waiting := none,
                          jl := some { l with count := l.count - 1, entered := true, turns := l.turns + 1, boundary := true } })
    ∧ (∀ (s : State) (l : BitVec 2) (a : BitVec 5) (e : BitVec 17) (c : BitVec 12) (f : BitVec 10), Unvoted s →
        let start := fun (n : DWord) (words : Nat) =>
          let last := s.me.a + BitVec.ofNat 64 (4 * words)
          let n := s.loopCount l n
          let x : Stream := { s.me with lp := s.me.lp.set l.toNat ⟨n, s.me.a + 4, last⟩ l.isLt }
          if n = 0 then s.setMe { x with pc := last + 4, waiting := none } else s.setMe x.next
        (s.jobOf s.cur = none → ∀ n, s.loopCount l n = n)
        ∧ (e = 0 → exec (.loop l a e) s = .next (takeTrap s ⟨.illegal, none, .std 0 0, .none⟩))
        ∧ (f = 0 → exec (.loopi l c f) s = .next (takeTrap s ⟨.illegal, none, .std 0 0, .none⟩))
        ∧ (e ≠ 0 → exec (.loop l a e) s = .next (start (s.rg a) e.toNat))
        ∧ (f ≠ 0 → exec (.loopi l c f) s = .next (start (BitVec.ofNat 64 c.toNat) f.toNat))))
  ∧ (∀ (s : State) (l : BitVec 2) (m : BitVec 5), Unvoted s →
      let k := s.me.lp[l.toNat]'(l.isLt)
      (k.count = 0 → exec (.leave l 0 0) s = .next (passed s))
      ∧ (m ≠ 0 → exec (.leave l 0 m) s = .next (takeTrap s ⟨.illegal, none, .std 0 0, .none⟩))
      ∧ (k.count ≠ 0 → ∃ t, exec (.leave l 0 0) s = .next t ∧ t.me.pc = k.stop + 4
          ∧ (∀ n : Fin 4, (n.val = l.toNat ∨ (k.start ≤ (s.me.lp.get n).start ∧ (s.me.lp.get n).start ≤ k.stop
                ∧ k.start ≤ (s.me.lp.get n).stop ∧ (s.me.lp.get n).stop ≤ k.stop) → (t.me.lp.get n).count = 0)
              ∧ (¬(n.val = l.toNat ∨ (k.start ≤ (s.me.lp.get n).start ∧ (s.me.lp.get n).start ≤ k.stop
                ∧ k.start ≤ (s.me.lp.get n).stop ∧ (s.me.lp.get n).stop ≤ k.stop)) → t.me.lp.get n = s.me.lp.get n))
          ∧ { t with streams := s.streams } = s)
      ∧ (exec (.leave l 1 m) s = .next (leaveLoop l (squash m s)) ∧ (squash m s).me.gen = s.me.gen + 1)
      ∧ (∀ (c : Nat) (e : Nat) (u : UnitId) (q : Queued), c ∈ s.squashCores → e < 5 → bit m.toNat e = true → (coreUnits c)[e]? = some u →
          s.coreOf u = c → u ≠ s.cur → (s.stream u).queued = some q → q.tag = s.me.gen → q.started = false →
          ((squash m s).stream u).queued = none ∧ (s.stream u).cmdIndex < ((squash m s).stream u).cmdIndex)
      ∧ (∀ (u : UnitId), u ≠ s.cur → (∀ q, (s.stream u).queued = some q → q.tag ≠ s.me.gen ∨ q.started = true) →
          (squash m s).stream u = s.stream u))
  ∧ (∀ (s : State) (c : Nat) (u : UnitId) (q : Queued) (p : Endpoint) (f : State → Nat → Nat → Nat), (s.stream u).queued = some q →
      q.started = false → p ∈ maskEnds u.endpoint q.pushes →
      let before := (s.core c).queue u.endpoint p
      let after := ((s.squashQueued c u q.tag f).core c).queue u.endpoint p
      after.toks ++ after.squash = before.toks ++ before.squash ++ [⟨q.tag, true, Clock.empty⟩])

/-- R121, R122: a triple-issued word whose copies agree, or disagree in one, takes effect once, with a record of the vote in the
second case; where no two agree it raises TMR_SPLIT with EINFO 0 and writes nothing else. The data that a load returns is voted again:
where no two copies of it agree, the load writes no register and raises TMR_SPLIT. -/
def Obligations.TripleIssue : Prop :=
  (∀ (s : State) (d a b : BitVec 5), s.me.pfx.tmr = true →
    (Tab.find? s.tmrUpset (s.cur, false) = none → exec (.add d a b) s = .next (wrote s d (s.rg a + s.rg b)))
    ∧ (Tab.find? s.tmrUpset (s.cur, false) = some false →
        let u := { s with tmrUpset := Tab.erase s.tmrUpset (s.cur, false) }
        exec (.add d a b) s
          = .next (wrote (u.record (logicEvent 11 0 (u.unitCode u.cur) (u.cardCode u.cur))) d (s.rg a + s.rg b)))
    ∧ (Tab.find? s.tmrUpset (s.cur, false) = some true →
        exec (.add d a b) s
          = .next (takeTrap { s with tmrUpset := Tab.erase s.tmrUpset (s.cur, false) } ⟨.tmrSplit, some 0, .std 6 0, .none⟩)))
  ∧ (∀ (s t : State) (d : BitVec 5) (h : BitVec 4) (a : BitVec 5) (z : BitVec 2) (o : BitVec 8), s.me.pfx.tmr = true →
      Tab.find? s.tmrUpset (s.cur, false) = none → loadVia s .plain d h a z o = .ok t →
      (Tab.find? s.tmrUpset (s.cur, true) = some true →
        exec (.ld d h a z o) s
          = .next (takeTrap { s with tmrUpset := Tab.erase s.tmrUpset (s.cur, true) } ⟨.tmrSplit, some 0, .std 6 0, .none⟩))
      ∧ (Tab.find? s.tmrUpset (s.cur, true) = none → Tab.find? t.tmrUpset (t.cur, true) = none →
        exec (.ld d h a z o) s = .next t))

/-! ### Tokens, meeting points, system instructions (spec/03) -/

/-- R106 to R108: TKWAIT takes the head of the queue that is tagged with the stream's generation, an acquire where the token is
real; a queue closed for the generation offers a void token. TKSIG, once everything its stream accessed before is performed, pushes one real token with the
stream's generation; a queue of 16 tokens raises TOKEN_OVERFLOW with EINFO the endpoint. -/
def Obligations.TokenWords : Prop :=
  (∀ (s : State) (d : BitVec 5) (c : BitVec 1) (e : BitVec 3) (k : Nat) (self p : Endpoint), Unvoted s →
      tokenPlace s c e = .ok (k, self, p) → lining s = .ok () → s.earlierWaiter c e = false →
      let s' := s.discardInto k self [p] s.me.gen
      (∀ t, s'.offer k p self s.me.gen = .head t →
        let u := s'.setCore k ((s'.core k).setQueue p self ((s'.core k).queue p self).pop)
        exec (.tkwait d c e) s
          = .next (wrote (if t.isVoid then u else u.acquire (u.agentOf u.cur) t.clock) d
              (BitVec.ofNat 64 (t.tag.toNat + if t.isVoid then 256 else 0))))
      ∧ (s'.offer k p self s.me.gen = .closed →
        exec (.tkwait d c e) s = .next (wrote s' d (BitVec.ofNat 64 (s.me.gen.toNat + 256)))))
  ∧ (∀ (s : State) (c : BitVec 1) (e : BitVec 3) (k : Nat) (self p : Endpoint), Unvoted s →
      tokenPlace s c e = .ok (k, self, p) → lining s = .ok () → s.allPerformed s.cur = true →
      let q := (s.core k).queue self p
      (q.toks.length + q.reserved < 16 →
        exec (.tksig c e) s
          = .next (passed (s.setCore k ((s.core k).setQueue self p { q with toks := q.toks ++ [⟨s.me.gen, false, s.releaseNow (s.agentOf s.cur)⟩] }))))
      ∧ (16 ≤ q.toks.length + q.reserved →
        exec (.tksig c e) s = .next (takeTrap s ⟨.tokenOverflow, some (BitVec.ofNat 64 e.toNat), .std 5 0, .none⟩)))

/-- R109 to R113: RDV, SWPT, PPOINT and GFENCE in a control context or the TE stream raise ILLEGAL. In a stream of a job RDV and
SWPT reach their meeting point and stand there; GFENCE goes to a younger generation; PPOINT goes on, or, while a checkpoint looks for
stop points, is one, at which the stream stands (R446). -/
def Obligations.MeetingPoints : Prop :=
  (∀ (s : State) (n : BitVec 8) (m : BitVec 24), Unvoted s → s.cur.isEngine = false →
      ∀ i ∈ [Instr.rdv n, .swpt n, .ppoint m, .gfence n],
        exec i s = .next (takeTrap s ⟨.illegal, none, .std 0 0, .none⟩))
  ∧ (∀ (s : State) (n : BitVec 8) (m : BitVec 24) (j : Nat) (jb : Job), Unvoted s → inJob s = .ok (j, jb) →
      (n.toNat < cardRdvn jb.words → exec (.rdv n) s = .next (s.setMe { s.me with run := .parked (.rdv n.toNat) }))
      ∧ (cardRdvn jb.words ≤ n.toNat →
          exec (.rdv n) s = .next (takeTrap s ⟨.illegal, none, .std 0 0, .none⟩))
      ∧ (0 < cardSched jb.words → cardSched jb.words < 128 → n.toNat < 64 →
          exec (.swpt n) s = .next (s.setMe { s.me with run := .parked (.swpt n.toNat) }))
      ∧ (1 ≤ (n - s.me.gen).toNat → (n - s.me.gen).toNat ≤ 127 →
          ∃ t, exec (.gfence n) s = .next t ∧ t.me.gen = n ∧ t.me.pc = s.me.next.pc ∧ { t with streams := s.streams } = s
            ∧ ∀ r, t.me.rg r = s.me.rg r)
      ∧ ((n - s.me.gen).toNat = 0 ∨ 127 < (n - s.me.gen).toNat →
          exec (.gfence n) s = .next (takeTrap s ⟨.illegal, none, .std 0 0, .none⟩))
      ∧ (s.cutPending s.cur = false → exec (.ppoint m) s = .next (passed s))
      ∧ (s.cutPending s.cur = true →
          exec (.ppoint m) s = .next (s.setMe { s.me with run := .parked (.stop m true) })))

/-- R114: TRAP enters the trap path as a software trap: CODE 0, EINFO its operand, EPC the following instruction. -/
def Obligations.TrapInstruction : Prop :=
  ∀ (s : State) (c : BitVec 8), Unvoted s →
    ∃ t, exec (.trap c) s = .next t
      ∧ t = s.raise s.cur 0 false (s.me.a + 4) (BitVec.ofNat 64 c.toNat) (s.engineWord s.cur 0 0)
      ∧ (t.stream s.cur).cause = BitVec.ofNat 64 (s.cur.engCode * 2 ^ 12)
      ∧ (t.stream s.cur).einfo = BitVec.ofNat 64 c.toNat ∧ (t.stream s.cur).epc = s.me.a + 4
      ∧ (t.stream s.cur).ecmd = BitVec.ofNat 64 s.me.cmdIndex ∧ (t.stream s.cur).eword = s.engineWord s.cur 0 0
      ∧ (t.stream s.cur).pc = s.me.pc ∧ (∀ n, (t.stream s.cur).rg n = s.me.rg n)
      ∧ (∀ i k, s.cur = .ctx i k → (t.stream s.cur).run = .held (3 * i + k.num))

/-- R115: ERET clears TH and continues at EPC; CAUSE, EINFO, ECMD and EWORD keep their values; outside a handler it is
ILLEGAL. -/
def Obligations.ExceptionReturn : Prop :=
  ∀ s : State, Unvoted s →
    (s.me.th = true → ∃ t, exec .eret s = .next t ∧ t.me.th = false ∧ t.me.pc = s.me.epc ∧ t.me.epc = s.me.epc
      ∧ t.me.cause = s.me.cause ∧ t.me.einfo = s.me.einfo ∧ t.me.ecmd = s.me.ecmd ∧ t.me.eword = s.me.eword
      ∧ (∀ n, t.me.rg n = s.me.rg n) ∧ t.mem = s.mem)
    ∧ (s.me.th = false → exec .eret s = .next (takeTrap s ⟨.illegal, none, .std 0 0, .none⟩))

/-- R116 to R120: MFS of a listed register, MTS of one, CYC, HALT and NOP; HALT stops the stream, and leaves its registers and the
memory alone. R76, R117, R77: what MTS makes of the registers below 0x100: a read-only one (JOBID, COREID, LEVEL, IMLIM, PI)
keeps its value, STAT's OFL and SAT are cleared where 1 is written, TP keeps 10 bits, VT 6, GEN 8, CAUSE its fields. -/
def Obligations.SystemWords : Prop :=
  ((∀ (s : State) (d a : BitVec 5) (i : BitVec 14), Unvoted s →
        (∀ v, s.sysRead s.cur i.toNat = some v → exec (.mfs d i) s = .next (wrote s d v))
        ∧ ((s.sysRead s.cur i.toNat).isSome → lining s = .ok () → (i = 0x020 → dbits (s.rg a) 3 0 < 8) →
            exec (.mts a i) s = .next (passed (s.setMe (s.me.sysWrite i.toNat (s.rg a)))))
        ∧ exec (.cyc d) s = .next (wrote s d (BitVec.ofNat 64 (s.now / 10)))
        ∧ exec .halt s = .next (s.haltStream s.cur)
        ∧ exec .nop s = .next (passed s))
    ∧ (∀ s t : State, Unvoted s → exec .halt s = .next t →
        t.me.run = .halted ∧ t.me.queued = none ∧ t.mem = s.mem ∧ (∀ n, t.me.rg n = s.me.rg n) ∧ t.me.pc = s.me.pc))
  ∧ (∀ (x : Stream) (v : DWord),
      (∀ i ∈ [0x040, 0x041, 0x043, 0x044, 0x060], x.sysWrite i v = x)
      ∧ x.sysWrite 0x000 v = { x with ofl := x.ofl && !v.getLsbD 9, sat := x.sat && !v.getLsbD 8 }
      ∧ (x.sysWrite 0x001 v).cause = v &&& 0xF1FF ∧ (x.sysWrite 0x002 v).epc = v ∧ (x.sysWrite 0x003 v).einfo = v
      ∧ (x.sysWrite 0x004 v).ecmd = v ∧ (x.sysWrite 0x005 v).eword = v
      ∧ (∀ n : Fin 8, n ≠ 0 → (x.sysWrite (0x010 + n.val) v).tp.get n = v &&& 0x3FF)
      ∧ (x.sysWrite 0x020 v).vt = v &&& 0x3F ∧ (x.sysWrite 0x021 v).wto = v
      ∧ (∀ n : Fin 4, ((x.sysWrite (0x030 + n.val) v).lp.get n).count = v)
      ∧ (x.sysWrite 0x042 v).gen = v.setWidth 8
      ∧ ∀ i, (x.sysWrite i v).g = x.g ∧ (x.sysWrite i v).pc = x.pc ∧ (x.sysWrite i v).th = x.th)

/-! ### Handles and memory (spec/04) -/

/-- R86: the checks that a handle's use makes, in their order, each with its cause and EINFO: it waits while the walk goes on, and raises
what the walk ended in, with the walk's report, unless it is revoked. R125, R127, R128: TRANS makes a
handle, one that is pending, or faulted where no walk can start; HREL releases one, HCHK reads its word; none runs in an MX stream (R123). -/
def Obligations.Handles : Prop :=
  (∀ (s : State) (n : BitVec 4) (off size : Nat) (w : Bool),
      (s.me.hr n = none →
        handle s n off size w true = .error (.trap ⟨.handleInvalid, some (BitVec.ofNat 64 n.toNat), .std 0 0, .none⟩))
      ∧ (∀ (h : Handle) (y : Walk), s.me.hr n = some h → h.state = .pending y → handle s n off size w true = .error (.wait s))
      ∧ (∀ (h : Handle) (c : Cause) (r : DWord) (va b : Nat), s.me.hr n = some h → h.state = .walkfault c r va b →
        (h.revoked = true →
          handle s n off size w true = .error (.trap ⟨.handleRevoked, some (BitVec.ofNat 64 n.toNat), .std 0 0, .none⟩))
        ∧ (h.revoked = false →
          handle s n off size w true = .error (.trap ⟨c, some (BitVec.ofNat 64 (va + off)), .raw r, .none⟩)))
      ∧ ∀ (h : Handle) (p : Page), s.me.hr n = some h → h.state = .valid p →
        let e := BitVec.ofNat 64 (p.va + off)
        (h.revoked = true →
          handle s n off size w true = .error (.trap ⟨.handleRevoked, some (BitVec.ofNat 64 n.toNat), .std 0 0, .none⟩))
        ∧ (h.revoked = false →
          (2 ^ p.bits < off + size → handle s n off size w true = .error (.trap ⟨.handleBound, some e, .std 0 0, .none⟩))
          ∧ (off + size ≤ 2 ^ p.bits →
            (off % size ≠ 0 → handle s n off size w true = .error (.trap ⟨.misalign, some e, .std 0 0, .none⟩))
            ∧ (off % size = 0 →
              (w = true → p.trellis = true →
                handle s n off size w true = .error (.trap ⟨.trellisWrite, some e, .std 0 0, .none⟩))
              ∧ (w = true → p.trellis = false → p.writable = false →
                handle s n off size w true = .error (.trap ⟨.permission, some e, .std 0 0, .none⟩))
              ∧ ((w = true → p.trellis = false ∧ p.writable = true) → p.sysCount = false →
                handle s n off size w true = .ok (h, p))))))
  ∧ (∀ (s : State) (h : BitVec 4) (a d : BitVec 5), Unvoted s →
      (s.cur.half ≠ .mx →
        exec (.trans h a) s = .next (passed (s.setMe (s.me.wh h (some (s.newHandle s.rootIx s.cur.isCtx (s.rg a))))))
        ∧ exec (.hrel h) s = .next (passed (s.setMe (s.me.wh h none)))
        ∧ exec (.hchk d h) s = .next (wrote s d (BitVec.ofNat 64 (hchkWord (s.me.hr h)))))
      ∧ (s.cur.half = .mx → ∀ i ∈ [Instr.trans h a, .hrel h, .hchk d h],
          exec i s = .next (takeTrap s ⟨.illegal, none, .std 0 0, .none⟩)))
  ∧ (∀ (s : State) (root : Nat) (v : DWord),
      let va := v.toNat % 2 ^ 56
      let made := fun (st : HandleState) => s.newHandle root false v = ⟨root, v, st, false⟩
      (dbits v 63 56 ≠ 0 → made (.walkfault .permission 0 (va / 2 ^ 16 * 2 ^ 16) 16))
      ∧ (dbits v 63 56 = 0 →
        ((s.rootOf root).toNat % 2 = 0 → made (.walkfault .pageNotResident (walkReport 3 1 0 0) (va / 2 ^ 16 * 2 ^ 16) 16))
        ∧ ((s.rootOf root).toNat % 2 = 1 → badRoot (s.rootOf root).toNat = false →
            made (.pending ⟨3, bits (s.rootOf root).toNat 47 13 * 2 ^ 13, 0, 0⟩))))
  ∧ (hchkWord none = 0 ∧ ∀ h : Handle,
      (∀ y, h.state = .pending y → hchkWord (some h) = 2)
      ∧ (∀ c r va b, h.state = .walkfault c r va b → hchkWord (some h) / 2 ^ 17 = 2 * c.code + 1)
      ∧ (∀ p, h.state = .valid p → hchkWord (some h) % 2 = (if h.revoked then 0 else 1)))

/-- R132, R133: the loads. What is read is the bytes at the access's addresses, least significant first, zero-extended, for each kind of
load as it sees memory; a byte written under another HASH is a free value (R367). R301: a load returns a byte of memory, or one that a
write which nothing has ordered before it replaced; one that is bound to see every write of its bytes returns memory's. An LDA orders the agent's own accesses, and
what the release that it finds has released to it, before what follows it (R298 to R300). R306: LDRO of a core's stream is bound to see only what its read-only path must (log entries 10
and 12). R130, R450: a load of a byte that cannot be corrected raises UNCORRECTABLE at the VA of the access and writes no register. -/
def Obligations.Loads : Prop :=
  (∀ (s : State) (d : BitVec 5) (h : BitVec 4) (a : BitVec 5) (z : BitVec 2) (o : BitVec 8) (x : Access), Unvoted s →
      s.cur.half ≠ .mx → access s h (s.smOff a o z) (2 ^ z.toNat) false = .ok x → x.go s = .ok () →
      (s.firstBad x.pas = none →
        let loaded := fun (kind : LoadKind) =>
          let r := (s.noteReads s.cur x.pas (some x.page.hash)).loadBytes kind x
          let q := r.1.hashBytes x.page.hash x.pas r.2
          wrote q.1 d (BitVec.ofNat 64 (leNat q.2))
        exec (.ld d h a z o) s = .next (loaded .plain) ∧ exec (.lda d h a z o) s = .next (loaded .acquire)
        ∧ exec (.ldro d h a z o) s = .next (loaded .readOnly))
      ∧ (∀ n, s.firstBad x.pas = some n →
          let pa := x.pas.getD n 0
          let bad : Trap := ⟨.uncorrectable, some x.va, .std 1 0,  .errorRecord (badKind pa) (codewordOf (s.direct pa)) (some x.page.hash)⟩
          ∀ i ∈ [Instr.ld d h a z o, .lda d h a z o, .ldro d h a z o], exec i s = .next (takeTrap s bad)))
  ∧ (∀ (s : State) (x : Access),
      let keys := x.pas.map s.direct
      let self := s.agentOf s.cur
      let early := s.unbound self (s.view self).now keys
      let ro := (s.writesOf keys).takeWhile fun e => !s.roBound (s.coreOf s.cur) (s.me.job.getD 0) e
      let pathed : Prop := s.cur.isEngine = true ∧ x.page.ltype = 0
      (∀ kind : LoadKind, (kind = .readOnly → ¬pathed) → (x.page.ltype ≠ 0 ∨ early = []) → (s.loadBytes kind x).2 = x.pas.map s.rd)
      ∧ (∀ (kind : LoadKind) (i : Nat) (b : Byte), (kind = .readOnly → ¬pathed) → (s.loadBytes kind x).2[i]? = some b →
          ∃ pa : Nat, x.pas[i]? = some pa ∧ (b = s.rd pa ∨ ∃ e ∈ early, e.before (s.direct pa) = some b))
      ∧ (pathed → (ro = [] → (s.loadBytes .readOnly x).2 = x.pas.map s.rd)
          ∧ ∀ (i : Nat) (b : Byte), (s.loadBytes .readOnly x).2[i]? = some b →
            ∃ pa : Nat, x.pas[i]? = some pa ∧ (b = s.rd pa ∨ ∃ e ∈ ro, e.before (s.direct pa) = some b))
      ∧ (s.cmdSeq ≤ ((s.loadBytes .acquire x).1.view self).now.get self x.page.scope)
      ∧ (x.page.ltype = 0 → early = [] → ∀ e l, (s.writesOf keys)[0]? = some e → e.writer.rel = some l →
          s.observes l e.writer.who self = true → Acquired (s.loadBytes .acquire x).1 self e.writer.clock))

/-- R130, R134: a store of an untyped page is accepted: its bytes, at the addresses of its access, least significant first, wait
to be performed (but for those of the profile ring, whose fields ignore writes, R318); the numbers of their sectors advance (R455); the
memory and every register but the PC stay. STL's is a release. In an engine stream it needs one of the 64
tracker entries (R287). R130: an accepted write that may be performed is performed: its bytes are in memory, every other byte
is as before, it is no longer outstanding, and it has the next place in the order of writes (R131). -/
def Obligations.Stores : Prop :=
  (∀ (s : State) (r : BitVec 5) (h : BitVec 4) (a : BitVec 5) (z : BitVec 2) (o : BitVec 8) (x : Access) (rel : Bool), Unvoted s →
      s.cur.half ≠ .mx → access s h (s.smOff a o z) (2 ^ z.toNat) true = .ok x → x.page.ltype = 0 → x.go s = .ok () →
      (s.cur.isEngine = true → s.trackerUsed (s.coreOf s.cur) < 64) →
      ∃ t p, exec (if rel then .stl r h a z o else .st r h a z o) s = .next t ∧ t.pending = s.pending ++ [p]
        ∧ p.who = s.cur ∧ p.isRelease = rel ∧ p.va = x.va.toNat
        ∧ p.bytes = numberAt x.pas (2 ^ z.toNat) (s.rg r).toNat
        ∧ t.me = s.me.next ∧ t.mem = s.mem ∧ (∀ n, t.me.rg n = s.me.rg n)
        ∧ { t with streams := s.streams, pending := s.pending, cmdSeq := s.cmdSeq, seqNums := s.seqNums } = s)
  ∧ (∀ (s : State) (pos : Nat) (p : Pending), s.pending[pos]? = some p → s.mayPerform pos p = true → Mem.wf s.mem = true →
      ∃ t, exec (.writePerformed pos) s = .next t ∧ t.pending = s.pending.eraseIdx pos ∧ Mem.wf t.mem = true
        ∧ (∀ a, (∀ c ∈ p.bytes, s.direct c.1 ≠ a) → Mem.get t.mem a = Mem.get s.mem a)
        ∧ ((p.bytes.map fun c => s.direct c.1).Nodup → ∀ c ∈ p.bytes, Mem.get t.mem (s.direct c.1) = c.2)
        ∧ t.histNow = s.histNow + 1 ∧ t.streams = s.streams ∧ t.now = s.now)

/-- R85: Join is the least upper bound of the order that Geq decides, for values that fit the cell. -/
def Obligations.LatticeLaws : Prop :=
  ∀ t a b c : Nat, 1 ≤ t → t ≤ 8 → a < 2 ^ (8 * accessSize t) → b < 2 ^ (8 * accessSize t) → c < 2 ^ (8 * accessSize t) →
    join t a a = a ∧ join t a b = join t b a ∧ join t (join t a b) c = join t a (join t b c)
    ∧ geq t (join t a b) a = true ∧ (geq t a b = true ↔ join t a b = a) ∧ join t a b < 2 ^ (8 * accessSize t)

/-- R141: AMO reads the old value into g[d] and writes the new one in one step, for each of its eight operations, once everything its
stream accessed before is performed; it is a release at the scope of its page, and an acquire of what the writes that it finds have released. A size below 4 bytes is ILLEGAL, a lattice page
raises LATTICE_TYPE. -/
def Obligations.AtomicOperations : Prop :=
  ∀ (s : State) (d : BitVec 5) (h : BitVec 4) (a b : BitVec 5) (p : BitVec 3) (z : BitVec 2) (x : Access), Unvoted s →
    s.cur.half ≠ .mx →
    (z.toNat < 2 → exec (.amo d h a b p z) s = .next (takeTrap s ⟨.illegal, none, .std 0 0, .none⟩))
    ∧ (2 ≤ z.toNat → access s h (s.rg a).toNat (2 ^ z.toNat) true = .ok x →
      (x.page.ltype ≠ 0 → exec (.amo d h a b p z) s = .next (takeTrap s ⟨.latticeType, some x.va, .std 0 0, .none⟩))
      ∧ (x.page.ltype = 0 → x.go s = .ok () → s.allPerformed s.cur = true →
        (s.cur.isEngine = true → s.trackerUsed (s.coreOf s.cur) < 64) → s.firstBad x.pas = none → s.ecc = [] → s.hashed = false →
        let n := 2 ^ z.toNat
        let old := leNat (x.pas.map s.rd)
        let vb := (s.rg b).toNat % 2 ^ (8 * n)
        let vd := (s.rg d).toNat % 2 ^ (8 * n)
        let new := if p = 0 then (old + vb) % 2 ^ (8 * n) else if p = 1 then vb else if p = 2 then max old vb
          else if p = 3 then min old vb else if p = 4 then old &&& vb else if p = 5 then old ||| vb
          else if p = 6 then old ^^^ vb else if old = vd then vb else old
        let self := s.agentOf s.cur
        let keys := x.pas.map s.direct
        ∃ t, exec (.amo d h a b p z) s = .next t ∧ t.me = (s.me.wg d (BitVec.ofNat 64 old)).next
          ∧ t.mem = written s (numberAt x.pas n new)
          ∧ (∃ e, t.hist = e :: s.hist ∧ e.writer.who = self ∧ e.writer.rel = some x.page.scope ∧ e.writer.at_ = s.cmdSeq)
          ∧ Acquired t self (s.releasedBy self (sources (s.writesOf keys) keys))
          ∧ s.cmdSeq + 1 ≤ (t.view self).now.get self x.page.scope
          ∧ { t with streams := s.streams, mem := s.mem, hist := s.hist, hashed := s.hashed, ecc := s.ecc, seqNums := s.seqNums,
                     counts := s.counts, views := s.views, cmdSeq := s.cmdSeq, triggers := s.triggers } = s))

/-- R137: a lock is named by a scratchpad frame of no lattice type; other frames raise PERMISSION, lattice pages LATTICE_TYPE. R138,
R139: LDLK of a free lock takes it with the load; a lock of the stream's own, or a third one, raises LOCK_SELF. STUL's store frees
the lock when it is performed, if the stream held it. LOCK_GRANT gives a lock that nobody holds to the stream that has waited longest for it.
R140: the locks of a stream that halts leave it. -/
def Obligations.Locks : Prop :=
  ((∀ (s : State) (x : Access),
      (kindOf x.page.pa ≠ 2 → lockPlace s x = .error (.trap ⟨.permission, some x.va, .std 0 0, .none⟩))
      ∧ (kindOf x.page.pa = 2 → x.page.layout = none →
        (x.page.ltype ≠ 0 → lockPlace s x = .error (.trap ⟨.latticeType, some x.va, .std 0 0, .none⟩))
        ∧ (x.page.ltype = 0 → let off := x.pas.getD 0 0 % 2 ^ 25
            lockPlace s x = .ok (s.coreKey (x.pas.getD 0 0), off / 2 ^ 7 % 32, off / 2 ^ 3 % 64 ^^^ off / 2 ^ 9 % 64))))
    ∧ (∀ (s : State) (d : BitVec 5) (h : BitVec 4) (a : BitVec 5) (z : BitVec 2) (o : BitVec 8) (x : Access) (c b n : Nat),
        Unvoted s → s.cur.half ≠ .mx → s.cur.half ≠ .te → x.go s = .ok () → lockPlace s x = .ok (c, b, n) →
        (access s h (s.smOff a o z) (2 ^ z.toNat) false = .ok x →
          ((2 ≤ (s.locksOf s.cur).length ∨ ∃ l ∈ s.locksOf s.cur, l.1 = c ∧ l.2.bank = b ∧ l.2.bit = n) →
            exec (.ldlk d h a z o) s = .next (takeTrap s ⟨.lockSelf, some x.va, .std 0 0, .none⟩))
          ∧ ((s.locksOf s.cur).length < 2 → (∀ l ∈ s.locksOf s.cur, ¬(l.1 = c ∧ l.2.bank = b ∧ l.2.bit = n)) →
              s.firstBad x.pas = none → s.ecc = [] → s.hashed = false →
              (s.lockAt c b n = none ∧ (∀ w ∈ (s.core c).lockWaiters, w.1 ≠ b ∨ w.2.1 ≠ n ∨ w.2.2 = s.cur)
                ∨ ∃ l, s.lockAt c b n = some l ∧ l.owner = s.cur ∧ l.granted = true) →
              ∃ t, exec (.ldlk d h a z o) s = .next t ∧ t.me = (s.me.wg d (BitVec.ofNat 64 (leNat (x.pas.map s.rd)))).next
                ∧ (∃ k ∈ (t.core c).locks, k.bank = b ∧ k.bit = n ∧ k.owner = s.cur ∧ k.granted = false)
                ∧ s.cmdSeq ≤ (t.view (s.agentOf s.cur)).now.get (s.agentOf s.cur) x.page.scope
                ∧ { t with streams := s.streams, cores := s.cores, counts := s.counts, views := s.views } = s))
        ∧ (access s h (s.smOff a o z) (2 ^ z.toNat) true = .ok x → (s.cur.isEngine = true → s.trackerUsed (s.coreOf s.cur) < 64) →
            ∃ t p, exec (.stul d h a z o) s = .next t ∧ t.pending = s.pending ++ [p] ∧ p.who = s.cur ∧ p.isRelease = true
              ∧ t.mem = s.mem ∧ t.me = s.me.next
              ∧ p.bytes = numberAt x.pas (2 ^ z.toNat) (s.rg d).toNat
              ∧ p.frees = (if (s.locksOf s.cur).any fun l => decide (l.1 = c) && decide (l.2.bank = b) && decide (l.2.bit = n)
                  then some (c, b, n) else none))))
  ∧ ((∀ (s : State) (c b n : Nat) (w : Nat × Nat × UnitId), s.lockAt c b n = none →
      ((s.core c).lockWaiters.find? fun w => decide (w.1 = b) && decide (w.2.1 = n)
        && decide ((s.stream w.2.2).run = .running) && (s.stream w.2.2).waiting.isSome) = some w →
      exec (.lockGrant c b n) s = .next (s.takeLock c b n w.2.2 true))
    ∧ (∀ (s : State) (pos c b n : Nat) (p : Pending), s.pending[pos]? = some p → s.mayPerform pos p = true →
        p.frees = some (c, b, n) →
        ∃ t, exec (.writePerformed pos) s = .next t ∧ ∀ l ∈ (t.core c).locks, ¬(l.bank = b ∧ l.bit = n ∧ l.owner = p.who))
    ∧ (∀ (s : State) (u : UnitId) (c : Nat), ∀ l ∈ ((s.haltStream u).core c).locks, l.owner = u → l.leaving.isSome = true))

/-- R142 to R144: LOOKUP finds the slot of a valid way (what filled it is acquired, R292), −2 for one that fills, −1 for none; TAGSET
puts a valid way where its set has room and is ILLEGAL where it has none; TAGCLR makes the ways of a slot invalid; a slot number that is not
below 6144 is ILLEGAL. -/
def Obligations.TagTable : Prop :=
  ∀ (s : State) (d a b : BitVec 5) (c : Nat), Unvoted s → onlyCore s = .ok c →
    (∀ w, wayOf (s.core c).ways (s.rg a).toNat = some w →
      (w.state = .valid → exec (.lookup d a) s
        = .next (wrote (match w.clock with
            | none => s
            | some k => s.acquire (s.agentOf s.cur) k) d (BitVec.ofNat 64 w.slot)))
      ∧ (w.state ≠ .valid → exec (.lookup d a) s = .next (wrote s d (BitVec.ofInt 64 (-2)))))
    ∧ (wayOf (s.core c).ways (s.rg a).toNat = none → exec (.lookup d a) s = .next (wrote s d (BitVec.ofInt 64 (-1))))
    ∧ ((s.rg b).toNat < 6144 → ∀ ws, putWay (s.core c).ways (s.rg a).toNat (s.rg b).toNat .valid s.cmdSeq = some ws →
        exec (.tagset a b) s = .next (passed (s.setCore c { s.core c with ways := ws })))
    ∧ ((s.rg b).toNat < 6144 → putWay (s.core c).ways (s.rg a).toNat (s.rg b).toNat .valid s.cmdSeq = none →
        exec (.tagset a b) s = .next (takeTrap s ⟨.illegal, some (s.rg a), .std 0 0, .none⟩))
    ∧ (6144 ≤ (s.rg b).toNat → exec (.tagset a b) s = .next (takeTrap s ⟨.illegal, none, .std 0 0, .none⟩))
    ∧ ((s.rg a).toNat < 6144 →
        exec (.tagclr a) s = .next (passed (s.setCore c
          { s.core c with ways := (s.core c).ways.filter fun w => decide (w.slot ≠ (s.rg a).toNat) })))
    ∧ (6144 ≤ (s.rg a).toNat → exec (.tagclr a) s = .next (takeTrap s ⟨.illegal, none, .std 0 0, .none⟩))

/-- R146, R147: DRAIN completes when every copy into its path issued before it has, and their writes are ordered before what follows;
FENCE when the stream's earlier accesses of the kind are performed: a full one orders them, and what earlier full FENCEs whose scope and its own
include both agents have ordered, before the stream's later accesses (R302). A path above 5 and a kind above 2 are ILLEGAL. -/
def Obligations.DrainAndFence : Prop :=
  ∀ (s : State) (h : BitVec 4) (p : BitVec 3) (x : Handle) (g : Page), Unvoted s → s.cur.half ≠ .mx →
    (6 ≤ p.toNat → exec (.drain p) s = .next (takeTrap s ⟨.illegal, none, .std 0 0, .none⟩))
    ∧ (p.toNat < 6 → ∀ n, n = (match s.me.waiting with
          | some w => w.limit.getD s.cmdSeq
          | none => s.cmdSeq) →
      (∀ c ∈ (match s.cur with
          | .ctx i _ => if i < 16 then [2 * i, 2 * i + 1] else []
          | .te => []
          | u => [s.coreOf u]), s.drained c p.toNat n = true) →
      ∃ t, exec (.drain p) s = .next t ∧ t.me = s.me.next ∧ { t with streams := s.streams, views := s.views } = s
        ∧ ∀ c ∈ (match s.cur with
            | .ctx i _ => if i < 16 then [2 * i, 2 * i + 1] else []
            | .te => []
            | u => [s.coreOf u]), ∀ e ∈ s.hist, s.drainsAgent c p.toNat e.writer.who = true → ∀ q ∈ e.old,
          (if p = 5 then pkgOf q.1 ≠ s.pkg else onPath p.toNat (.mem q.1) = true) →
          e.seq < Tab.get (t.view (s.agentOf s.cur)).now.bytes q.1 0)
    ∧ (3 ≤ p.toNat → exec (.fence h p) s = .next (takeTrap s ⟨.illegal, none, .std 0 0, .none⟩))
    ∧ (s.me.hr h = some x → x.state = .valid g →
        let self := s.agentOf s.cur
        (s.allPerformed s.cur = true → ∃ t, exec (.fence h 0) s = .next t ∧ t.me = s.me.next
          ∧ { t with streams := s.streams, views := s.views, fences := s.fences } = s
          ∧ s.cmdSeq ≤ (t.view self).now.get self g.scope
          ∧ ∀ f ∈ s.fences, s.observes f.1.2 f.1.1 self = true → s.observes g.scope self f.1.1 = true → Acquired t self f.2)
        ∧ (s.storesPerformed s.cur = true → ∃ t, exec (.fence h 1) s = .next t ∧ t.me = s.me.next
          ∧ { t with streams := s.streams, views := s.views } = s ∧ s.cmdSeq ≤ (t.view self).now.get self g.scope)
        ∧ ((∀ c, s.cur = .eng .vl c → ∀ e ∈ (s.core c).lq, e.filled = true) → exec (.fence h 2) s = .next (passed s)))

/-- R135: a store to a lattice cell joins it at the replica of the executing site; one that would move the cell down raises NMS, an
answer of its acceptance. R150 to R152: LJOIN joins a cell at the executing site's replica, for GCNT64 by adding to the site's slot up to
the limit; LWAIT of a cell that has reached its threshold completes with the cell's value, an acquire; one that waits past its
timeout with whatever it is. -/
def Obligations.LatticeCells : Prop :=
  (∀ (s : State) (r : BitVec 5) (h : BitVec 4) (a : BitVec 5) (z : BitVec 2) (o : BitVec 8) (x : Access) (rel : Bool), Unvoted s →
      s.cur.half ≠ .mx → access s h (s.smOff a o z) (2 ^ z.toNat) true = .ok x → x.page.ltype ≠ 0 →
      let i := if rel then Instr.stl r h a z o else Instr.st r h a z o
      (2 ^ z.toNat ≠ accessSize x.page.ltype →
        exec i s = .next (takeTrap s ⟨.latticeType, some x.va, .std 0 0, .none⟩))
      ∧ (2 ^ z.toNat = accessSize x.page.ltype → x.go s = .ok () → (rel = true → s.allPerformed s.cur = true) →
          (s.cur.isEngine = true → s.trackerUsed (s.coreOf s.cur) < 64) →
        let v := (s.rg r).toNat % 2 ^ (8 * 2 ^ z.toNat)
        let pa := x.pas.getD 0 0
        let found := s.cellNat x.page.hash pa (2 ^ z.toNat)
        (geq x.page.ltype v found.2 = false →
          exec i s = .next (takeTrap s ⟨.nms, some x.va, .std 1 0, .none⟩))
        ∧ (geq x.page.ltype v found.2 = true → ∃ t, exec i s = .next t ∧ t.me = s.me.next
          ∧ t.mem = written s (cellsAt pa (leBytes (2 ^ z.toNat) (join x.page.ltype v found.2)))
          ∧ (∃ e, t.hist = e :: s.hist ∧ e.writer.who = s.agentOf s.cur ∧ e.writer.rel = if rel then some x.page.scope else none))
        ∧ (s.hashed = false → found = (s, s.rdNat pa (2 ^ z.toNat)))))
  ∧ ((∀ (s : State) (d : BitVec 5) (h : BitVec 4) (a b : BitVec 5) (z : BitVec 2) (x : Access), Unvoted s → s.cur.half ≠ .mx →
        let site := siteOf s.cur
        let pa := x.pas.getD 0 0
        let n := 2 ^ z.toNat
        (latticeCell s h a z true = .ok x → s.allPerformed s.cur = true →
          (s.cur.isEngine = true → s.trackerUsed (s.coreOf s.cur) < 64) →
          (x.page.ltype = 7 → let slot := x.pas.getD (8 * site) 0
            ∃ t, exec (.ljoin h a b z) s = .next t ∧ Joined s t x.page.scope
              ∧ t.mem = written s (cellsAt slot (leBytes 8 (min ((s.cellNat x.page.hash slot 8).2 + (s.rg b).toNat) (2 ^ 64 - 1)))))
          ∧ (x.page.ltype ≠ 7 → ∃ t, exec (.ljoin h a b z) s = .next t ∧ Joined s t x.page.scope
              ∧ t.mem = written s (cellsAt pa (leBytes n
                  (join x.page.ltype (s.cellNat x.page.hash pa n).2 ((s.rg b).toNat % 2 ^ (8 * n)))))))
        ∧ (latticeCell s h a z false = .ok x → s.firstBad x.pas = none →
            let r := (s.noteReads s.cur x.pas (some x.page.hash)).cellReached x n (s.rg b).toNat
            r.2.1 = true → exec (.lwait d h a b z) s = .next (awaited r d x)))
    ∧ (∀ (s : State) (u : UnitId) (w : Waiting) (l : Nat) (d : BitVec 5) (h : BitVec 4) (a b : BitVec 5) (z : BitVec 2) (x : Access),
        let t := { s with cur := u }
        (s.stream u).waiting = some w → w.limit = some l → l ≤ s.tick → s.mayRun u = true → u.half ≠ .mx →
        decode u.half (s.stream u).word = .ok (.lwait d h a b z) → Unvoted t →
        latticeCell t h a z false = .ok x → s.firstBad x.pas = none →
        exec (.lwaitTimeout u) s
          = .next (awaited ((t.noteReads u x.pas (some x.page.hash)).cellReached x (2 ^ z.toNat) (t.rg b).toNat) d x))
    ∧ (∀ (s : State) (x : Access) (n thr : Nat), s.hashed = false →
        s.cellReached x n thr = if x.page.ltype = 7 then (s, decide (thr ≤ slotSum (s.rdAll x.pas)), min (slotSum (s.rdAll x.pas)) (2 ^ 64 - 1))
          else let v := s.rdNat (x.pas.getD 0 0) n
            (s, geq x.page.ltype v (thr % 2 ^ (8 * n)), v)))

/-- R154: TRD of a weight of an image reads its header, its block's scale word, and the bytes that hold its window, and its entry of the
table where the image has one, and puts scale and weight into g[d]; those bytes hold the window that R51 takes from the whole stream.
R153: WINFO reads what a watch trigger left in the job it spawned, and 0 in any other stream of a core. -/
def Obligations.InfoAndTrellisRead : Prop :=
  ((∀ (s s1 s2 : State) (d : BitVec 5) (h : BitVec 4) (a b : BitVec 5) (x : Handle) (p : Page) (hd : TcwHeader) (sc : List Byte),
      Unvoted s → s.cur.half ≠ .mx →
      let v := s.rg b
      let o := (s.rg a).toNat
      let k := dbits v 23 0
      let n := dbits v 47 24
      let ob := o + hd.blockAt n (k / 256)
      let q := k % 256 / hd.mode.g
      let j := k % 256 % hd.mode.g
      dbits v 63 48 = 0 → handle s h o 64 false true = .ok (x, p) → lining s = .ok () →
      readTcwHeader s p o = .ok (s1, hd) → k < hd.k → n < hd.n → ob + hd.mode.bytes ≤ 2 ^ p.bits →
      readPage s1 p ob 4 = .ok (s2, sc) → bits (leNat sc) 31 20 = 0 →
      ∀ s3 bs, readOffs s2 p ((windowBytes hd.mode q).map (ob + 4 + ·)) = .ok (s3, bs) →
      let out := fun (w : Int) => BitVec.ofNat 64 (scaleOf (leNat sc) (k % 256) * 2 ^ 32 + unsignedOf w 32)
      let win := windowOf hd.mode q bs
      (hd.table = false → exec (.trd d h a b) s = .next ((s3.wg d (out (windowValue none win j))).retire))
      ∧ (hd.table = true → ∀ s4 e, readPage s3 p (o + 64 + bits (windowHash win j) 15 8) 1 = .ok (s4, [e]) →
          exec (.trd d h a b) s = .next ((s4.wg d (out e.toInt)).retire)))
    ∧ (∀ (code : Nat) (m : TcwMode) (blk : List Byte) (q : Nat), tcwMode code = some m → 8 * blk.length = m.m →
        windowOf m q ((windowBytes m q).map fun i => blk.getD i 0) = window m (leNat blk) q))
  ∧ (∀ (s : State) (d : BitVec 5) (f : BitVec 1) (c : Nat), Unvoted s → onlyCore s = .ok c →
      (∀ jb x y z, s.jobOf s.cur = some jb → jb.origin = .watch x y z →
        exec (.winfo d f) s = .next (wrote s d (if f = 0 then BitVec.ofNat 64 jb.pend else jb.lastVa)))
      ∧ (∀ jb, s.jobOf s.cur = some jb → (∀ x y z, jb.origin ≠ .watch x y z) → exec (.winfo d f) s = .next (wrote s d 0))
      ∧ (s.jobOf s.cur = none → exec (.winfo d f) s = .next (wrote s d 0)))

/-! ### Ports and the control core (spec/08) -/

/-- R269, R339, R340, R373, R375, R377, R404: the ports that are written, by a context whose lining core agrees; a write that is a
release comes after everything the context stored before. ABORT of a held unit ends its job with the code, every stream of it stopped, or halts
it where it has none, and frees its slot; another code is ignored. INVAL revokes the handles of the range and no others, and is outstanding.
MIGCMD starts a unit that is not busy; it ends one, at once or, where a cause has stopped it, once it has copied back (R458). BNCDONE frees the
record that its notice names, and hands the bytes of a read request to its transfer. HOSTIRQ pends a vector and sends its message; one that is pended already
does neither. -/
def Obligations.CommandPorts : Prop :=
  (∀ (s : State) (a : BitVec 5) (side : BitVec 1) (i : Nat) (k : Ctx), s.cur = .ctx i k → lining s = .ok () →
      let v := s.rg a
      (i < 16 → s.allPerformed s.cur = true → ∀ t, post s i k (dbits v 15 0) (2 * i + side.toNat) = .ok t →
        exec (.jqpush side a) s = .next t.retire)
      ∧ (16 ≤ i →
        (s.allPerformed s.cur = true → dbits v 9 8 = 0 →
          exec (.resumeRetry a) s = .next ((s.resume (dbits v 7 0) none).getD s).retire)
        ∧ (s.allPerformed s.cur = true → dbits v 9 8 = 1 →
          exec (.resumeHandler a) s = .next ((s.resume (dbits v 7 0) (some (BitVec.ofNat 64 (dbits v 49 32)))).getD s).retire)
        ∧ exec (.abort a) s = .next (s.abortUnit v).retire
        ∧ (dbits v 4 0 < 18 → s.invals.length < 64 → exec (.inval a) s
            = .next (s.startInval (dbits v 4 0)
                (dbits v 55 16 * 2 ^ 16 / 2 ^ invBits (dbits v 9 8) * 2 ^ invBits (dbits v 9 8)) (invBits (dbits v 9 8))).retire)
        ∧ (18 ≤ dbits v 4 0 → exec (.inval a) s = .next (passed s))
        ∧ (dbits v 1 0 = 1 → exec (.migcmdStart a) s = .next (s.migStart (v.getLsbD 4)).retire)
        ∧ (dbits v 1 0 = 2 → exec (.migcmdEnd a) s = .next s.migEnd.retire)
        ∧ (s.allPerformed s.cur = true → ∀ t, bncDone s v = .ok t → exec (.bncdone a) s = .next t.retire)
        ∧ (s.allPerformed s.cur = true →
            exec (.hostirq a) s = .next ((s.hostIrq v).acquire .host (s.releaseNow (s.agentOf s.cur) 3)).retire)))
  ∧ (∀ (s : State) (v : DWord) (y : Saved),
      let code := dbits v 15 8
      let slot := dbits v 7 0
      let t := s.abortUnit v
      (code = 0 ∨ 0x1B < code → t = s)
      ∧ ((∀ x ∈ s.saved, x.slot = slot → x.ending = true) → t = s)
      ∧ (1 ≤ code → code ≤ 0x1B → s.saved.find? (fun x => decide (x.slot = slot) && !x.ending) = some y →
          (s.stream y.unit).run = .held slot →
          (∀ x ∈ t.saved, x.slot ≠ slot)
          ∧ ((s.stream y.unit).job = none → (t.stream y.unit).run = .halted)
          ∧ (∀ j jb, (s.stream y.unit).job = some j → s.job? j = some jb →
              (∃ jb', t.job? j = some jb' ∧ jb'.ending = true ∧ jb'.cause = if jb.cause = 0 then code else jb.cause)
              ∧ ∀ u, (s.stream u).job = some j → (t.stream u).run.live = false)))
  ∧ (∀ (s : State) (root va b : Nat),
      let t := s.startInval root va b
      t.invals = s.invals ++ [⟨root, va, b, s.cmdSeq⟩]
      ∧ (∀ (u : UnitId) (n : BitVec 4) (h : Handle), (s.stream u).hr n = some h →
          let (hv, hb) := h.range
          (¬(h.root = root ∧ meets hv (2 ^ hb) va (2 ^ b) = true) → (t.stream u).hr n = some h)
          ∧ (h.root = root → meets hv (2 ^ hb) va (2 ^ b) = true → (∀ w, h.state ≠ .pending w) →
              (t.stream u).hr n = some { h with revoked := true }))
      ∧ (∀ (u : UnitId) (n : BitVec 4), (s.stream u).hr n = none → (t.stream u).hr n = none)
      ∧ (s.saved = [] → t.mem = s.mem) ∧ t.jobs = s.jobs ∧ t.pending = s.pending)
  ∧ (∀ (s : State) (big : Bool),
      let k := s.ports.migSel
      let m := s.mig k
      let t := s.migStart big
      let u := s.migEnd
      (m.busy = true → t = s) ∧ (m.busy = false → u = s)
      ∧ (m.busy = false → t.mig k = { m with big := big, busy := true, done := false, cause := 0, cursor := 0 }
          ∧ { t with migs := s.migs } = s)
      ∧ (m.busy = true → { u with migs := s.migs } = s
          ∧ ((m.cause = 0 ∨ m.cursor = 0) → u.mig k = { m with busy := false, ending := false })
          ∧ (m.cause ≠ 0 → m.cursor ≠ 0 → u.mig k = { m with ending := true })))
  ∧ (∀ (s : State) (v : DWord),
      let n := dbits v 61 59
      let is := fun (r : Bounce) => decide (r.recNo = dbits v 51 32) && decide (r.seq = dbits v 31 0) && decide (r.kind = dbits v 62 62)
      ((s.die n).bounces.find? is = none → bncDone s v = .ok s)
      ∧ (∀ r, (s.die n).bounces.find? is = some r →
          let dir := directoryPa n r.recNo
          (s.badAt dir = true → bncDone s v = .error (.trap ⟨.uncorrectable, none, .std 1 0, .errorRecord 10 dir none⟩))
          ∧ (s.badAt dir = false → ∃ t, bncDone s v = .ok t ∧ (t.die n).bounces = (s.die n).bounces.filter (fun x => !is x)
            ∧ t.streams = s.streams ∧ t.jobs = s.jobs
            ∧ (∀ i ix, r.kind = 1 → r.owner = .xfer i ix → s.ecc = [] → s.busBad = [] → ∀ e ∈ (s.lc i).scb, e.ix = ix →
                ∃ e' ∈ (t.lc i).scb, e'.ix = ix ∧ e'.supplied = e.supplied
                  ++ [(r.va, (List.range r.len).map fun k => s.rd (bouncePa s.pkg n (64 * r.recNo + 64 + k)))]))))
  ∧ (∀ (s : State) (v : DWord),
      let n := dbits v 5 0
      (s.host.irqPend.getLsbD n = true → s.hostIrq v = s)
      ∧ (s.host.irqPend.getLsbD n = false → (s.hostIrq v).host.irqPend.getLsbD n = true
          ∧ (s.hostIrq v).host.messages = s.host.messages ++ [n]
          ∧ (∀ m, m ≠ n → (s.hostIrq v).host.irqPend.getLsbD m = s.host.irqPend.getLsbD m)
          ∧ { s.hostIrq v with host := s.host } = s))

/-- R269, R270, R338, R375: the ports that are read: DONE gives the oldest completion entry of a served core and acquires its job's
writes (R271), FAULTQ the oldest notice (the slot that keeps an ended job's record is freed, R355), BNCQ the oldest bounce notice,
and what these describe in memory is acquired; each is 0 when there is none, and the entry leaves. R338, R371 (the firmware's ports): in a context of LC0 to LC15, and in every stream,
FAULTQ, RESUME, ABORT, INVAL, MIGCMD, BNCQ, BNCDONE and HOSTIRQ raise ILLEGAL; JQPUSH and DONE raise it in a context without served cores
and in every stream. -/
def Obligations.QueuePorts : Prop :=
  (∀ (s : State) (d : BitVec 5) (side : BitVec 1) (i : Nat) (k : Ctx), s.cur = .ctx i k →
      (i < 16 → let c := 2 * i + side.toNat
        exec (.done side d) s = .next (match (s.core c).done with
          | [] => wrote s d 0
          | (n, x) :: xs => wrote ((s.setCore c { s.core c with done := xs }).acquireWork (s.agentOf s.cur) (.job n)) d x))
      ∧ (16 ≤ i →
        let self := s.agentOf s.cur
        (s.faultq = [] → exec (.faultq d) s = .next (wrote s d 0))
        ∧ (∀ x xs, s.faultq = x :: xs → ∃ t, exec (.faultq d) s = .next t ∧ t.faultq = xs ∧ t.me = (s.me.wg d x).next
            ∧ t.saved = s.saved.filter (fun y => !(y.ending && decide (y.slot = dbits x 47 40)))
            ∧ ∀ e ∈ s.hist, ∀ q ∈ e.old, s.slotPa (dbits x 47 40) ≤ q.1 → q.1 < s.slotPa (dbits x 47 40) + 4096 →
                s.histNow ≤ Tab.get (t.view self).now.bytes q.1 0)
        ∧ (s.bounceq = [] → exec (.bncq d) s = .next (wrote s d 0))
        ∧ (∀ x xs, s.bounceq = x :: xs → ∃ t, exec (.bncq d) s = .next t ∧ t.bounceq = xs ∧ t.me = (s.me.wg d x).next
            ∧ { t with streams := s.streams, bounceq := s.bounceq, views := s.views } = s
            ∧ ∀ o < 64, s.histNow ≤ Tab.get (t.view self).now.bytes (bouncePa s.pkg (dbits x 61 59) (64 * dbits x 51 32 + o)) 0)))
  ∧ (∀ (s : State) (side : BitVec 1) (a : BitVec 5),
      let illegal : Host.Outcome State Fault Refusal := .next (takeTrap s ⟨.illegal, none, .std 0 0, .none⟩)
      ((∀ i k, s.cur = .ctx i k → i < 16) →
        (∀ i ∈ [Instr.faultq a, .abort a, .inval a, .bncq a, .bncdone a, .hostirq a], exec i s = illegal)
        ∧ (dbits (s.rg a) 9 8 = 0 → exec (.resumeRetry a) s = illegal)
        ∧ (dbits (s.rg a) 9 8 = 1 → exec (.resumeHandler a) s = illegal)
        ∧ (dbits (s.rg a) 1 0 = 1 → exec (.migcmdStart a) s = illegal)
        ∧ (dbits (s.rg a) 1 0 = 2 → exec (.migcmdEnd a) s = illegal))
      ∧ ((∀ i k, s.cur = .ctx i k → 16 ≤ i) → exec (.jqpush side a) s = illegal ∧ exec (.done side a) s = illegal))

/-- R339: RESUME of a held unit: it runs on at EPC, or in a handler with TH set; its slot is free (R351: the VALID bit of its header is
cleared), but for one that a cut in progress keeps (R342); the registers and the rest of the memory stay. The unit acquires what the firmware did before. A record with DOUBLE = 1, or
a slot that holds no held unit, is left alone. A slot that the firmware wrote is outside the first clause. -/
def Obligations.Resume : Prop :=
  ∀ (s : State) (slot : Nat) (handler : Option DWord),
    (∀ y, (s.saved.find? fun y => decide (y.slot = slot) && !y.ending) = some y → y.double = false →
      (s.stream y.unit).run = .held slot → s.slotIntact y = true →
      ∃ t, s.resume slot handler = some t ∧ (t.stream y.unit).run = .running
        ∧ (t.stream y.unit).pc = handler.getD (s.stream y.unit).epc
        ∧ (t.stream y.unit).th = (handler.isSome || (s.stream y.unit).th)
        ∧ (t.stream y.unit).g = (s.stream y.unit).g ∧ (∀ u, u ≠ y.unit → t.stream u = s.stream u)
        ∧ Acquired t (s.agentOf y.unit) (s.releaseNow (s.agentOf s.cur))
        ∧ (Mem.wf s.mem = true → ∀ a, a ≠ s.direct (s.slotPa slot + 7) → Mem.get t.mem a = Mem.get s.mem a)
        ∧ ((∀ j ∈ s.jobs, j.2.cutSlot = some slot → j.2.phase = none) → ∀ z ∈ t.saved, z.slot ≠ slot))
    ∧ (∀ y, (s.saved.find? fun y => decide (y.slot = slot) && !y.ending) = some y → y.double = true →
      s.resume slot handler = none)
    ∧ ((∀ y ∈ s.saved, y.slot = slot → y.ending = true) → s.resume slot handler = none)

/-- R76, R401, R472: REGISTER_WRITE. A register or port of the executing stream as MTS writes it; a host register (an AP root above
17 is ignored); LOGSEL. -/
def Obligations.RegisterWriteRow : Prop :=
  ∀ (s : State) (i : BitVec 24) (v : DWord),
    exec (.registerWrite 0 i v) s = finish s (mts s i.toNat v)
    ∧ (∀ t, mts s i.toNat v = .ok t → exec (.registerWrite 0 i v) s = .next t)
    ∧ ((s.sysRead s.cur i.toNat).isSome = true → lining s = .ok () → (i.toNat = 0x020 → vtOk v = true) →
        exec (.registerWrite 0 i v) s = .next (s.setMe (s.me.sysWrite i.toNat v)))
    ∧ (dbits v 4 0 < 18 → exec (.registerWrite 1 0x800000 v) s = .next { s with host := { s.host with apRoot := dbits v 4 0 } })
    ∧ (18 ≤ dbits v 4 0 → exec (.registerWrite 1 0x800000 v) s = .next s)
    ∧ exec (.registerWrite 1 0x800008 v) s = .next { s with host := { s.host with apBase := v &&& 0xFFFFF000000000 } }
    ∧ exec (.registerWrite 1 0x800010 v) s = .next { s with host := { s.host with err := s.host.err &&& ~~~v } }
    ∧ exec (.registerWrite 1 0x800018 v) s = .next { s with host := { s.host with irqPend := s.host.irqPend &&& ~~~v } }
    ∧ exec (.registerWrite 2 0x28 v) s = .next { s with mgc := { s.mgc with logSel := v &&& 0xFFFFFFFF } }

/-- The state after a private word of a control core has completed: it counts (R333). -/
def Sys2Proof.Claim.counted (t : State) : State := t.setMe { t.me with cmdIndex := t.me.cmdIndex + 1 }

/-- R257, R258: JPREP copies a well-formed card of 128 bytes into its slot; a card that breaks a layout rule raises FORMAT with
EINFO the record's address and FIELD the first word that breaks one (R82); JPOST posts a prepared card. R258: a post to cores that
are not gated and whose queues take it leaves every line of posters and puts the job into the queue of each of its cores; a post to a
gated core raises REMOTE_GATED with EINFO the core. A card whose slot has an uncorrectable word stops the post (R452). -/
def Obligations.CardsPreparedAndPosted : Prop :=
  ((∀ (s s1 : State) (h : BitVec 4) (a b : BitVec 5) (i : Nat) (k : Ctx) (va : Nat) (bs : List Byte), s.cur = .ctx i k →
        lining s = .ok () → s.allPerformed s.cur = true →
        ((s.rg b).toNat < 65536 → readRecord s h a 128 = .ok (s1, va, bs) → firstWord (cardChecks (wordsOf bs 32)) = none →
          ((s1.card (s.rg b).toNat).state = .empty ∨ (s1.card (s.rg b).toNat).state = .prepared) →
          s1.isTemplate (s.rg b).toNat = false →
          exec (.jprep h a b) s = .next (counted ((s1.writeCard (s.rg b).toNat 0 bs
            ⟨wordsOf bs 32, .prepared, 0, s1.releaseNow (s1.agentOf s1.cur)⟩).retire)))
        ∧ ((s.rg a).toNat < 65536 → (s.rg b).toNat < 32 → k = .c →
          ∀ t, post s i k (s.rg a).toNat (s.rg b).toNat = .ok t → exec (.jpost a b) s = .next (counted t.retire)))
    ∧ (∀ (s s1 : State) (h : BitVec 4) (a b : BitVec 5) (i : Nat) (k : Ctx) (va f : Nat) (bs : List Byte), s.cur = .ctx i k →
        lining s = .ok () → s.allPerformed s.cur = true → (s.rg b).toNat < 65536 → readRecord s h a 128 = .ok (s1, va, bs) →
        firstWord (cardChecks (wordsOf bs 32)) = some f →
        exec (.jprep h a b) s = .next (takeTrap s ⟨.format, some (BitVec.ofNat 64 va), .std 4 f, .none⟩)))
  ∧ (∀ (s0 : State) (i : Nat) (k : Ctx) (id core : Nat) (e : Stop), readCard s0 id = .error e → post s0 i k id core = .error e)
  ∧ (∀ (s0 s : State) (i : Nat) (k : Ctx) (id core : Nat), readCard s0 id = .ok s →
      let c := (s.card id).words
      s.prepared id = true → (s.card id).state = .prepared → cardFlag c 1 = false → cardFlag c 2 = false → cardFlag c 3 = false →
      cardFlag c 4 = false → (cardPlace c = 1 → (gangCores c).head? = some core) →
      (∀ x, ((s.postCores c core).find? fun y => (s.core y).gated) = some x →
        post s0 i k id core = .error (.trap ⟨.remoteGated, some (BitVec.ofNat 64 x), .std 1 0, .ungate x⟩))
      ∧ ((∀ x ∈ s.postCores c core, (s.core x).gated = false ∧ s.posterMayGo x s.waitTick s.cur = true) →
        ∃ t, post s0 i k id core = .ok t ∧ (t.card id).state = .queued ∧ t.nextJob = s.nextJob + 1 ∧ t.mem = s.mem
          ∧ t.streams = s.streams ∧ (∀ x, ∀ p ∈ (t.core x).posters, p.1 ≠ s.cur)
          ∧ (∃ j, t.job? s.nextJob = some j ∧ j.card = id ∧ j.words = c
              ∧ (cardPlace c = 0 → j.insts.map (·.core) = [core]) ∧ (cardPlace c = 1 → j.insts.map (·.core) = gangCores c))
          ∧ (cardPlace c = 0 → (t.core core).jobq = (s.core core).jobq ++ [s.nextJob])))

/-- R262, R263, R268: SBWAIT of a finished entry gives its status, of one not held 0; it acquires the kernel's writes or an outbound
transfer's (R271), of a succeeded one that is no longer held too, and a failed entry is freed. RPUSH and RPOP are the two ends of a ring of 64, a release and an acquire; PTOKEN moves
tokens from the purse to the card. -/
def Obligations.ControlCoreWords : Prop :=
  ∀ (s : State) (d a b : BitVec 5) (i : Nat) (k : Ctx), s.cur = .ctx i k → lining s = .ok () →
    (dbits (s.rg a) 63 17 ≠ 0 → exec (.sbwait d a) s = .next (takeTrap s ⟨.illegal, some (s.rg a), .std 0 0, .none⟩))
    ∧ (dbits (s.rg a) 63 17 = 0 →
      let want := fun (e : ScbEntry) => if (s.rg a).getLsbD 16 then e.kernel.isSome && decide (e.card = dbits (s.rg a) 15 0)
        else e.kernel.isNone && decide (e.id = dbits (s.rg a) 15 0)
      let u := s.acquireWork (s.agentOf s.cur)
        (if (s.rg a).getLsbD 16 then .kernel i (dbits (s.rg a) 15 0) else .xfer i (dbits (s.rg a) 15 0))
      ((s.lc i).scb.find? want = none → exec (.sbwait d a) s = .next (counted (wrote u d 0)))
      ∧ (∀ e, (s.lc i).scb.find? want = some e → e.finished = true →
          let v : DWord := BitVec.ofNat 64 ((if e.kernel.isSome then 256 else 0) + e.cause)
          (e.cause = 0 → exec (.sbwait d a) s = .next (counted (wrote u d v)))
          ∧ (e.cause ≠ 0 → exec (.sbwait d a) s = .next (counted (wrote
              (u.setLc i { u.lc i with scb := (u.lc i).scb.filter fun x => decide (x.ix ≠ e.ix) }) d v)))))
    ∧ (s.allPerformed s.cur = true → ((s.lc i).pushRing k).length < 64 →
        exec (.rpush a) s = .next (counted (passed (s.setLc i ((s.lc i).setPush k
          ((s.lc i).pushRing k ++ [(s.rg a, s.releaseNow (s.agentOf s.cur))]))))))
    ∧ (∀ x r, (s.lc i).popRing k = x :: r →
        exec (.rpop d) s = .next (counted (wrote ((s.setLc i ((s.lc i).setPop k r)).acquire (s.agentOf s.cur) x.2) d x.1)))
    ∧ (k = .c → (s.rg a).toNat < 65536 → s.prepared (s.rg a).toNat = true →
        let id := (s.rg a).toNat
        let m := tokensMoved (s.rg b).toInt ((s.lc i).purse k) (s.card id).tokens
        exec (.ptoken d a b) s = .next (counted (wrote
          ((s.setLc i ((s.lc i).setPurse k (((s.lc i).purse k : Int) - m).toNat)).setCard id
            { s.card id with tokens := ((s.card id).tokens + m).toNat }) d (BitVec.ofInt 64 m))))

/-- R259, R261, R264: a stream transfer whose record keeps the rules takes a free entry and its id, its global range translated as far
as the walks go; a record that breaks a rule raises FORMAT. A kernel that is admitted takes an entry and its deadline, a refused one
0; an overlay of a well-formed image is loaded and entered, once the engines named do nothing for this control core. -/
def Obligations.TransfersKernelsOverlays : Prop :=
  ∀ (s s1 s2 s3 s4 s5 : State) (h : BitVec 4) (d a b m : BitVec 5) (i : Nat) (k : Ctx) (va ix : Nat) (bs : List Byte) (p p' : Page)
      (cell : Option Page), s.cur = .ctx i k → lining s = .ok () → s.allPerformed s.cur = true →
    (k ≠ .c → readRecord s h a 32 = .ok (s1, va, bs) →
      (∀ f, firstWord (xferChecks i (wordsOf bs 8)) = some f →
        exec (.sxfer h a d) s = .next (takeTrap s ⟨.format, some (BitVec.ofNat 64 va), .std 4 f, .none⟩))
      ∧ (firstWord (xferChecks i (wordsOf bs 8)) = none → (s1.lc i).freeEntry = some ix →
        let ws := wordsOf bs 8
        let r := s1.findPieces i (wd ws 2 % 32) (xferPages ws) []
        ∃ t e, exec (.sxfer h a d) s = .next t ∧ t.me.rg d = (if d = 0 then 0 else BitVec.ofNat 64 (ix + 64 * (s1.lc i).takeSeq ix))
          ∧ (t.lc i).scb = (s1.lc i).scb ++ [e] ∧ e.ix = ix ∧ e.seq = (s1.lc i).takeSeq ix ∧ e.kernel = none ∧ e.record = ws
          ∧ e.found = r.2 ∧ e.finished = false ∧ t.mem = r.1.mem))
    ∧ (k = .c → (s.rg a).toNat < 65536 → (s.rg b).toNat / 2 = i → i < 16 → readCard s (s.rg a).toNat = .ok s5 →
      s5.prepared (s.rg a).toNat = true → (s5.card (s.rg a).toNat).state = .prepared →
      let c := (s5.card (s.rg a).toNat).words
      cardFlag c 1 = false → cardFlag c 2 = false → cardFlag c 3 = false →
      (cardPlace c = 1 → (gangCores c).head? = some (s.rg b).toNat) → cellCheck s5 i c = .ok (s4, cell) →
      (s4.lc i).freeEntry = some ix →
      (s4.admission i (s.rg b).toNat c = none → exec (.krun d a b) s = .next (counted (wrote s4 d 0)))
      ∧ (∀ dl, s4.admission i (s.rg b).toNat c = some dl →
          ∃ t, exec (.krun d a b) s = .next t ∧ t.me.rg d = (if d = 0 then 0 else BitVec.ofNat 64 dl)
            ∧ (t.card (s.rg a).toNat).state = .waiting ∧ (t.lc i).scb.length = (s4.lc i).scb.length + 1
            ∧ t.nextJob = s4.nextJob + 1))
    ∧ (readVia s h (s.rg a).toNat 16 16 = .ok (s2, p, bs) →
      let ws := wordsOf bs 4
      0 < wd ws 0 → wd ws 0 ≤ 65536 → (s.rg a).toNat + 16 + 4 * wd ws 0 ≤ 2 ^ p.bits → wd ws 1 % 16 = 0 →
      wd ws 1 + 4 * wd ws 0 ≤ 262144 → wd ws 2 % 4 = 0 → wd ws 2 < 4 * wd ws 0 → wd ws 3 = 0 →
      ((setBits 5 m.toNat).all fun e => !(s2.engineBusyFor i (2 * i) e) && !(s2.engineBusyFor i (2 * i + 1) e)) = true →
      ∀ img, readVia s2 h ((s.rg a).toNat + 16) (4 * wd ws 0) 4 = .ok (s3, p', img) →
      let us := (setBits 5 m.toNat).flatMap fun e => [(coreUnits (2 * i))[e]?, (coreUnits (2 * i + 1))[e]?].filterMap id
      exec (.ovly h a m) s = .next (counted (((s3.acquire (s3.agentOf s3.cur) (s3.enginesClock us)).loadWords (.lc i) (wd ws 1)
        (wordsOf img (wd ws 0))).jump (BitVec.ofNat 64 (wd ws 1 + wd ws 2)))))

/-! ### The rows that happen on their own: virtual memory, jobs, power, pre-emption (spec/11 to spec/14) -/

/-- R361: the walk of a pending handle runs on from where it stands and leaves the handle valid, faulted or standing at a locked
entry; the re-reading of a locked entry is the other row. R374: the oldest delivery to a page lands in its die's bounce buffer where there
is room. R376:
a migration unit copies its next sector between frames that exist; R458: an uncorrectable error stops it, and when it is then ended it copies
back what it had copied. -/
def Obligations.MemoryRows : Prop :=
  (∀ (s : State) (u : UnitId) (n : BitVec 4) (h : Handle) (w : Walk), (s.stream u).hr n = some h → h.state = .pending w →
    w.due ≤ s.tick →
    let e := s.walkFrom h.root (h.va.toNat % 2 ^ 56) 4 w
    ∃ t, (w.retries = 0 → exec (.walkComplete u n) s = .next t) ∧ (0 < w.retries → exec (.walkLockRetry u n) s = .next t)
      ∧ ((t.stream u).hr n).map (·.state) = some (e.handle (h.va.toNat % 2 ^ 56)) ∧ (t.stream u).pc = (s.stream u).pc
      ∧ (∀ m, m ≠ n → (t.stream u).hr m = (s.stream u).hr m) ∧ ∀ v, v ≠ u → t.stream v = s.stream v)
  ∧ (∀ (s t : State) (pos : Nat) (b : ToBounce), s.toBounce[pos]? = some b →
      (∀ x ∈ s.toBounce.take pos, ¬(x.root = b.root ∧ x.va / 65536 = b.va / 65536)) →
      ({ s with toBounce := s.toBounce.eraseIdx pos } : State).bounceIn b = some t →
      exec (.bounceDelivery pos) s = .next t ∧ t.bounceq.length = s.bounceq.length + 1)
  ∧ (∀ (s : State) (n : Nat), (s.mig n).busy = true →
      let m := s.mig n
      let k := if m.ending then m.cursor - 1 else m.cursor
      let old := framePa m.src + 1024 * k
      let new := framePa m.dst + 1024 * k
      let (src, dst) := if m.ending then (new, old) else (old, new)
      let pas := (List.range 1024).map (src + ·)
      let r := s.deviceRead pas
      (if m.ending then m.cursor ≠ 0 else m.done = false ∧ m.cause = 0) →
      paExists src = true → paExists dst = true → s.chanShut pas none = false →
      s.chanShut ((List.range 1024).map (dst + ·)) none = false →
      ∃ t, exec (.migrationSectorCopy n) s = .next t ∧ t.streams = s.streams
        ∧ (r.2 = true → t.mem = Mem.setAll r.1.mem (cellsAt dst (Mem.bytes r.1.mem src 1024))
            ∧ (m.ending = false → t.mig n = { m with cursor := m.cursor + 1, done := decide (m.cursor + 1 = m.sectors) })
            ∧ (m.ending = true → t.mig n = { m with cursor := m.cursor - 1, ending := decide (m.cursor ≠ 1), busy := decide (m.cursor ≠ 1) }))
        ∧ (r.2 = false → (t.mig n).cursor = m.cursor ∧ (t.mig n).cause = Cause.uncorrectable.code)
        ∧ (s.ecc = [] → s.busBad = [] → r.2 = true ∧ r.1.mem = s.mem))

/-- R324, R328, R274, R275: a submitted kernel becomes ready; a core's controller issues the job that comes next; the job at the head
of a queue starts: each of its engine streams on the core runs with its reset registers, g1 its arguments, at its prologue or, where
that is absent, at its kernel entry, with what its poster released acquired (R271); the core takes the level granted. -/
def Obligations.JobsStart : Prop :=
  (∀ (s : State) (lc pos n : Nat) (j : Job), s.kernelAt lc pos = some (n, j) → s.readyNow lc j = true →
    ∃ t, exec (.cardReady lc pos) s = .next t ∧ t.job? n = some { j with ready := true, readyTick := s.tick }
      ∧ (t.card j.card).state = .ready ∧ t.streams = s.streams ∧ t.mem = s.mem)
  ∧ (∀ (s : State) (c n : Nat) (j : Job), s.nextIssue c = some (n, j) →
      exec (.queueIssue c) s
        = .next (((s.issueCores j).foldl State.issuedOn ((s.placeJob n j).issueJob n)).freeNamed j.origin))
  ∧ (∀ (s : State) (c n : Nat) (j : Job) (i : Inst), s.starts c = some (n, j, i) → i.core = c → i.state = .queued →
      ∃ t, exec (.jobStart c) s = .next t ∧ ((∀ z ∈ s.saved, z.job ≠ some n) → t.mem = s.mem) ∧ t.now = s.now
        ∧ (t.core c).level = (s.core c).grant
        ∧ (∀ u ∈ engineUnits j c, (t.stream u).run = .running ∧ (t.stream u).job = some n ∧ (t.stream u).core = c
            ∧ (t.view (.unit u n)).now = s.startClock j
            ∧ (t.stream u).rg 1 = BitVec.ofNat 64 (cardArgs j.words + 64 * i.index)
            ∧ (∀ r, r ≠ 1 → (t.stream u).rg r = 0) ∧ (t.stream u).gen = BitVec.ofNat 8 (cardGen j.words)
            ∧ (∀ k, (t.stream u).hr k = none)
            ∧ ∀ e, (coreUnits c)[e]? = some u → (t.stream u).pc = BitVec.ofNat 64
                (if cardEntry j.words e 0 = absent then cardEntry j.words e 1 else cardEntry j.words e 0))
        ∧ ∀ u, u ∉ engineUnits j c → t.stream u = s.stream u)

/-- R331, R81, R336, R330: a kernel at its latest start is withdrawn, one past its deadline reported, each by a cause owed to the
context that submitted it; an owed cause is taken at the context's next boundary with ASYNC 1; a hold's notice goes into the
fault queue; every purse below the cap earns a token. R110, R284, R289, R270: the m-th meeting at a rendezvous releases
who waits for it once every stream has arrived at it, ordered by a full FENCE of each, and no one before; a switch point releases with the granted level; a job whose last instance has done all its work is gone,
and what its poster is told goes into the completion FIFO. -/
def Obligations.JobsMeetCompleteAndReport : Prop :=
  ((∀ (s : State) (lc pos n ix : Nat) (j : Job) (i : Nat) (k : Ctx), s.kernelAt lc pos = some (n, j) → j.origin = .krun i k ix →
      s.withdrawNow j = true →
      ∃ t, exec (.kernelWithdrawal lc pos) s = .next t ∧ t.jobs = Tab.erase s.jobs n ∧ (t.card j.card).state = .empty
        ∧ (t.owed i k).getLast? = some ⟨.deadlineMiss, BitVec.ofNat 64 j.card, missWord j.deadline 0 0⟩ ∧ t.streams = s.streams)
    ∧ (∀ (s : State) (n ix : Nat) (j : Job) (i : Nat) (k : Ctx), s.job? n = some j → j.origin = .krun i k ix → s.missNow j = true →
        let w := if j.insts.any fun x => decide (x.state ≠ .queued) && decide (x.state ≠ .waiting)
          then missWord j.deadline 2 (s.turnsOf n j) else missWord j.deadline 1 0
        ∃ t, exec (.deadlineMissReport n) s = .next t ∧ t.job? n = some { j with missed := true }
          ∧ (t.owed i k).getLast? = some ⟨.deadlineMiss, BitVec.ofNat 64 j.card, w⟩ ∧ t.streams = s.streams)
    ∧ (∀ (s : State) (lc : Nat) (k : Ctx) (o : Owed) (os : List Owed), s.owed lc k = o :: os →
        (s.stream (.ctx lc k)).run = .running → (s.stream (.ctx lc k)).waiting = none →
        ∃ t, exec (.reportedCauseDelivery lc k) s = .next t ∧ t.owed lc k = os
          ∧ (t.stream (.ctx lc k)).run = .held (3 * lc + k.num) ∧ (t.stream (.ctx lc k)).epc = (s.stream (.ctx lc k)).pc
          ∧ (t.stream (.ctx lc k)).cause = BitVec.ofNat 64 (o.cause.code + 256 + (UnitId.ctx lc k).engCode * 4096)
          ∧ (t.stream (.ctx lc k)).einfo = o.einfo ∧ (t.stream (.ctx lc k)).eword = o.eword)
    ∧ (∀ (s : State) (u : UnitId) (y : Saved),
        (s.saved.find? fun y => decide (y.unit = u) && !y.noticed && decide (y.kind = 1 ∨ y.kind = 3)) = some y →
        s.faultq.length < 256 →
        ∃ t, exec (.holdNoticePost u) s = .next t ∧ t.faultq = s.faultq ++ [noticeOf y] ∧ t.streams = s.streams ∧ t.mem = s.mem)
    ∧ (∀ (s : State), periodDue s.tick (max 1 s.ports.purseRate.toNat) s.served.purse = true →
        ∃ t, exec .purseEarn s = .next t ∧ t.streams = s.streams ∧ t.mem = s.mem
          ∧ ∀ i, i < 18 → (t.lc i).purseC = (if (s.lc i).purseC < s.ports.purseCap.toNat then (s.lc i).purseC + 1 else (s.lc i).purseC)))
  ∧ ((∀ (s : State) (n : BitVec 8) (job m : Nat) (jb : Job), s.job? job = some jb →
      let here := (s.liveStreams job).filter fun u => decide ((s.stream u).run = .parked (.rdv n.toNat))
      (∃ u ∈ here, (s.stream u).meetings n.toNat + 1 = m) → (∀ u ∈ here, m ≤ (s.stream u).meetings n.toNat + 1) →
      let us := here.filter fun u => decide ((s.stream u).meetings n.toNat + 1 = m)
      ((jb.insts.all fun i => s.instMet job i n.toNat m) = false → exec (.rdvRelease job n) s = .next s)
      ∧ ((jb.insts.all fun i => s.instMet job i n.toNat m) = true → (∀ u ∈ us, s.allPerformed u = true) →
        ∃ t, exec (.rdvRelease job n) s = .next t ∧ (∀ u ∈ us, (t.stream u).run = .running ∧ (t.stream u).meetings n.toNat = m
            ∧ (t.stream u).pc = (s.stream u).next.pc) ∧ t.mem = s.mem ∧ (∀ u, u ∉ us → t.stream u = s.stream u)
          ∧ ∀ u ∈ us, ∀ v ∈ us, s.observes jb.meetScope (s.agentOf u) (s.agentOf v) = true →
              s.observes jb.meetScope (s.agentOf v) (s.agentOf u) = true →
              s.cmdSeq ≤ (t.view (s.agentOf v)).now.get (s.agentOf u) jb.meetScope))
    ∧ (∀ (s : State) (c j n : Nat), s.switchDue c = some (j, n) →
        let s1 := s.setCore c { (s.core c).takeLevel (s.core c).grant s.now with stretch := none, fallFrom := none }
        let tab := ((s.job? j).map fun x => cardSched x.words).getD 0
        let us := (s1.jobUnits j c).filter fun u => (s1.stream u).run.live
        exec (.switchPointRelease c) s
          = .next ((us.foldl (fun r u => r.switchStream u tab n (s.core c).grant) (s1.meet us 0)).markDense c)
          ∧ (s1.core c).level = (s.core c).grant ∧ (s1.core c).mx.tref = s.tick + 64)
    ∧ (∀ (s : State) (c n : Nat) (j : Job), s.job? n = some j →
        (j.insts.any fun i => decide (i.core = c) && decide (i.state = .halted)) = true → s.instDone n c = true →
        (∀ i ∈ j.insts, i.core = c ∨ i.state = .completed) →
        ∃ t, exec (.jobComplete c n) s = .next t ∧ t.job? n = Tab.find? (Tab.erase s.jobs n) n
          ∧ t.streams = s.streams ∧ ((∀ z ∈ s.saved, z.job ≠ some n) → t.mem = s.mem)
          ∧ ∀ i k, j.origin = .post i k → serves i j.lowCore = true →
            (t.core j.lowCore).doneWait = (s.core j.lowCore).doneWait ++ [(j.card, n, doneWord j.cause j.card s.tick)])
    ∧ (∀ (s : State) (c card n : Nat) (w : DWord) (ws : List (Nat × Nat × DWord)), (s.core c).doneWait = (card, n, w) :: ws →
        (s.core c).done.length < 64 →
        ∃ t, exec (.completionEntryAppend c) s = .next t ∧ (t.core c).done = (s.core c).done ++ [(n, w)] ∧ (t.core c).doneWait = ws
          ∧ (t.card card).state = .empty ∧ (t.card card).tokens = 0))

/-- R310 to R317: a re-allotment, a permit boundary, a refill, a forced drop, its taking of the level and a profile sample happen
when they are due, and touch no stream's registers and no memory outside the profile ring. R329, R342 to R347: the decision
takes the newcomer's tokens and begins a drain, a kill or a checkpoint; a stream that stands at a stop point of an older
generation than another of its instance goes on; the cut arrives when every stream stands at a stop point of one generation; once it is drained its slot is written and the core released, the job ready again. -/
def Obligations.PowerAndPreemptionRows : Prop :=
  (∀ s : State,
      (∀ hot, periodDue s.tick 13600 s.served.reallot = true →
        ∃ t, exec (.ppcReallotment hot) s = .next t ∧ t.served.reallot = s.tick / 13600 * 13600 ∧ t.streams = s.streams
          ∧ t.mem = s.mem
          ∧ ∀ c, c < 32 → (t.core c).gated = false → (t.core c).grant = s.grantFor hot c)
      ∧ (∀ d, d < 8 → periodDue s.tick 6800 (servedOf s.served.boundary d) = true → periodDue s.tick 13600 s.served.reallot = false →
          let claim := (coresOfDie d).filter fun c => decide ((s.core c).grant = 3)
          ∃ t, exec (.permitBoundary d) s = .next t ∧ (t.die d).permits = (s.die d).permits - claim.length
            ∧ t.streams = s.streams ∧ t.mem = s.mem)
      ∧ (∀ d, d < 8 → periodDue s.tick 27200 (servedOf s.served.refill d) = true →
          ∃ t, exec (.permitRefill d) s = .next t ∧ t.streams = s.streams ∧ t.mem = s.mem
            ∧ (t.die d).permits = (if (s.die d).permits < 64 ∧ (s.die d).denseSince = false then (s.die d).permits + 1
                else (s.die d).permits))
      ∧ (∀ c f, s.fallDue c = some f →
          exec (.forcedDrop c) s = .next (s.setCore c
            { s.core c with mxHold := true, drops := (s.core c).drops ++ [⟨f, (s.core c).grant⟩], fallFrom := none }))
      ∧ (∀ c d ds, s.takeDue c = true → (s.core c).drops = d :: ds →
          ∃ t, exec (.forcedDropLevelTake c) s = .next t ∧ (t.core c).level = d.level ∧ (t.core c).drops = ds
            ∧ (t.core c).mxHold = !ds.isEmpty ∧ (t.core c).stretch = some (cycleLen d.level, cycleLen (s.core c).level)
            ∧ t.streams = s.streams)
      ∧ (∀ c p, c < 32 → s.sampleDue c = true → (∀ e ∈ coresOfDie (c / 4), c ≤ e ∨ s.sampleDue e = false) →
          ∃ t, exec (.profileSample c p) s = .next t ∧ (t.die (c / 4)).profileCount = (s.die (c / 4)).profileCount + 1
            ∧ t.streams = s.streams
            ∧ (Mem.wf s.mem = true → ∀ a, (∀ i, i < 2 ^ 20 → a ≠ s.direct (bouncePa s.pkg (c / 4) (ringBase + i))) →
                Mem.get t.mem a = Mem.get s.mem a)))
  ∧ (∀ (s : State) (c n : Nat) (j : Job),
      (∀ x p cost, s.preemptor c = some (n, j, x, p, cost) →
        ∃ t, exec (.preemptionDecision c) s = .next t ∧ t.streams = s.streams ∧ (p ≠ .checkpoint → t.mem = s.mem)
          ∧ (∀ y, s.job? x = some y → (t.card y.card).tokens = (s.card y.card).tokens - cost)
          ∧ (p ≠ .drain → (t.core c).cut = some n)
          ∧ (p = .checkpoint → t.saved.length = s.saved.length + 1))
      ∧ ((s.core c).cut = some n → s.job? n = some j → j.phase = some .seeking →
          let old := s.laggards (s.instStreams n c).1
          old ≠ [] → ∃ t, exec (.cutStopPointsReached c) s = .next t ∧ t.jobs = s.jobs ∧ t.mem = s.mem
            ∧ (∀ u ∈ old, (t.stream u).run = .running) ∧ ∀ u, u ∉ old → t.stream u = s.stream u)
      ∧ ((s.core c).cut = some n → s.job? n = some j → j.phase = some .seeking →
          ∀ lives, ((s.instStreams n c).1.mapM (s.stopLive (s.instStreams n c).2)) = some lives →
          (((((s.instStreams n c).1.filter fun u => (s.stream u).run.live).map fun u => (s.stream u).gen).eraseDups).length ≤ 1 →
            ∃ t g, exec (.cutStopPointsReached c) s = .next t ∧ t.streams = s.streams ∧ t.mem = s.mem
              ∧ t.job? n = some { j with phase := some (.arrived (lives.foldl (· ||| ·) 0) g) }))
      ∧ ((s.core c).cut = some n → s.job? n = some j →
          ((∃ m g, j.phase = some (.arrived m g) ∧ s.cutDrained n c m.toNat = true) ∨ (j.phase = some .kill ∧ s.cutDrained n c 0 = true)) →
          ∃ t st, exec (.cutSave c) s = .next t ∧ (t.core c).cut = none ∧ n ∉ (t.core c).jobq
            ∧ (∀ e ∈ (t.core c).lq, e.job ≠ n) ∧ t.job? n = some (j.cutOff c s.tick st)
            ∧ st = (if j.phase = some .kill then .waiting else .saved (j.cutSlot.getD 0))
            ∧ ∀ u ∈ s.jobUnits n c, (t.stream u).run = .off ∧ (t.stream u).job = none))

/-! ### Private words of the engines (spec/05, spec/06): tokens, stamped commands -/

/-- The unstamped command that the stream stands at takes its tokens (R278): every queue of its pop mask offers one, none is void, and
no queue of its push mask is full; s1 is the state with the tokens taken. -/
def Sys2Proof.Claim.Popped (s : State) (tk : BitVec 3) (s1 : State) : Prop :=
  let c := s.coreOf s.cur
  let e := s.cur.endpoint
  let q := s.me.capture tk s.now
  let s0 := s.discardInto c e (maskEnds e q.pops) q.tag
  (∀ p ∈ maskEnds e q.pops, s0.offer c p e q.tag ≠ .nothing)
  ∧ s0.popInto c e q.tag (maskEnds e q.pops) = (s1, false) ∧ s1.fullQueue c e q.pushes = none

/-- A command that pushes as it issues has its turn: its tokens are there, and where it pushes, what its agent accessed before has been
performed (R299). -/
def Sys2Proof.Claim.Tokens (s : State) (tk : BitVec 3) (s1 : State) : Prop :=
  Popped s tk s1 ∧ ((s.me.capture tk s.now).pushes ≠ 0 → s.pushReady s.cur = true)

/-- The command has completed: it counts (R333), and its tokens are pushed as it issues. -/
def Sys2Proof.Claim.ended (s : State) (tk : BitVec 3) (u : State) : State :=
  let q := s.me.capture tk s.now
  let t := u.setMe u.me.counted
  t.pushNow (s.coreOf s.cur) s.cur.endpoint q.pushes q.tag (t.releaseNow (t.agentOf s.cur))

/-- The command has issued: it counts, and entries are reserved for the tokens that it pushes when it finishes (R277). -/
def Sys2Proof.Claim.launched (s : State) (tk : BitVec 3) (u : State) : State :=
  let q := s.me.capture tk s.now
  (u.setMe u.me.counted).reserve (s.coreOf s.cur) s.cur.endpoint q.pushes

/-- A stamped command (its delta in the word, or widened by a kind 1 prefix, R62) stands at its issue edge (R164); q is what it
captured, t the state with T at the command's tick; no occupancy that has run out is still to end, and no codeword of the machine is in
error. -/
structure Sys2Proof.Claim.AtEdge (s : State) (tk : BitVec 3) (st : BitVec 11) (c : Nat) (q : Queued) (t : State) : Prop where
  cur : s.cur = .eng .mx c
  head : s.me.queued = none
  captured : q = { s.me.capture tk s.now with delta := s.me.pfx.delta st, stamped := true }
  may : s.mxMayIssue c = true
  edge : edgeAt (s.core c).level (10 * s.stampTick c q.delta) ≤ s.now
  ended : ∀ f ∈ (s.core c).mx.flight, s.now < f.stop
  ticks : t = s.moveT c (s.stampTick c q.delta)
  clean : t.ecc = []

/-- The command finds real tokens and room for its own, and none of the six causes of SCHEDULE_MISS holds (R166). -/
def Sys2Proof.Claim.InTime (t : State) (c : Nat) (q : Queued) (p : MxPlan) : Prop :=
  let t1 := t.discardInto c .mx (maskEnds .mx q.pops) q.tag
  (∀ e ∈ maskEnds .mx q.pops, ∃ k, t1.offer c e .mx q.tag = .head k ∧ k.isVoid = false)
  ∧ t1.missCause c p (decide (10 * (t.core c).mx.tref < q.reached)) false = 0
  ∧ t1.fullQueue c .mx q.pushes = none

/-- The occupancy that a command begins: its end, and the effects that it holds until then (R165, R167), with the pieces of its operands as
they stand (R168). A buffer that has received more than 2^32 K-blocks since it was zeroed holds free values (R39, log entry 25). -/
def Sys2Proof.Claim.Occupies (t : State) (c : Nat) (q : Queued) (p : MxPlan) (r : MxEffect) (f : MxFlight) : Prop :=
  let b := (r.bounded t (p.buf.getD false)).2
  let worn := (r.acc.map Acc.spent).getD false
  f.array = p.array ∧ f.stop = t.now + p.cycles * cycleLen (t.core c).level ∧ f.tag = q.tag ∧ f.pushes = q.pushes ∧ f.buf = p.buf
  ∧ f.acc = b.acc.map (fun a => if p.array then { a with final := f.stop + 520 * cycleLen (t.core c).level } else a)
  ∧ f.writes = r.writes ∧ f.todo = r.writes ∧ f.tbl = r.tbl ∧ f.post = r.post ∧ f.ofl = r.ofl ∧ f.sat = r.sat ∧ f.image = p.image
  ∧ f.op = (if worn then none else p.op) ∧ f.pieces = if worn then [] else MxView.pieces ⟨t, c, []⟩ p.reads

/-- The command has issued: T is its tick, one occupancy is added, it counts; memory and registers are as they were. -/
def Sys2Proof.Claim.Flies (i : Instr) (s t : State) (c : Nat) (q : Queued) (p : MxPlan) (r : MxEffect) : Prop :=
  ∃ u f, exec i s = .next u ∧ Occupies t c q p r f
    ∧ (u.core c).mx = { (t.core c).mx with flight := (t.core c).mx.flight ++ [f] } ∧ (u.core c).mx.tref = (t.core c).mx.tref
    ∧ u.mem = t.mem ∧ (∀ n, u.me.rg n = t.me.rg n) ∧ u.me.cmdIndex = t.me.cmdIndex + 1 ∧ u.me.pc = t.me.next.pc

/-- K-block k of row or column i of an SXI8 operand (R26, R160): its 10-bit scale code and its 32 signed bytes. -/
def Sys2Proof.Claim.sxi8 (v : MxView) (t : Tile) (i k : Nat) : KBlock :=
  let veneer := decide (t.space = 1)
  let e := (if veneer then i * sliceSize + t.base else t.base + i * t.pitch) + 32 * k
  let p := (if veneer then i * sliceSize + t.plane else t.plane + 2 * (i * t.kb)) + 2 * k
  ⟨[(v.byte veneer p).toNat + 256 * (v.byte veneer (p + 1)).toNat],
   (List.range 32).map fun j => sextInt (v.byte veneer (e + j)).toNat 8⟩

/-- R36, R37, R47, R175, R176: r is what a multiplication of A and B leaves in its buffer: each element of A's rows and B's columns has
the products of its row and its column added, K-block by K-block, to what it held, or to zero where the command zeroes; every other
element is as it was, or zero. `slice` is none for MMA. -/
def Sys2Proof.Claim.Products (t : State) (c : Nat) (x : MxName) (a b : BitVec 4) (second zero force : Bool) (slice : Option Nat)
    (r : MxEffect) : Prop :=
  let v : MxView := ⟨t, c, []⟩
  let m := (t.core c).mx
  let ta := tileOf (t.td c a)
  let tb := tileOf (t.td c b)
  let old := fun (n : Nat) => if zero then Elem.zero else (m.buf second).elem n
  ∃ ra rb acc, r.acc = some acc ∧ r.writes = [] ∧ r.tbl = none ∧ r.post = none
    ∧ gather v { x with td := a.toNat } ta m.tbl (slice.getD 0) = .ok ra ∧ gather v { x with td := b.toNat } tb m.tbl 0 = .ok rb
    ∧ (∀ i j, i < ta.rows → j < tb.rows → ∃ k,
        Elem.product (m.buf second).fa (decide (ta.fmt = 1)) m.pi (slice.getD 0) force (ra.getD i []) (rb.getD j [])
          (old (256 * i + j)) = some (acc.elem (256 * i + j), k))
    ∧ (∀ n, ¬ (n / 256 < ta.rows ∧ n % 256 < tb.rows) → acc.elem n = old n)
    ∧ (ta.fmt = 0 → ∀ i k, i < ta.rows → k < ta.kb → (ra.getD i [])[k]? = some (sxi8 v ta i k))
    ∧ (tb.fmt = 0 → ∀ i k, i < tb.rows → k < tb.kb → (rb.getD i [])[k]? = some (sxi8 v tb i k))

/-- R164 to R167, R174 to R182: a stamped command at its edge, in time, whose descriptors, images and buffer keep their rules,
occupies its unit for the cycles that its rule gives and holds its effect until they are over: zeroing, multiplication (the
products of the two tiles added to the buffer, element by element), the table, the image of a buffer, rounding (the bands of FP4 sums read first), export with its post in a coded task,
normalisation, loading. -/
def Obligations.StampedCommands : Prop :=
  ∀ (s t : State) (tk : BitVec 3) (st : BitVec 11) (c : Nat) (q : Queued), AtEdge s tk st c q t →
    let tick := (t.core c).mx.tref
    let m := (t.core c).mx
    let v : MxView := ⟨t, c, []⟩
    (∀ (b : BitVec 1) (fa : BitVec 1), let z := ({ ((m.buf (b = 1)).zeroed (fa = 1)) with
          final := t.now + 16 * cycleLen (t.core c).level } : Acc)
        let r : MxEffect := { acc := some z }
        let p : MxPlan := { array := false, cycles := 16, buf := some (decide (b = 1)), needsFinal := true, run := .ok r }
        z.elem = (fun _ => Elem.zero) ∧ (InTime t c q p → Flies (.mzero tk b st fa) s t c q p r))
    ∧ (∀ (a b : BitVec 4) (k : BitVec 1) (f : BitVec 2) (p : MxPlan) (r : MxEffect),
        (multiply t c ⟨tick, k.toNat, 0⟩ a b (decide (k = 1)) (f.getLsbD 0) (f.getLsbD 1) none = .ok p → p.run = .ok r →
          InTime t c q p → Flies (.mma tk a b k st f) s t c q p r)
        ∧ (multiply t c ⟨tick, k.toNat, 0⟩ a b (decide (k = 1)) (f.getLsbD 1) false (some (if f.getLsbD 0 then 1 else 0)) = .ok p →
          p.run = .ok r → InTime t c q p → Flies (.mmas tk a b k st f) s t c q p r)
        ∧ (multiply t c ⟨tick, k.toNat, 0⟩ a b (decide (k = 1)) (f.getLsbD 0) (f.getLsbD 1) none = .ok p → p.run = .ok r →
          Products t c ⟨tick, k.toNat, 0⟩ a b (decide (k = 1)) (f.getLsbD 0) (f.getLsbD 1) none r)
        ∧ ∀ n, n < 2 → multiply t c ⟨tick, k.toNat, 0⟩ a b (decide (k = 1)) (f.getLsbD 1) false (some n) = .ok p → p.run = .ok r →
          Products t c ⟨tick, k.toNat, 0⟩ a b (decide (k = 1)) (f.getLsbD 1) false (some n) r)
    ∧ (∀ a : BitVec 5, (t.rg a).toNat % 64 = 0 → (t.rg a).toNat + 256 ≤ scratchSize →
        let o := (t.rg a).toNat
        let r : MxEffect := { tbl := some ((List.range 256).map fun i => t.rd (scratchPa t.pkg c (o + i))) }
        let p : MxPlan := { array := true, cycles := 8, buf := none, needsFinal := false, reads := [(false, o, 256)],
                            op := some (.table o), run := .ok r }
        InTime t c q p → Flies (.mtbl tk a st) s t c q p r)
    ∧ (∀ (d g : BitVec 4) (k : BitVec 1) (rr : BitVec 2) (o : Tile) (b : Acc),
        let x : MxName := ⟨tick, k.toNat, d.toNat⟩
        let acc := m.buf (k = 1)
        checkTile x (t.td c d) .out = .ok o → acc.flush = some b →
        let image := toScratch t.pkg c (cellsAt o.base (twrImage o b))
        let plan := fun (n : Nat) (op : Option MxOp) (rs : List (Bool × Nat × Nat)) (r : MxEffect) =>
          ({ array := false, cycles := 64 + n * o.rows, buf := some (decide (k = 1)), needsFinal := true, td := d.toNat, reads := rs,
             op := op, run := .ok r } : MxPlan)
        (o.fmt = 8 → acc.fa = false →
          let post := if (t.jobOf t.cur).any fun j => cardFlag j.words 1
            then some (dbits (t.rg (g.setWidth 5)) 31 0, scratchPa t.pkg c o.base) else none
          let r : MxEffect := { acc := some b, writes := image, post := post }
          InTime t c q (plan 9 none [] r) → Flies (.mxpt tk d g k st) s t c q (plan 9 none [] r) r)
        ∧ ∀ as bs : List (Bool × Nat × Int),
          bandsOf v x acc acc.bandA (ceilDiv o.rows 64) = .ok as → bandsOf v x acc acc.bandB (ceilDiv o.cols 64) = .ok bs →
          let value := fun (i j : Nat) =>
            (b.elem (256 * i + j)).exact b.fa (as.getD (i / 64) (false, 1, 0)) (bs.getD (j / 64) (false, 1, 0))
          let ty : ElemType := if o.fmt = 4 then .bf16 else if o.fmt = 5 then .fp16 else .fp32
          let op : Option MxOp := some (.round (t.td c d) d.toNat (decide (k = 1)) rr.toNat)
          (o.fmt = 8 → acc.fa = false →
            let r : MxEffect := { acc := some b, writes := image }
            let p := plan 9 op (acc.bandReads o) r
            InTime t c q p → Flies (.mrnd tk d k st rr) s t c q p r)
          ∧ (o.fmt ≠ 8 →
            let r : MxEffect := if o.fmt = 7
              then { acc := some b, writes := toScratch t.pkg c (roundSxi8 o value).1, sat := (roundSxi8 o value).2 }
              else { acc := some b, writes := toScratch t.pkg c (roundFloats ty rr.toNat o value).1,
                     ofl := (roundFloats ty rr.toNat o value).2 }
            let p := plan 1 op (acc.bandReads o) r
            InTime t c q p → Flies (.mrnd tk d k st rr) s t c q p r))
    ∧ (∀ (k : BitVec 1) (es : List (Nat × Elem)), let acc := m.buf (k = 1)
        acc.fa = true → (acc.held.mapM fun i => (acc.elem i).norm.map fun e => (i, e)) = some es →
        let r : MxEffect := { acc := some { acc with elems := es } }
        let p : MxPlan := { array := false, cycles := 256, buf := some (decide (k = 1)), needsFinal := true, run := .ok r }
        InTime t c q p → Flies (.mnorm tk k st) s t c q p r)
    ∧ (∀ (a : BitVec 5) (k : BitVec 1) (b : Acc), (m.buf (k = 1)).flush = some b → (t.rg a).toNat % 64 = 0 →
        (t.rg a).toNat + imageSize (m.buf (k = 1)).fa ≤ scratchSize →
        let r : MxEffect := { acc := some b, writes := toScratch t.pkg c (cellsAt (t.rg a).toNat b.image) }
        let p : MxPlan := { array := false, cycles := imageCycles (m.buf (k = 1)).fa, buf := some (decide (k = 1)), needsFinal := true,
                            image := true, run := .ok r }
        InTime t c q p → Flies (.msave tk a k st) s t c q p r)
    ∧ (∀ (a : BitVec 5) (k : BitVec 1), (t.rg a).toNat % 64 = 0 →
        let o := (t.rg a).toNat
        let bytes := fun (p n : Nat) => (List.range n).map fun i => t.rd (scratchPa t.pkg c (o + p + i))
        let w := wordsOf (bytes 0 64) 16
        let fa := bit (wd w 0) 0
        let n := imageSize fa
        let body := bytes 64 (n - 64)
        let stop := t.now + imageCycles fa * cycleLen (t.core c).level
        o + n ≤ scratchSize → imageBad w = false →
        (fa = true → ∀ e, e < 65536 → leNat ((body.drop (16 * e + 12)).take 4) = 0) →
        let r : MxEffect := { acc := some (accOfImage w stop body) }
        let p : MxPlan := { array := false, cycles := imageCycles fa, buf := some (decide (k = 1)), needsFinal := true,
                            reads := [(false, o, n)], image := true, op := some (.load o w stop), run := .ok r }
        InTime t c q p → Flies (.mload tk a k st) s t c q p r)

/-- R171 to R173: MTD sets a descriptor; MSTB sets the reference tick, its F form counted from PCYC; MPI sets the promotion
interval; it raises PROMOTION_LIMIT outside 1 to 64, FORMAT for two descriptors that are no pair, and PROMOTION_LIMIT above the bound of
R38. None of them is a counted command (R163). A command in occupancy settles what it reads, writes its result piece by piece, and,
its occupancy run out, ends (R167, R168, R179): the buffer that it names, the table and the post take effect and its tokens are pushed;
the other buffer stays. One that saw, of a piece written meanwhile, bytes that break a check of it is given up with every later command, and
raises the cause at its own word. -/
def Obligations.MatrixPlainWords : Prop :=
  (∀ (s s1 : State) (tk : BitVec 3) (c : Nat), s.cur = .eng .mx c → Tokens s tk s1 →
      let done := fun (u : State) => let v := ended s tk u; Host.Outcome.next (v.setMe { v.me with cmdIndex := s.me.cmdIndex })
      let m := (s1.core c).mx
      (∀ (t : BitVec 4) (a b : BitVec 5), exec (.mtd tk t a b) s
          = done (s1.setCore c { s1.core c with mx := { m with td := m.td.set t.toNat (s.rg b ++ s.rg a) t.isLt } }).retire)
      ∧ (∀ a, exec (.mstb tk a 0) s
          = done (s1.setCore c { s1.core c with mx := { m with tref := (s.rg a).toNat } }).retire)
      ∧ (∀ a, exec (.mstb tk a 1) s
          = done (s1.setCore c { s1.core c with mx := { m with tref := (s.rg a + BitVec.ofNat 64 (s.now / 10)).toNat } }).retire)
      ∧ ∀ (a : BitVec 5) (t u : BitVec 4), let p := (s.rg a).toNat
        let pair := pairOk (tileOf (s1.td c t)).fmt (tileOf (s1.td c u)).fmt
        let most := p * pairBound (tileOf (s1.td c t)).fmt
        let trap := fun (k : Cause) (e : DWord) (td why : Nat) =>
          Host.Outcome.next (takeTrap s ⟨k, some e, .raw (mxWord 0 0 td why 0), .none⟩)
        (1 ≤ p → p ≤ 64 → pair = true → most ≤ 2 ^ 31 - 1 →
          exec (.mpi tk a t u) s = done (s1.setCore c { s1.core c with mx := { m with pi := p } }).retire)
        ∧ (p < 1 ∨ 64 < p → exec (.mpi tk a t u) s = trap .promotionLimit (s.rg a) 0 0)
        ∧ (1 ≤ p → p ≤ 64 → pair = false → exec (.mpi tk a t u) s = trap .format (BitVec.ofNat 64 u.toNat) u.toNat 2)
        ∧ (1 ≤ p → p ≤ 64 → pair = true → 2 ^ 31 - 1 < most → exec (.mpi tk a t u) s = trap .promotionLimit (s.rg a) u.toNat 0))
  ∧ (∀ (s : State) (c : Nat) (f : MxFlight),
      (s.core c).mx.flight.find? (s.mxGoes c) = some f →
      let settled := fun (t : State) (g : MxFlight) => t.mem = s.mem ∧ t.streams = s.streams
        ∧ g.pieces = [] ∧ g.seq = f.seq ∧ g.stop = f.stop ∧ g.buf = f.buf ∧ g.pushes = f.pushes
        ∧ (t.core c).mx = { (s.core c).mx with flight := (s.core c).mx.flight.map fun x => if x.seq = f.seq then g else x }
      let recalled := fun (t : State) => (t.core c).mx.flight = (s.core c).mx.flight.filter (fun x => decide (x.seq < f.seq))
        ∧ (t.core c).mx.tref = f.undo.tick ∧ (t.core c).mx.td = f.undo.td ∧ (t.core c).mx.pi = f.undo.pi
        ∧ (t.stream (.eng .mx c)).epc = f.undo.stream.pc ∧ ∀ n, (t.stream (.eng .mx c)).rg n = f.undo.stream.rg n
      (f.pieces ≠ [] →
        ((∀ p ∈ f.pieces, ∀ j, j < 64 → MxView.byte ⟨s, c, []⟩ p.1.1 (64 * p.1.2 + j) = p.2.getD j 0) →
          ∃ t, exec (.mxOccupancyEnd c) s = .next t ∧ settled t { f with pieces := [] })
        ∧ ∃ t, exec (.mxOccupancyEnd c) s = .next t ∧ ((∃ g, settled t g) ∨ recalled t))
      ∧ (f.pieces = [] → f.todo ≠ [] → ∃ t, ∃ x ∈ unitsOf f.todo, exec (.mxOccupancyEnd c) s = .next t
        ∧ t.mem = Mem.setAll s.mem (x.map fun w => (s.direct w.1, w.2)) ∧ t.streams = s.streams
        ∧ (t.core c).mx = { (s.core c).mx with flight := (s.core c).mx.flight.map fun y =>
            if y.seq = f.seq then { f with todo := f.todo.filter fun w => !(x.map (·.1)).contains w.1 } else y })
      ∧ (f.pieces = [] → f.todo = [] → ∃ t, exec (.mxOccupancyEnd c) s = .next t
        ∧ (t.core c).mx.flight = (s.core c).mx.flight.filter (fun x => decide (x.seq ≠ f.seq))
        ∧ (∀ b : Bool, (t.core c).mx.buf b = if f.buf = some b then f.acc.getD ((s.core c).mx.buf b) else (s.core c).mx.buf b)
        ∧ (t.core c).mx.tbl = f.tbl.getD (s.core c).mx.tbl ∧ (t.core c).mx.td = (s.core c).mx.td
        ∧ (t.core c).mx.pi = (s.core c).mx.pi ∧ (t.core c).mx.tref = (s.core c).mx.tref
        ∧ (t.core c).tokens = ((s.pushDone (.eng .mx c) c f.job f.seq f.pushes f.tag).core c).tokens ∧ t.mem = s.mem
        ∧ t.posts = s.posts ++ (f.post.map fun p => (⟨p.1, false, f.job, c, p.2, f.writes.map (·.2)⟩ : Post)).toList
        ∧ ∀ u n, (t.stream u).rg n = (s.stream u).rg n))

/-- R36, R37, R39, R84, R175, R176: however often the inner accumulators are promoted, an element that all of it has been promoted into
is the old one plus the sum over the K-blocks of their products, each scaled by its two codes (the high slice of CODED16 by 256 more;
the sub-blocks of FP4 by their four pairs), exactly, where no sum on the way passes the 576 bits; nothing is left pending, and the mark is
the lowest shift of the promotions of an integer pair. -/
def Obligations.PromotionIntervals : Prop :=
  (∀ (as bs : List KBlock) (e : Elem) (pi slice : Nat), e.i = 0 → e.count = 0 → e.pair = none → e.iHigh = 0 → e.countHigh = 0 →
      e.pairHigh = none →
      let shift := fun (p : KBlock × KBlock) => s10Exp (p.1.scales.headD 0) + s10Exp (p.2.scales.headD 0) + (if slice = 1 then 8 else 0)
      let term := fun (p : KBlock × KBlock) => dot p.1.xs p.2.xs
        * ((s10Sig (p.1.scales.headD 0) * s10Sig (p.2.scales.headD 0) : Nat) : Int) * 2 ^ shift p
      let terms := (as.zip bs).map term
      (∀ n, -2 ^ 575 ≤ e.w.toInt + (terms.take n).sum ∧ e.w.toInt + (terms.take n).sum < 2 ^ 575) →
      ∃ r m, Elem.product false false pi slice true as bs e = some (r, m)
        ∧ r.w.toInt = e.w.toInt + terms.sum
        ∧ r.i = 0 ∧ r.pair = none ∧ r.iHigh = 0 ∧ r.pairHigh = none ∧ (r.m, r.x, r.gd) = (e.m, e.x, e.gd)
        ∧ (∀ p ∈ as.zip bs, ∃ n, m = some n ∧ n ≤ shift p) ∧ (∀ n, m = some n → ∃ p ∈ as.zip bs, n = shift p))
  ∧ (∀ (as bs : List KBlock) (e : Elem) (pi slice : Nat), e.pair = none → e.pairHigh = none →
      let sub := fun (p : KBlock × KBlock) (n : Nat) =>
        dot ((p.1.xs.drop (8 * n)).take 8) ((p.2.xs.drop (8 * n)).take 8)
        * (((e3m5 (p.1.scales.getD n 0)).1 * (e3m5 (p.2.scales.getD n 0)).1 : Nat) : Int)
        * 2 ^ ((e3m5 (p.1.scales.getD n 0)).2 + (e3m5 (p.2.scales.getD n 0)).2 + 238)
      let terms := (as.zip bs).flatMap fun p => (List.range 4).map (sub p)
      (∀ n, -2 ^ 575 ≤ e.w.toInt + (terms.take n).sum ∧ e.w.toInt + (terms.take n).sum < 2 ^ 575) →
      ∃ r m, Elem.product false true pi slice true as bs e = some (r, m) ∧ r.w.toInt = e.w.toInt + terms.sum)

/-! ### The vector execute engine (spec/06) -/

/-- A VE instruction has its turn (R185, R190 to R192, R214): its tokens are there, T is a type, the LQ entries that its v31 sources
pop, its own job's, are filled and unmarked, SQ has room for its results. s2 is the state with tokens and entries taken, x what it reads. -/
structure Sys2Proof.Claim.VeTurn (s : State) (tk : BitVec 3) (c : Nat) (t : ElemType) (srcs ds : List (BitVec 5)) (s2 : State)
    (x : VeIn) : Prop where
  cur : s.cur = .eng .ve c
  type : elemTypeOf (dbits s.me.vt 3 0) = some t
  turn : ∃ s1, Tokens s tk s1 ∧
    let k := s1.core c
    let j := s.me.job.getD 0
    let need := (srcs.filter (· = 31)).length
    k.ready s.pkg c j need = true ∧ k.sq.length + (ds.filter (· = 31)).length ≤ 16
    ∧ (∀ e ∈ (k.entriesOf j).take need, e.marked = none)
    ∧ s2 = s1.setCore c { k with lq := popped j need k.lq }
    ∧ x = ⟨t, dbits s.me.vt 5 4, k.ve.mask, veSources k.ve srcs (k.entriesOf j)⟩

/-- Element i of source k. -/
def Sys2Proof.Claim.elem (x : VeIn) (k i : Nat) : Nat := (x.el k).getD i 0

/-- The instruction writes a result to v[d], or pushes it where d is 31 (R186), and completes. -/
def Sys2Proof.Claim.Yields (i : Instr) (s : State) (tk : BitVec 3) (c : Nat) (d : BitVec 5) (s2 : State) (o : VeOut) : Prop :=
  exec i s = .next (ended s tk (s2.vwrite c d o).retire)

/-- The instruction writes f i to every element i whose mask bit is set (R194). -/
def Sys2Proof.Claim.Each (i : Instr) (s : State) (tk : BitVec 3) (c : Nat) (d : BitVec 5) (s2 : State) (x : VeIn) (f : Nat → Nat) :
    Prop :=
  Yields i s tk c d s2 ⟨x.t.width, (List.range (2048 / x.t.width)).map f, x.on⟩

/-- R196 to R199: the element-by-element instructions, integer, logical, floating and the special functions; vd of VMAD and VFMA is
read as a third source. -/
def Obligations.VectorElementResults : Prop :=
  ∀ (s : State) (tk : BitVec 3) (c : Nat) (t : ElemType) (d a b : BitVec 5) (u sat h n : BitVec 1) (k : BitVec 5) (s2 : State)
      (x : VeIn),
    let w := t.width
    let r := readInt (u = 1) w
    let out := writeInt (u = 1) (sat = 1) w
    let plain := writeInt (u = 1) false w
    (VeTurn s tk c t [a, b] [d] s2 x →
      (t.isFloat = false →
        Each (.vadd tk d a b u sat) s tk c d s2 x (fun i => out (r (elem x 0 i) + r (elem x 1 i)))
        ∧ Each (.vsub tk d a b u sat) s tk c d s2 x (fun i => out (r (elem x 0 i) - r (elem x 1 i)))
        ∧ Each (.vmul tk d a b 0 u sat) s tk c d s2 x (fun i => out (r (elem x 0 i) * r (elem x 1 i)))
        ∧ Each (.vmul tk d a b 1 u 0) s tk c d s2 x (fun i => plain (r (elem x 0 i) * r (elem x 1 i) / 2 ^ w))
        ∧ Each (.vmin tk d a b u) s tk c d s2 x (fun i => plain (min (r (elem x 0 i)) (r (elem x 1 i))))
        ∧ Each (.vmax tk d a b u) s tk c d s2 x (fun i => plain (max (r (elem x 0 i)) (r (elem x 1 i))))
        ∧ Each (.vshl tk d a b 0 k) s tk c d s2 x (fun i => elem x 0 i * 2 ^ (elem x 1 i % w) % 2 ^ w)
        ∧ Each (.vshr tk d a b 0 u k) s tk c d s2 x (fun i => unsignedOf (r (elem x 0 i) / 2 ^ (elem x 1 i % w)) w))
      ∧ Each (.vand tk d a b) s tk c d s2 x (fun i => elem x 0 i &&& elem x 1 i)
      ∧ Each (.vor tk d a b) s tk c d s2 x (fun i => elem x 0 i ||| elem x 1 i)
      ∧ Each (.vxor tk d a b) s tk c d s2 x (fun i => elem x 0 i ^^^ elem x 1 i)
      ∧ (t.isFloat = true →
        Each (.vfadd tk d a b) s tk c d s2 x (fun i => fadd t x.rnd (elem x 0 i) (elem x 1 i))
        ∧ Each (.vfsub tk d a b) s tk c d s2 x (fun i => fsub t x.rnd (elem x 0 i) (elem x 1 i))
        ∧ Each (.vfmul tk d a b) s tk c d s2 x (fun i => fmul t x.rnd (elem x 0 i) (elem x 1 i))
        ∧ Each (.vfmax tk d a b) s tk c d s2 x (fun i => pickFloat t true (elem x 0 i) (elem x 1 i))
        ∧ Each (.vfmin tk d a b) s tk c d s2 x (fun i => pickFloat t false (elem x 0 i) (elem x 1 i))))
    ∧ (VeTurn s tk c t [a, b, d] [d] s2 x →
      (t.isFloat = false →
        Each (.vmad tk d a b u sat) s tk c d s2 x (fun i => out (r (elem x 2 i) + r (elem x 0 i) * r (elem x 1 i))))
      ∧ (t.isFloat = true → Each (.vfma tk d a b h n) s tk c d s2 x
          (fun i => ffma t x.rnd (n = 1) (h = 1) (elem x 0 i) (elem x 1 i) (elem x 2 i))))
    ∧ (VeTurn s tk c t [a] [d] s2 x →
      (t.isFloat = false →
        Each (.vabs tk d a sat) s tk c d s2 x (fun i => writeInt false (sat = 1) w (sextInt (elem x 0 i) w).natAbs)
        ∧ (k.toNat < w →
          Each (.vshl tk d a b 1 k) s tk c d s2 x (fun i => elem x 0 i * 2 ^ k.toNat % 2 ^ w)
          ∧ Each (.vshr tk d a b 1 u k) s tk c d s2 x (fun i => unsignedOf (r (elem x 0 i) / 2 ^ k.toNat) w)))
      ∧ (t.isFloat = true → ∀ f : BitVec 4, f.toNat < 12 →
        Each (.vsfn tk d a f) s tk c d s2 x (fun i => sfn f.toNat t x.rnd (elem x 0 i))))

/-- R186, R194: what writing a result means: of a register, element by element, what the instruction writes, else what was there;
of an SQ entry, 0 with the enables of the element clear where it is not written. -/
def Obligations.VectorWrites : Prop :=
  ∀ (o : VeOut) (v : VWord), o.w ∈ [8, 16, 32] → o.vals.length = 2048 / o.w →
    (∀ i, i < 2048 / o.w →
      (elemsOf o.w (o.into v)).getD i 0 = (if o.on i then o.vals.getD i 0 % 2 ^ o.w else (elemsOf o.w v).getD i 0)
      ∧ (elemsOf o.w o.entry.data).getD i 0 = (if o.on i then o.vals.getD i 0 % 2 ^ o.w else 0)
      ∧ ∀ j, j < o.w / 8 → o.entry.en.getLsbD (i * (o.w / 8) + j) = o.on i)
    ∧ (∀ (s : State) (c : Nat) (d : BitVec 5), d ≠ 31 → let t := s.vwrite c d o
        (t.core c).ve.reg d = o.into ((s.core c).ve.reg d) ∧ (∀ e, e ≠ d → (t.core c).ve.reg e = (s.core c).ve.reg e)
        ∧ (t.core c).ve.masks = (s.core c).ve.masks ∧ t.mem = s.mem ∧ t.streams = s.streams
        ∧ ∀ k, k ≠ c → t.core k = s.core k)

/-- R200 to R206, R209, R210: conversion, quantisation and its inverse, comparison, selection, shuffle, reduction, scan, the immediate
and the moves of one element. -/
def Obligations.VectorSelections : Prop :=
  ∀ (s : State) (tk : BitVec 3) (c : Nat) (t : ElemType) (d a b : BitVec 5) (f : BitVec 1) (p : BitVec 2) (s2 : State) (x : VeIn),
    let w := t.width
    let n := 2048 / w
    let all := fun (g : Nat → Nat) => (⟨w, (List.range n).map g, fun _ => true⟩ : VeOut)
    (VeTurn s tk c t [a, b] [d] s2 x →
      (∀ (u : BitVec 1) (k : BitVec 3), k ≠ 7 → (t.isFloat = false → k ≠ 6) → (t.isFloat = true → u = 0) →
        Each (.vcmp tk d a b u k) s tk c d s2 x (fun i =>
          if (if t.isFloat then cmpFloat k.toNat (t.value (elem x 0 i)) (t.value (elem x 1 i))
            else cmpInt k.toNat (readInt (u = 1) w (elem x 0 i)) (readInt (u = 1) w (elem x 1 i))) then 2 ^ w - 1 else 0))
      ∧ Yields (.vsel tk d a b) s tk c d s2 (all fun i => if x.on i then elem x 0 i else elem x 1 i)
      ∧ Each (.vshuf tk d a b f) s tk c d s2 x (fun i =>
          if n ≤ elem x 1 i ∧ f = 1 then 0 else elem x 0 (elem x 1 i % n))
      ∧ (t.isFloat = true →
        let bytes := elemsOf 8 (x.src.getD 0 0)
        let hs := elemsOf 16 (x.src.getD 1 0)
        let codes := (List.range x.blocks).map fun b => blockCode (x.block b)
        let mine := fun (j : Nat) => decide (p.toNat * x.blocks ≤ j) && decide (j < p.toNat * x.blocks + x.blocks)
        (p.toNat < 256 / n → (∀ i, i < n → hs.getD ((p.toNat * n + i) / 32) 0 < 1020) →
          Each (.vdq tk d a b p) s tk c d s2 x (fun i =>
            let v := sextInt (bytes.getD (p.toNat * n + i) 0) 8
            let k := hs.getD ((p.toNat * n + i) / 32) 0
            (t.round x.rnd (decide (v < 0)) (v.natAbs * s10Sig k) ((s10Exp k : Int) - 129)).1))
        ∧ (p.toNat < 8 / x.blocks →
          ((∀ j, mine j = true → hs.getD j 0 < 1024) →
            exec (.vqnt tk d a b 1 p) s = .next (ended s tk ((s2.vwrite c d ⟨16, (List.range 128).map fun j =>
              if mine j then max (codes.getD (j - p.toNat * x.blocks) (0, false)).1 (hs.getD j 0) else hs.getD j 0, fun _ => true⟩).stickSat
                (codes.any (·.2))).retire))
          ∧ ((∀ j, mine j = true → hs.getD j 0 < 1020) →
            let o := x.quants p.toNat fun b => hs.getD (p.toNat * x.blocks + b) 0
            exec (.vqnt tk d a b 2 p) s = .next (ended s tk ((s2.vwrite c d o.1).stickSat o.2).retire)))))
    ∧ (VeTurn s tk c t [a] [d, b] s2 x → t.isFloat = true → p.toNat < 8 / x.blocks →
        let codes := (List.range x.blocks).map fun b => blockCode (x.block b)
        let o := x.quants p.toNat fun b => (codes.getD b (0, false)).1
        let scales := (⟨16, (List.range 128).map fun j =>
          if p.toNat * x.blocks ≤ j ∧ j < p.toNat * x.blocks + x.blocks then (codes.getD (j - p.toNat * x.blocks) (0, false)).1 else 0,
          fun _ => true⟩ : VeOut)
        exec (.vqnt tk d a b 0 p) s = .next (ended s tk (((s2.vwrite c d o.1).vwrite c b scales).stickSat
          (codes.any (·.2) || o.2)).retire))
    ∧ (VeTurn s tk c t [a] [d] s2 x →
      (∀ (k : BitVec 4) (src : ElemType), elemTypeOf k.toNat = some src → p.toNat < cvtParts src.width w →
        Each (.vcvt tk d a p k) s tk c d s2 x (fun i =>
          let es := elemsOf src.width (x.src.getD 0 0)
          let ns := 2048 / src.width
          if w < src.width then (if i / ns = p.toNat then convert src t x.rnd (es.getD (i - p.toNat * ns) 0) else 0)
          else convert src t x.rnd (es.getD (p.toNat * n + i) 0)))
      ∧ (∀ o : BitVec 3, (t.isFloat = true → o.toNat ≤ 2) →
        Yields (.vred tk d a o) s tk c d s2 (all fun i => if i = 0 then
          (tree (vredOp t x.rnd o.toNat) 8 ((List.range n).map fun i => if x.on i then some (elem x 0 i) else none)).getD 0 else 0))
      ∧ Each (.vscan tk d a f) s tk c d s2 x (fun i =>
          (((List.range n).filter fun j => decide (if f = 1 then j < i else j ≤ i) && x.on j).map (elem x 0)).foldl
            (fun acc v => vredOp t x.rnd 0 acc v) 0))
    ∧ (VeTurn s tk c t [] [d] s2 x → ∀ v : BitVec 16, (t = .i8 → v.toNat < 256) →
        Each (.vimm tk d v) s tk c d s2 x (immElem t v.toNat))
    ∧ (VeTurn s tk c t [a] [] s2 x → (f = 1 → t.isFloat = false) →
        let v := elem x 0 ((s.rg b).toNat % n)
        exec (.vget tk d a b f) s
          = .next (ended s tk ((s2.wg d (if f = 1 then BitVec.ofInt 64 (sextInt v w) else BitVec.ofNat 64 v)).retire)))
    ∧ (VeTurn s tk c t [d] [d] s2 x →
        let i := (s.rg b).toNat % n
        Yields (.vput tk d a b) s tk c d s2 (all fun j =>
          if j = i ∧ x.on i = true then (s.rg a).toNat % 2 ^ w else elem x 0 j))

/-- R207, R208, R211: the mask stack. VMPUSH pushes the elements that are present and not zero, below 16 entries; VMINV puts the
other elements of the mask below on the top; VMPOP takes the top away; on a full or an empty stack MASK_STACK. VBMZ branches where
a pushed mask has no element; VCFG sets T and the rounding, and empties the stack on request. -/
def Obligations.MaskStack : Prop :=
  ∀ (s : State) (tk : BitVec 3) (c : Nat) (t : ElemType) (a : BitVec 5) (s2 : State) (x : VeIn),
    let ms := (s.core c).ve.masks
    let n := 2048 / t.width
    (VeTurn s tk c t [a] [] s2 x →
      (ms.length < 16 → ∃ m : BitVec 256, exec (.vmpush tk a) s = .next (ended s tk (s2.setMasks c (m :: ms)).retire)
        ∧ ∀ i, m.getLsbD i = (decide (i < n) && x.on i && decide (elem x 0 i ≠ 0)))
      ∧ (16 ≤ ms.length → exec (.vmpush tk a) s = .next (takeTrap s ⟨.maskStack, none, .std 0 0, .none⟩)))
    ∧ (VeTurn s tk c t [] [] s2 x →
      (∀ top rest, ms = top :: rest →
        exec (.vminv tk) s = .next (ended s tk (s2.setMasks c ((rest.headD (BitVec.allOnes 256) &&& ~~~top) :: rest)).retire)
        ∧ exec (.vmpop tk) s = .next (ended s tk (s2.setMasks c rest).retire))
      ∧ (ms = [] → exec (.vminv tk) s = .next (takeTrap s ⟨.maskStack, none, .std 0 0, .none⟩)
        ∧ exec (.vmpop tk) s = .next (takeTrap s ⟨.maskStack, none, .std 0 0, .none⟩))
      ∧ ∀ o : BitVec 22, exec (.vbmz tk o) s = .next (ended s tk
          (if ms ≠ [] ∧ (∀ i, i < n → x.on i = false)
            then s2.setMe { s2.me with pc := s2.me.a + BitVec.ofInt 64 (4 * o.toInt), waiting := none } else s2.retire)))
    ∧ ∀ (s1 : State) (f : BitVec 1) (r : BitVec 2) (k : BitVec 4), s.cur = .eng .ve c → Tokens s tk s1 → k.toNat < 8 →
        let s3 := s1.setMe { s1.me with vt := BitVec.ofNat 64 (r.toNat * 16 + k.toNat) }
        exec (.vcfg tk f r k) s = .next (ended s tk (if f = 1 then s3.setMasks c [] else s3).retire)

/-! ### The vector access engine and the copy engine (spec/06, spec/07) -/

/-- The entry that a load adds to LQ, as v goes on with it. -/
def Sys2Proof.Claim.lqEntry (s : State) (tk : BitVec 3) (v : State) (x : VlAccess) (es : Nat) : LqEntry :=
  let q := s.me.capture tk s.now
  ⟨v.cmdSeq, s.me.job.getD 0, false, 0, none, x.src, es, none, x.page, q.pushes, q.tag, true⟩

/-- A load with something to read adds its entry, at the end of LQ, or (bytes of another core's scratchpad, R215) a filled one; one
with nothing to read adds an entry of zeros, filled. -/
def Sys2Proof.Claim.LoadIssues (i : Instr) (s : State) (tk : BitVec 3) (c : Nat) (v : State) (x : VlAccess) (es : Nat) : Prop :=
  (x.src ≠ [] → x.foreign s.pkg c = false →
    exec i s = .next (launched s tk (({ v with cmdSeq := v.cmdSeq + 1 }.setCore c
      { v.core c with lq := (v.core c).lq ++ [lqEntry s tk v x es] }).retire)))
  ∧ (x.src ≠ [] → x.foreign s.pkg c = true → ∃ u e, exec i s = .next u ∧ (u.core c).lq.getLast? = some e ∧ e.filled = true
    ∧ e.src = x.src ∧ (u.core c).lq.length = (v.core c).lq.length + 1)
  ∧ (x.src = [] → ∃ u e, exec i s = .next u ∧ (u.core c).lq.getLast? = some e ∧ e.filled = true ∧ e.data = 0
    ∧ (u.core c).lq.length = (v.core c).lq.length + 1)

/-- A store adds its entry at the end of SB, which takes its data when SQ has it (R217); v is the state that it goes on from. -/
def Sys2Proof.Claim.StoreIssues (i : Instr) (s : State) (tk : BitVec 3) (c : Nat) (v : State) (x : VlAccess) (es : Nat)
    (en : BitVec 256) : Prop :=
  ∃ e : SbEntry, e.seq = v.cmdSeq ∧ e.dst = x.src.map (fun d => (d.1, d.2.1)) ∧ e.es = es ∧ e.en = en ∧ e.data = none
    ∧ e.revoked = false ∧ e.hash = hashOf x.page ∧ e.job = s.me.job.getD 0
    ∧ e.tag = (s.me.capture tk s.now).tag ∧ e.pushes = (s.me.capture tk s.now).pushes
    ∧ exec i s = .next (launched s tk ((({ v with cmdSeq := v.cmdSeq + 1 }.setCore c
        { v.core c with sb := (v.core c).sb ++ [e] }).sbTake c).retire))

/-- VL reads n bytes at an offset of a page now: its homes answer, they are bs, and the machine goes on as t. -/
def Sys2Proof.Claim.VlReads (s : State) (c root : Nat) (p : Page) (off n : Nat) (t : State) (bs : List Byte) : Prop :=
  ∃ pas, p.addrs (siteOf s.cur) off n = .ok pas
    ∧ VlAccess.go { page := some (root, p), src := pas.map fun pa => (0, pa, p.va + off) } s c true = .ok ()
    ∧ readPlain s (some p) pas (fun _ => BitVec.ofNat 64 (p.va + off)) = .ok (t, bs)

/-- R212 to R217, R219: with its tokens, room in its queue and elements that pass their checks, a load reserves an LQ entry for
the bytes that its shape names, a gather those that the next SQ entry names; a store or a scatter enters SB; VQSYNC goes on
when every earlier command has finished. R216: VLDT of a weight block of an image whose header and scale word keep their rules
reserves an entry that is decoded from the block when it arrives, with the number of weights of the block's row, and, with S,
a filled one of the scale word. -/
def Obligations.VectorAccess : Prop :=
  (∀ (s s1 : State) (tk : BitVec 3) (c : Nat) (h : BitVec 4) (a b : BitVec 5) (o : BitVec 13) (e : BitVec 2) (k : BitVec 6)
        (x : VlAccess), s.cur = .eng .vl c → Popped s tk s1 →
      let es := 2 ^ e.toNat
      let line : List VlElem := [⟨(s.rg a + BitVec.ofNat 64 (32 * o.toNat)).toNat, 256, 0⟩]
      let steps : List VlElem := (List.range (k.toNat + 1)).map fun i => ⟨(s.rg a + BitVec.ofNat 64 i * s.rg b).toNat, es, es * i⟩
      let picks := fun (q : SqEntry) => (((List.range 64).filter fun i => q.en.getLsbD (4 * i)).map fun i =>
        ⟨(s.rg a + BitVec.ofNat 64 (q.data.toNat / 2 ^ (32 * i) % 2 ^ 32)).toNat, es, 4 * i⟩ : List VlElem)
      let after := s1.setCore c { s1.core c with sq := (s1.core c).sq.drop 1 }
      (x.go s1 c (x.foreign s.pkg c) = .ok () → (s1.core c).lq.length < 16 →
        (vlCheck s1 h 4 false line = .ok x → LoadIssues (.vld tk h a o) s tk c s1 x 4)
        ∧ (e ≠ 3 → vlCheck s1 h es false steps = .ok x → LoadIssues (.vldh tk h a b e k) s tk c s1 x es)
        ∧ (e ≠ 3 → ∀ q, (s1.core c).indexEntry = some q → vlCheck s1 h es false (picks q) = .ok x →
            LoadIssues (.vgth tk h a e) s tk c after x es))
      ∧ (x.go s1 c false = .ok () → (s1.core c).sb.length < 16 →
        (vlCheck s1 h 4 true line = .ok x → (x.foreign s.pkg c = true → (s1.core c).indexEntry.isSome) →
          StoreIssues (.vst tk h a o) s tk c s1 x 1 0)
        ∧ (e ≠ 3 → vlCheck s1 h es true steps = .ok x → (x.foreign s.pkg c = true → (s1.core c).indexEntry.isSome) →
          StoreIssues (.vsth tk h a b e k) s tk c s1 x es 0)
        ∧ (e ≠ 3 → ∀ q, (s1.core c).indexEntry = some q → vlCheck s1 h es true (picks q) = .ok x →
          (x.foreign s.pkg c = true → (after.core c).indexEntry.isSome) → StoreIssues (.vsct tk h a e) s tk c after x es q.en))
      ∧ (Tokens s tk s1 → (s1.core c).lq.all (·.filled) = true → (s1.core c).sb = [] →
        exec (.vqsync tk) s = .next (ended s tk s1.retire)))
  ∧ (∀ (s s1 sA sB sC : State) (tk : BitVec 3) (c : Nat) (h : BitVec 4) (a b : BitVec 5) (sc : BitVec 1) (x : Handle) (p : Page)
        (hd : TcwHeader) (hb tbl sb : List Byte) (pas : List Nat), s.cur = .eng .vl c → Popped s tk s1 →
      let v := s.rg b
      let o := (s.rg a).toNat
      let kb := dbits v 23 0
      let n := dbits v 47 24
      let ob := o + hd.blockAt n kb
      let m := hd.mode.bytes - 4
      let y : VlAccess := { page := some (x.root, p), src := (List.range m).map fun i => (i, pas.getD i 0, p.va + ob + 4 + i) }
      let e : LqEntry := { lqEntry s tk sC y 1 with
        decode := some (bits (leNat hb) 7 0, if hd.table then some tbl else none, min 256 (hd.k - 256 * kb)) }
      let f : LqEntry := { e with filled := true, data := vecOf sb, src := [], decode := none, finishes := false }
      dbits v 63 48 = 0 → (s1.core c).lq.length + (1 + sc.toNat) ≤ 16 → handleTo s1 h o 64 64 false = .ok (x, p) →
      VlReads s1 c x.root p o 64 sA hb → tcwHeader (wordsOf hb 16) = .ok hd → kb < hd.rows → n < hd.n →
      ob + hd.mode.bytes ≤ 2 ^ p.bits →
      (if hd.table then VlReads sA c x.root p (o + 64) 256 sB tbl else sB = sA) →
      VlReads sB c x.root p ob 4 sC sb → bits (leNat sb) 31 20 = 0 →
      p.addrs (siteOf s.cur) (ob + 4) m = .ok pas → y.go sC c (y.foreign s.pkg c) = .ok () →
      (y.foreign s.pkg c = false → exec (.vldt tk h a b sc) s = .next (launched s tk (({ sC with cmdSeq := sC.cmdSeq + 1 }.setCore c
        { sC.core c with lq := (sC.core c).lq ++ (if sc = 1 then [e, f] else [e]) }).retire)))
      ∧ (y.foreign s.pkg c = true → ∃ u g, exec (.vldt tk h a b sc) s = .next u
        ∧ (u.core c).lq.length = (sC.core c).lq.length + 1 + sc.toNat
        ∧ (u.core c).lq[(sC.core c).lq.length]? = some g ∧ g.filled = true ∧ g.src = e.src ∧ g.decode = e.decode
        ∧ (sc = 1 → ∃ z, (u.core c).lq[(sC.core c).lq.length + 1]? = some z ∧ z.filled = true ∧ z.data = vecOf sb)))

/-- A CX command has its turn (R223): its tokens are there, a staging buffer and a tracker entry are free, and the command before the last
has finished. -/
structure Sys2Proof.Claim.CxTurn (s : State) (tk : BitVec 3) (c : Nat) (s1 : State) : Prop where
  cur : s.cur = .eng .cx c
  tokens : Popped s tk s1
  staging : s1.stagingUsed c < 2
  before : ∀ f ∈ (s1.core c).cx, f.xfer = none → f.passed = false
  tracker : s1.trackerUsed c < 64

/-- The command has completed (R223): the stream is past it, and what it holds staged waits to be written. -/
def Sys2Proof.Claim.Stages (i : Instr) (s : State) (tk : BitVec 3) (c : Nat) (v : State) (ps : List CxPart) : Prop :=
  exec i s = .next (launched s tk (v.launch c (s.me.capture tk s.now) ps false none none []).retire)

/-- R222, R226, R227, R229, R230: a copy between places that pass their checks stages, for byte i of its destination, byte i of
its source, both in the order of the shape; a fill the pattern of its register, by the offset's low three bits. R231: the
encoder stage: sum over the sources of coefficient times element, one 16-bit word each, and the sources' common scales, staged
for the destinations that the record names. -/
def Obligations.Copies : Prop :=
  (∀ (s s1 s2 s3 : State) (tk : BitVec 3) (c : Nat) (p : BitVec 2) (h : BitVec 4) (a : BitVec 5) (q : BitVec 2) (j : BitVec 4)
        (b : BitVec 5) (d x : Place) (ds sd sd' : List Dest) (bs : List Byte), CxTurn s tk c s1 →
      let dv := s.rg a
      let sv := s.rg b
      let n := placeAux dv + 1
      let staged := fun (bs : List Byte) => [partOf d.page (siteOf s.cur) (ds.zip bs)]
      (n ≤ 65536 → openPlace s1 p h (placeOff dv) n true = .ok d → d.wholeCells d.off n = .ok () →
          d.dests (siteOf s.cur) c (run d.off n) = .ok ds → reach s1 (ds.filterMap Dest.pa?) (d.name d.off) d.hash = .ok () →
        (placeAux sv = 0 → openPlace s1 q j (placeOff sv) n false = .ok x → x.dests (siteOf s.cur) c (run x.off n) = .ok sd →
            spansMeet (ds.filterMap Dest.pa?) (sd.filterMap Dest.pa?) = false →
            readPlace s1 x c (run x.off n) = .ok (s2, sd', bs) → Stages (.cpy tk p h a q j b) s tk c s2 (staged bs))
        ∧ Stages (.cfill tk p h a b) s tk c s1
            (staged ((run d.off n).map fun o => BitVec.ofNat 8 ((s.rg b).toNat / 2 ^ (8 * (o % 8))))))
      ∧ (∀ (w : List Word) (doffs soffs : List Nat), placeAux sv = 0 → openShape s1 p h (placeOff dv) true = .ok d →
          openShape s1 q j (placeOff sv) false = .ok x → readScratch s1 c (32 * placeAux dv) 32 = .ok (s2, w) →
          let n0 := wd w 0
          let n1 := wd w 1
          let n2 := wd w 2
          0 < n0 → 0 < n1 → 0 < n2 → n0 * n1 * n2 ≤ 65536 → wd w 3 = 0 →
          d.inside (shapeOffs d.off n0 n1 n2 (sextInt (wd w 4) 32) (sextInt (wd w 5) 32)) = .ok doffs →
          x.inside (shapeOffs x.off n0 n1 n2 (sextInt (wd w 6) 32) (sextInt (wd w 7) 32)) = .ok soffs →
          (∀ r, r < n1 * n2 → d.wholeCells (doffs.getD (r * n0) 0) n0 = .ok ()) →
          d.dests (siteOf s.cur) c doffs = .ok ds → x.dests (siteOf s.cur) c soffs = .ok sd →
          spansMeet (ds.filterMap Dest.pa?) (sd.filterMap Dest.pa?) = false →
          reach s2 (ds.filterMap Dest.pa?) (d.name (doffs.headD 0)) d.hash = .ok () →
          readPlace s2 x c soffs = .ok (s3, sd', bs) → Stages (.cpy3 tk p h a q j b) s tk c s3 (staged bs)))
  ∧ (∀ (s s1 s2 s3 s4 : State) (tk : BitVec 3) (c : Nat) (a : BitVec 5) (w : List Word) (d3 d4 : List Dest) (scales es : List Byte),
      CxTurn s tk c s1 → (s.rg a).toNat % 128 = 0 → readScratch s1 c (s.rg a).toNat 128 = .ok (s2, w) →
      firstWord (encChecks w) = none →
      let r := bits (wd w 0) 31 24 + 1
      let kbn := bits (wd w 0) 23 12 + 1
      let n := bits (wd w 0) 3 0
      let base := fun (i : Nat) => 16 * bits (wd w i) 23 0
      let dp := 16 * bits (wd w 5) 31 16
      let sp := 16 * bits (wd w 5) 15 0
      let blocks := (List.range r).flatMap fun i => (List.range kbn).map fun kb => (i, kb)
      let here : Place := ⟨1, none, 0, s2.pkg⟩
      let scaleAt := fun (j : Nat) (x : Nat × Nat) => base (14 + j) + 2 * (x.1 * kbn + x.2)
      let elementsAt := fun (j : Nat) (x : Nat × Nat) => (List.range 32).map fun e => base (6 + j) + x.1 * sp + 32 * x.2 + e
      let out := fun (i kb e k : Nat) => scratchPa s1.pkg c (base 3 + i * dp + 64 * kb + 2 * e + k)
      let outScale := fun (i kb k : Nat) => scratchPa s1.pkg c (base 4 + 2 * (i * kbn + kb) + k)
      base 3 + ((r - 1) * dp + 64 * kbn) ≤ scratchSize → base 4 + 2 * r * kbn ≤ scratchSize →
      (∀ j, j < n → base (6 + j) + ((r - 1) * sp + 32 * kbn) ≤ scratchSize ∧ base (14 + j) + 2 * r * kbn ≤ scratchSize) →
      readPlace s2 here c ((List.range n).flatMap fun j => blocks.flatMap fun x => [scaleAt j x, scaleAt j x + 1]) = .ok (s3, d3, scales) →
      let scale := fun (j i kb : Nat) => leNat ((scales.drop (2 * (j * (r * kbn) + (i * kbn + kb)))).take 2)
      (∀ j i kb, j < n → i < r → kb < kbn → scale j i kb = scale 0 i kb ∧ scale 0 i kb < 1024) →
      readPlace s3 here c ((List.range n).flatMap fun j => blocks.flatMap (elementsAt j)) = .ok (s4, d4, es) →
      let element := fun (j i kb e : Nat) => sextInt (es.getD (32 * (j * (r * kbn) + (i * kbn + kb)) + e) 0).toNat 8
      (∀ pas : List Nat, (∀ x ∈ pas, ∃ i kb e k, i < r ∧ kb < kbn ∧ e < 32 ∧ k < 2 ∧ (x = out i kb e k ∨ x = outScale i kb k)) →
        reach s4 pas (s.rg a) = .ok ()) →
      ∃ dst : List (Dest × Byte), Stages (.cpyenc tk a) s tk c s4 [partOf none (siteOf s.cur) dst]
        ∧ (∀ i kb e, i < r → kb < kbn → e < 32 →
            let sum := ((List.range n).map fun j => encCoef w j * element j i kb e).sum
            ∀ k, k < 2 → (Dest.mem (out i kb e k), BitVec.ofNat 8 (unsignedOf sum 16 / 256 ^ k)) ∈ dst)
        ∧ (∀ i kb, i < r → kb < kbn → ∀ k, k < 2 → (Dest.mem (outScale i kb k), BitVec.ofNat 8 (scale 0 i kb / 256 ^ k)) ∈ dst)
        ∧ dst.length = r * kbn * 66)

/-- R232 to R234: CRMT to a package that is not present raises TABLE_NOT_RESIDENT; to this one or another, its destination translated there
(through the root of the control core of the same number, log entry 8) and checked before its source is read (R223), it stages a part for each
64 KiB page that is resident and a record for each that is not. CFETCH fills a slot from its region and makes a filling way for it, which its own finish makes valid, and no other;
CEVICT copies a slot into its region, and its finish makes the ways of the slot invalid. A slot that does not exist is ILLEGAL. -/
def Obligations.RemoteCopiesAndSlots : Prop :=
  (∀ (s s1 s2 s3 : State) (tk : BitVec 3) (c : Nat) (h : BitVec 4) (a : BitVec 5) (q : BitVec 2) (j : BitVec 4) (b : BitVec 5)
      (x : Place) (sd ds : List Dest) (bs : List Byte), CxTurn s tk c s1 →
    let dv := s.rg a
    let va := dbits dv 55 0
    let pkg := dbits dv 61 56
    let slot := (s.rg b).toNat
    let cap := s.me.capture tk s.now
    (dbits dv 63 62 = 0 → ∀ n, lengthOf (s.rg b) = .ok n → openPlace s1 q j (placeOff (s.rg b)) n false = .ok x →
      (pkg ∉ s1.exchange.present →
        exec (.crmt tk a q j b) s
          = .next (takeTrap s ⟨.tableNotResident, some (BitVec.ofNat 64 va), .raw (walkReport 3 6 0 0), .none⟩))
      ∧ (pkg ∈ s1.exchange.present → ∀ ls,
          landings s1 (s1.rootKey pkg s1.me.root) 8 (BitVec.ofNat 64 va) (pieces64k va n) = .ok (s2, ls) →
          readPlace s2 x c (run x.off n) = .ok (s3, sd, bs) →
          let runs := ls.zip ((pieces64k va n).map fun y => (bs.drop y.2.1).take y.2.2)
          exec (.crmt tk a q j b) s = .next (launched s tk (s3.launch c cap (runs.filterMap fun l => l.1.part? 8 l.2) true none none
            (runs.filterMap fun l => l.1.bounce? l.2 (.cx 0 0))).retire)))
    ∧ (slot < 6144 →
      (∀ pa ways, slotRegion s1 h (s.rg a).toNat false = .ok x → x.regionPa (siteOf s.cur) c = .ok pa →
        fetchTags (s1.core c).ways slot pa s1.cmdSeq = some ways →
        reach s1 ((run (4096 * slot) 4096).map (scratchPa s1.pkg c)) (BitVec.ofNat 64 (4096 * slot)) = .ok () →
        readPlace s1 x c (run x.off 4096) = .ok (s2, sd, bs) →
        exec (.cfetch tk h a b) s = .next (launched s tk ((s2.setCore c { s2.core c with ways := ways }).launch c cap
          [partOf none 0 (((run (4096 * slot) 4096).map fun o => Dest.mem (scratchPa s1.pkg c o)).zip bs)] false
          (some ((tagKey pa).1, (tagKey pa).2, slot)) none []).retire)
        ∧ ∃ w ∈ ways, (w.set, w.tag) = tagKey pa ∧ w.slot = slot ∧ w.state = .filling ∧ w.by_ = s1.cmdSeq)
      ∧ (∀ k : BitVec 1, slotRegion s1 h (s.rg a).toNat true = .ok x → x.dests (siteOf s.cur) c (run x.off 4096) = .ok ds →
        reach s1 (ds.filterMap Dest.pa?) (x.name x.off) x.hash = .ok () →
        readPlace s1 ⟨1, none, 0, s1.pkg⟩ c (run (4096 * slot) 4096) = .ok (s2, sd, bs) →
        exec (.cevict tk h a b k) s = .next (launched s tk (s2.launch c cap [partOf x.page (siteOf s.cur) (ds.zip bs)] false none
          (if k = 0 then some slot else none) []).retire)))
    ∧ (6144 ≤ slot → ∀ k : BitVec 1,
      exec (.cfetch tk h a b) s = .next (takeTrap s ⟨.illegal, none, .std 0 0, .none⟩)
      ∧ exec (.cevict tk h a b k) s = .next (takeTrap s ⟨.illegal, none, .std 0 0, .none⟩)))
  ∧ ∀ (s : State) (c : Nat) (f : CxFlight), let ways := ((s.cxFinish c f).core c).ways
      (∀ slot, f.evict = some slot → ∀ w ∈ ways, w.slot ≠ slot)
      ∧ (f.evict = none → f.tagWay ≠ none → ∀ w ∈ (s.core c).ways,
          (w.by_ = f.seq → w.state = .filling → ∃ k, { w with state := .valid, clock := k } ∈ ways) ∧ (w.by_ ≠ f.seq → w ∈ ways))

/-- R184, R214, R218: the data of an LQ entry that may be filled arrives: what a load of its bytes finds then (R301), laid out or decoded,
or, where a byte cannot be corrected, the mark that its pop raises UNCORRECTABLE by; a finished load pushes once nothing earlier is left
to release (R299). A store with its data writes one of the pieces that may be written, and finishes when it has written them all. R223,
R228: a staged command all of whose bytes are written finishes, with its tags and tokens; else one of the pieces that may be written is.
R235, R259: a stream transfer has its pieces translated, asks the pager for those that it cannot read, takes all of its runs, or, where they
exceed the 64 KiB of a staging buffer, one at a time into staging, and finishes when none is left, or with the cause that a check or a run
gives. -/
def Obligations.QueuedTransfersFinish : Prop :=
  (∀ (s : State) (c pos : Nat),
      (∀ p, (s.core c).vlPushes.find? (fun p => s.performedBefore (.eng .vl c) p.seq) = some p →
        exec (.vlLoadFill c pos) s = .next ((s.setCore c { s.core c with
          vlPushes := (s.core c).vlPushes.filter fun q => decide (q.seq ≠ p.seq) }).pushDone (.eng .vl c) c p.job p.seq p.pushes p.tag))
      ∧ ((∀ p ∈ (s.core c).vlPushes, s.performedBefore (.eng .vl c) p.seq = false) →
        ∀ e, (s.core c).lq[pos]? = some e → e.filled = false → s.mayFill c pos e = true →
        (s.firstBad e.pas = none → ∀ v w bs cs,
          (s.noteReads (.eng .vl c) e.pas (e.of.map (·.2.hash))).lookEach (.unit (.eng .vl c) e.job)
            ((s.view (.unit (.eng .vl c) e.job)).at_ e.seq) (e.of.map (·.2)) e.es e.pas = (v, bs) →
          v.hashBytes (hashOf e.of) e.pas bs = (w, cs) →
          let y : LqEntry := { e with filled := true, finishes := false, data := e.content cs }
          exec (.vlLoadFill c pos) s = .next ((w.setCore c { w.core c with lq := (w.core c).lq.set pos y }).loadFinished c e))
        ∧ (∀ i, s.firstBad e.pas = some i → ∃ t y, exec (.vlLoadFill c pos) s = .next t ∧ (t.core c).lq[pos]? = some y
          ∧ y.filled = true ∧ y.marked = some ((e.src.getD i (0, 0, 0)).2.2 / 64 * 64)))
      ∧ (let ready := fun (e : SbEntry) => e.data.isSome && e.dst.isEmpty && !e.revoked && (decide (e.pushes = 0) || s.performedBefore (.eng .vl c) e.seq)
        (∀ e, (s.core c).sb.find? ready = some e → exec (.vlStorePerform c) s = .next ((s.setCore c { s.core c with
            sb := (s.core c).sb.filter fun x => decide (x.seq ≠ e.seq) }).pushDone (.eng .vl c) c e.job e.seq e.pushes e.tag))
        ∧ ((∀ e ∈ (s.core c).sb, ready e = false) → ∀ y ys,
          s.sbPieces c (64 - (s.trackerUsed c - ((s.core c).sb.filter (·.data.isSome)).length)) = y :: ys →
          ∃ z ∈ y :: ys, ∃ n, let v := ({ s with fresh := n } : State).sbWrite c z
            exec (.vlStorePerform c) s = .next ((v.sbSettle c).getD v)
            ∧ ∀ e, (s.core c).sb[z.1]? = some e → v.mem = Mem.setAll s.mem ((e.pieces.getD z.2 []).map fun x => (s.direct x.1, x.2)))))
  ∧ (∀ (s : State) (c : Nat),
      let ready := fun (f : CxFlight) => s.cxWritten c f && (decide (f.pushes = 0) || s.performedBefore (.eng .cx c) f.seq)
      (∀ f, (s.core c).cx.find? ready = some f →
        exec (.cxCommandFinish c) s = .next (s.cxFinish c f)
        ∧ ((s.cxFinish c f).core c).cx = (s.core c).cx.filter (fun x => decide (x.seq ≠ f.seq)) ∧ (s.cxFinish c f).mem = s.mem
        ∧ ((s.cxFinish c f).core c).tokens = ((s.pushDone (.eng .cx c) c f.job f.seq f.pushes f.tag).core c).tokens)
      ∧ ((s.core c).cx.find? ready = none → ∀ y ys, s.cxPieces c = y :: ys →
        ∃ z ∈ y :: ys, ∃ n, let v := ({ s with fresh := n } : State).cxWrite c z
          exec (.cxCommandFinish c) s = .next ((v.cxSettle c).getD v))
      ∧ (∀ (lc ix : Nat) (e : ScbEntry), ((s.lc lc).scb.find? fun e => decide (e.ix = ix)) = some e →
        c = e.core → e.kernel = none → e.finished = false → (s.core c).gated = false → (s.core c).railHold ≤ s.now →
        let pieces := xferPages e.record
        let first := decide (e.run = 0)
        (first = true → e.found.length < pieces.length → ∀ v fs, s.findPieces lc c pieces e.found = (v, fs) →
          exec (.streamTransferFinish lc ix) s = .next (v.setEntry lc ix fun x => { x with found := fs }))
        ∧ (first = true → pieces.length ≤ e.found.length → ∀ k, e.firstCause s.pkg = some k →
          exec (.streamTransferFinish lc ix) s = .next (s.finishXfer lc e k.code))
        ∧ (first = true → pieces.length ≤ e.found.length → e.firstCause s.pkg = none → (s.core c).cut = none → e.outbound = false →
          e.requests lc ≠ [] → e.asked = false →
          exec (.streamTransferFinish lc ix) s = .next { s.setEntry lc ix fun x => { x with asked := true } with
            toBounce := s.toBounce ++ e.requests lc })
        ∧ ((first = true → pieces.length ≤ e.found.length ∧ e.firstCause s.pkg = none
            ∧ (e.outbound = true ∨ (e.requests lc = [] ∧ (s.core c).cut = none))) →
          let w := if first then s.freshView (e.agent lc) e.clock else s
          let left := (transferRuns e.record).drop e.run
          let next := if e.total ≤ 65536 then left else left.take 1
          (left = [] → w.xferBusy lc e = false → exec (.streamTransferFinish lc ix) s = .next (w.finishXfer lc e 0))
          ∧ (left ≠ [] → w.stagingUsed c < 2 → w.trackerUsed c < 64 →
            (∀ v ps bs, w.stageRuns lc e next = .ready v ps bs → exec (.streamTransferFinish lc ix) s
              = .next ((v.setEntry lc ix fun x => { x with run := x.run + next.length }).launchRuns lc e ps bs))
            ∧ ∀ v k, w.stageRuns lc e next = .cause v k → v.xferBusy lc e = false →
              exec (.streamTransferFinish lc ix) s = .next (v.finishXfer lc e k.code)))))

/-! ### The network engine, the trellis engine, coded operators (spec/07, spec/17) -/

/-- A command of NX that passes data may issue (R223): a staging buffer is free, and the command before the last has finished. -/
def Sys2Proof.Claim.nxFree (k : Die) : Prop := k.sends.length < 2 ∧ ∀ y ∈ k.sends, y.passed = false

/-- The sends of a die once a later command has issued. -/
def Sys2Proof.Claim.passedSends (k : Die) : Die := { k with sends := k.sends.map fun (y : NxSend) => { y with passed := true } }

/-- R236 to R242: NSEND stages its bytes and waits for an acknowledgement; NRECV and NRED post a receiver, and complete when a
message has been delivered to it; NMATCH puts a prepared card and its buffer into the match table; NBAR arrives once no byte
is pending; NPEND reads the pending bytes. R243, R244: NROUTE begins with its record checked, goes on by a claim
(`routeStep`) at each turn, which adds 1 to the expert's counter, and completes with the number of dropped tokens when every payload is delivered and
every join made; the joins are made one by one, whichever of those that may be made comes first. -/
def Obligations.NetworkWords : Prop :=
  (∀ (s s1 s2 : State) (tk : BitVec 3) (die c : Nat) (h : BitVec 4) (a b d e : BitVec 5) (sp : BitVec 1) (o : BitVec 4) (x : Place)
        (sd : List Dest) (bs : List Byte) (r : Receiver) (m : NxHeader), s.cur = .nx die → c = s.coreOf s.cur → Popped s tk s1 →
      let k := s1.die die
      (∀ n, peerOk s1 (s.rg b) false = .ok () → lengthOf (s.rg a) = .ok n → nxPlace s1 sp h (placeOff (s.rg a)) n false = .ok x →
        nxFree k → k.pendingBytes + n < 2 ^ 40 → s1.trackerUsed c < 64 →
        readPlace s1 x c (run x.off n) = .ok (s2, sd, bs) →
        let q := s.me.capture tk s.now
        let y : NxSend := ⟨s2.cmdSeq, n, s.rg b, bs, 0, 0, 0, c, s.me.job.getD 0, false, q.pushes, q.tag,
          s2.releaseOf (s2.agentOf s.cur) s2.cmdSeq 0⟩
        exec (.nsend tk h a b sp) s = .next (launched s tk (({ s2 with cmdSeq := s2.cmdSeq + 1 }.setDie die
          { passedSends (s2.die die) with sends := (passedSends (s2.die die)).sends ++ [y], pendingBytes := (s2.die die).pendingBytes + n }).retire)))
      ∧ (Tokens s tk s1 → s1.posted die = none → nxFree k →
        (receiver s1 0 sp h a b 0 = .ok r →
          ∃ t, exec (.nrecv tk h a b d sp) s = .next t ∧ t.die die = (passedSends k).post { r with seq := s1.cmdSeq } ∧ t.mem = s.mem
            ∧ t.me.pc = s.me.pc ∧ ∀ n, t.me.rg n = s.me.rg n)
        ∧ (receiver s1 2 sp h a b o.toNat = .ok r → r.ltype = 0 → r.cap % (redOp o.toNat).1 = 0 →
          ∃ t, exec (.nred tk h a b sp o) s = .next t ∧ t.die die = (passedSends k).post { r with seq := s1.cmdSeq } ∧ t.mem = s.mem
            ∧ t.me.pc = s.me.pc ∧ ∀ n, t.me.rg n = s.me.rg n))
      ∧ (Tokens s tk s1 → s.posted die = some r → r.done = some m →
        (s1.landedAll die r = true →
          exec (.nrecv tk h a b d sp) s = .next (ended s tk (((s1.dropReceiver die r).acquire (s1.agentOf s.cur) r.clock).wg d
            (BitVec.ofNat 64 (r.filled + (if r.cap < m.data.length then 2 ^ 40 else 0) + (m.pkg + 64 * m.die) * 2 ^ 41))).retire))
        ∧ (m.data.length = r.cap → r.landed.length < 2 → ∀ s3 r', reduceInto s1 die r m = .ok s3 → s3.posted die = some r' →
          s3.landedAll die r' = true → exec (.nred tk h a b sp o) s = .next (ended s tk (s3.dropReceiver die r').retire))
        ∧ (m.data.length ≠ r.cap → exec (.nred tk h a b sp o) s
            = .next (takeTrap (s.dropReceiver die r) ⟨.format, some (BitVec.ofNat 64 m.data.length), .std 1 0, .none⟩)))
      ∧ (let id := (s.rg e).toNat
        Tokens s tk s1 → nxFree k → id < 65536 → receiver s1 1 sp h a b 0 = .ok r → readCard s1 id = .ok s2 →
        cardFlag (s2.card id).words 3 = true → s2.prepared id = true → (s2.card id).state = .prepared →
        ((s2.die die).receivers.filter fun r => decide (r.kind = 1)).length < 64 →
        exec (.nmatch tk h a b e sp) s = .next (ended s tk ((s2.setCard id
          { s2.card id with state := .waiting }).postReceiver die { r with card := id }).retire))
      ∧ (Tokens s tk s1 → k.pendingBytes = 0 → ∃ t, exec (.nbar tk) s = .next t ∧ t.me.run = .parked .nbar ∧ t.mem = s.mem ∧ t.me.pc = s.me.pc
          ∧ ∀ n, t.me.rg n = s.me.rg n)
      ∧ (Tokens s tk s1 → exec (.npend tk d) s = .next (ended s tk (s1.wg d (BitVec.ofNat 64 (k.pendingBytes % 2 ^ 40))).retire)))
  ∧ (∀ (s s1 s2 : State) (tk : BitVec 3) (die : Nat) (d a : BitVec 5) (r : RouteRun), s.cur = .nx die →
      (Tokens s tk s1 →
        ((s1.die die).route = none → nxFree (s1.die die) → routeStart s1 (s.coreOf s.cur) (s.rg a).toNat = .ok (s2, r) →
          ∃ t, exec (.nroute tk d a) s = .next t ∧ (t.die die).route = some r ∧ t.me.pc = s.me.pc)
        ∧ ((s1.die die).route = some r →
          (r.token < wd r.words 0 → (s1.die die).pendingBytes + wd r.words 5 < 2 ^ 40 → ∀ v, routeStep s1 die r = .ok v →
            ∃ t, exec (.nroute tk d a) s = .next t ∧ t.die die = v.die die ∧ t.mem = v.mem ∧ t.me.pc = s.me.pc)
          ∧ (wd r.words 0 ≤ r.token → r.parts = [] → r.tops = [] →
            exec (.nroute tk d a) s = .next (ended s tk (((s1.setDie die { s1.die die with route := none }).wg d
              (BitVec.ofNat 64 r.dropped)).retire)))))
      ∧ (∀ (e : Expert) (v : State) (n : Nat), claim s r (some e) = .ok (v, .old n) → s.ecc = [] → s.busBad = [] → let pas := e.counter.2
          v.mem = Mem.setAll s.mem ((pas.map s.direct).zip (leBytes 4 ((n + 1) % 2 ^ 32)))
          ∧ (s.hashed = false → n = leNat (s.rdAll pas)))
      ∧ ((s.die die).route = some r → s.joinable die r ≠ [] → ∃ e ∈ s.joinable die r, ∃ n,
          let s' := ({ s with fresh := n } : State)
          let v := s'.setDie die { s.die die with route := some { r with tops := Tab.erase r.tops e } }
          let w := { v with cmdSeq := v.cmdSeq + 1 }
          (Tab.get r.experts e none = none → exec (.nrouteFillJoin die) s = .next v)
          ∧ ∀ x p pas, Tab.get r.experts e none = some x → x.fill = (p, pas) → s'.gatedCore (.nx die) pas = none →
            s'.mustWait (.nx die) pas (some p.hash) = false → s'.performedBefore (.nx die) r.seq = true →
            exec (.nrouteFillJoin die) s = .next (w.joinUnit 1 die p.replicated (decide (p.scope = 3))
              (w.writerOf (.nx die) r.job v.cmdSeq (some p.hash) p.scope (some p.scope)) pas (leBytes 4 (Tab.get r.tops e 0)))))

/-- R238 to R240, R242, R244: a header goes to the oldest posted receiver that accepts it, else to the pending list, else it is
refused and comes again after 1,700 ticks; a message for a scratchpad buffer is written and its receiver done; the sender finishes at
the acknowledgement; a full match-table entry releases its card (of a card no codeword of which is in error); a barrier at which every stream stands releases them. -/
def Obligations.NetworkEvents : Prop :=
  (∀ (s : State) (src : Nat) (x : NxSend),
    let d := peerDie x.peer
    let hdr := x.header s.pkg src
    let free := s.die d
    (s.die src).sends.find? (fun y => decide (y.seq = x.seq)) = some x → (s.die src).overtakes x = false →
    (x.stage = 0 → peerPkg x.peer = s.pkg → exec (.nxHeaderArrival d hdr) s = .next (s.headerComes src x))
    ∧ (∀ pos, x.stage = 2 → (s.die src).sends[pos]? = some x → x.due ≤ s.tick →
        exec (.nxHeaderRetry src pos) s = .next (s.headerComes src x))
    ∧ (∀ i r, findIdx (fun r => r.accepts hdr) free.receivers = some i → free.receivers[i]? = some r →
        ((s.headerComes src x).die d).receivers = free.receivers.set i { r with matched := r.matched ++ [hdr] })
    ∧ (findIdx (fun r => r.accepts hdr) free.receivers = none →
        (free.headers.length < 256 → ((s.headerComes src x).die d).headers = free.headers ++ [hdr])
        ∧ (256 ≤ free.headers.length → ∀ y ∈ ((s.headerComes src x).die src).sends, y.seq = x.seq →
            y.stage = 2 ∧ y.due = s.tick + 1700)))
  ∧ (∀ (s : State) (die pos : Nat) (r : Receiver) (m : NxHeader) (ms : List NxHeader), (s.die die).receivers[pos]? = some r →
      r.matched = m :: ms → r.kind = 0 → r.paged = false → s.cutAway r.job r.core = false → (s.core r.core).gated = false →
      (s.stream (.nx die)).run.live = true → (s.stream (.nx die)).job = some r.job → 0 < r.fits m.data.length →
      ∃ t, exec (.nxDelivery die pos) s = .next t
        ∧ t.mem = Mem.setAll s.mem ((((List.range (r.fits m.data.length)).map fun i =>
            s.direct (scratchPa s.pkg r.core (r.base + r.filled + i))).zip (m.data.take (r.fits m.data.length))))
        ∧ (∀ y ∈ (t.die die).receivers, y.seq = r.seq → y.done = some m ∧ y.filled = r.filled + r.fits m.data.length))
  ∧ (∀ (s : State) (die pos : Nat) (r : Receiver), (s.die die).receivers[pos]? = some r → r.matched = [] → r.kind = 1 →
      r.filled = r.cap → s.landedAll die r = true → s.ecc = [] → s.busBad = [] →
      ∃ t, exec (.nxDelivery die pos) s = .next t ∧ t.nextJob = s.nextJob + 1 ∧ (t.card r.card).state = .ready ∧ t.mem = s.mem
        ∧ ∃ j, t.job? s.nextJob = some j ∧ j.card = r.card ∧ j.ready = true)
  ∧ (∀ (s : State) (die seq : Nat) (x : NxSend), (s.die die).sends.find? (fun x => decide (x.seq = seq)) = some x →
      (peerPkg x.peer = s.pkg → x.stage = 3 ∧ s.bouncedOf (.nx (peerDie x.peer) x.via) = false) →
      (x.pushes ≠ 0 → s.performedBefore (.nx die) x.seq = true) →
      exec (.nsendAck die seq) s = .next ((s.setDie die { s.die die with
        sends := (s.die die).sends.filter (fun y => decide (y.seq ≠ seq)),
        pendingBytes := (s.die die).pendingBytes - x.len }).pushDone (.nx die) x.core x.job x.seq x.pushes x.tag))
  ∧ (∀ (s : State) (job : Nat) (jb : Job), s.job? job = some jb → s.nxStreams job jb ≠ [] → jb.allStarted = true →
      (∀ u ∈ s.nxStreams job jb, (s.stream u).run = .parked .nbar ∧ s.allPerformed u = true
        ∧ decode u.half (s.stream u).word = .ok (.nbar 0) ∧ (s.stream u).pfx.tokens = none
        ∧ ∀ q, (s.stream u).queued = some q → q.pops = 0 ∧ q.pushes = 0) →
      ∃ t, exec (.nbarRelease job) s = .next t ∧ t.mem = s.mem
        ∧ ∀ u ∈ s.nxStreams job jb, (t.stream u).run = .running ∧ (t.stream u).pc = (s.stream u).next.pc)
  ∧ (∀ (s s1 : State) (job : Nat) (jb : Job) (u : UnitId) (tk : BitVec 3), s.job? job = some jb → s.nxStreams job jb = [u] →
      jb.allStarted = true → (s.stream u).run = .parked .nbar → s.allPerformed u = true → decode u.half (s.stream u).word = .ok (.nbar tk) →
      let v : State := { s.meet [u] 3 with cur := u }
      let w := v.setMe { v.me with run := .running }
      Tokens w tk s1 → exec (.nbarRelease job) s = .next { ended w tk s1.retire with cur := s.cur })

/-- R246 to R251: TENC of a request that keeps its table accepts the writes of the image and leaves its statistics; TDEC of an image
those of its weights and scale words; TSTAT reads a statistic; in another stream they raise ILLEGAL. What is written waits to be
performed; where no codeword is in error, the memory is as it was before the step (the record of a corrected one is a write). -/
def Obligations.TrellisEngine : Prop :=
  (∀ (s s1 s2 sA sB s3 : State) (h j : BitVec 4) (a b : BitVec 5) (d x : Place) (hd tgt scw tbl : List Byte), s.cur = .te →
      placeAux (s.rg a) = 0 → placeAux (s.rg b) = 0 → tePlace s h (s.rg a) 0 true = .ok d → tePlace s j (s.rg b) 64 false = .ok x →
      teRead s x x.off 64 = .ok (s1, hd) →
      (let w := wordsOf hd 16
        let mode := (tcwMode (bits (wd w 0) 7 0)).getD default
        let table := decide (bits (wd w 0) 15 8 = 1)
        let given := decide (bits (wd w 0) 16 16 = 1)
        let k := wd w 1
        let n := wd w 2
        let rows := ceilDiv k 256
        firstWord (reqChecks w) = none → teRead s1 x (wd w 3) (4 * n * k) = .ok (s2, tgt) →
        (∀ i, i < n * k → (wordAt tgt i) / 2 ^ 23 % 256 ≠ 255) →
        (if given then teRead s2 x (wd w 4) (4 * rows * n) else .ok (s2, [])) = .ok (sA, scw) →
        (∀ i, i < scw.length / 4 → wordAt scw i < 2 ^ 20 ∧ s10Exp (scaleOf (wordAt scw i) 0) ≠ 255
          ∧ s10Exp (scaleOf (wordAt scw i) 128) ≠ 255) →
        (if table then teRead sA x (wd w 5) 256 else .ok (sA, [])) = .ok (sB, tbl) →
        d.off + (64 + tbl.length + rows * n * mode.bytes) ≤ d.limit →
        let blocks := (List.range (rows * n)).map fun i => encodeBlock mode (if table then some tbl else none)
          (if given then some (wordAt scw i) else none)
          ((List.range (min 256 (k - 256 * (i % rows)))).map fun e => wordAt tgt (i / rows * k + 256 * (i % rows) + e))
        teWrite sB d d.off (imageHeader (bits (wd w 0) 7 0) k n table ++ tbl ++ blocks.flatMap (·.bytes)) = .ok s3 →
        ∃ t, exec (.tenc h a j b) s = .next t ∧ t.pending = s3.pending ∧ t.mem = s3.mem ∧ (s.ecc = [] → t.mem = s.mem)
          ∧ t.teStats.get 0 = BitVec.ofNat 64 (min ((blocks.map (·.cost)).sum) (2 ^ 64 - 1))
          ∧ t.teStats.get 1 = BitVec.ofNat 64 ((blocks.map (·.clamps)).sum)
          ∧ t.teStats.get 2 = BitVec.ofNat 64 ((blocks.filter (·.pass2)).length + 2 ^ 32 * (blocks.filter (·.pass3)).length)
          ∧ t.teStats.get 3 = BitVec.ofNat 64 (rows * n) ∧ t.me.pc = s.me.next.pc ∧ ∀ r, t.me.rg r = s.me.rg r)
      ∧ (∀ (t : TcwHeader), tcwHeader (wordsOf hd 16) = .ok t → teRead s1 x (x.off + 64) (t.size - 64) = .ok (s2, tgt) →
        let first := if t.table then 256 else 0
        let f := if t.table then some (tgt.take 256) else none
        let block := fun (i : Nat) => (tgt.drop (first + i * t.mode.bytes)).take t.mode.bytes
        (∀ i, i < t.rows * t.n → bits (wordAt (block i) 0) 31 20 = 0) → d.off + 260 * (t.rows * t.n) ≤ d.limit →
        teWrite s2 d d.off (((List.range (t.rows * t.n)).flatMap fun i => (List.range 256).map fun e =>
            if t.k ≤ 256 * (i % t.rows) + e then 0 else BitVec.ofInt 8 (weightAt t.mode f (leNat ((block i).drop 4)) e))
          ++ (List.range (t.rows * t.n)).flatMap fun i => (block i).take 4) = .ok s3 →
        exec (.tdec h a j b) s = .next ((s3.setMe s3.me.counted).retire) ∧ (s.ecc = [] → s3.mem = s.mem)))
  ∧ (∀ (s : State) (d : BitVec 5) (f : BitVec 2), s.cur = .te →
      exec (.tstat d f) s = .next (((s.setMe s.me.counted).wg d (s.teStats[f.toNat]'(f.isLt))).retire))
  ∧ (∀ (s : State) (h j : BitVec 4) (a b : BitVec 5) (f : BitVec 2), s.cur ≠ .te →
      ∀ i ∈ [Instr.tenc h a j b, .tdec h a j b, .tstat a f],
        exec i s = .next (takeTrap s ⟨.illegal, none, .std 0 0, .none⟩))

/-- R413, R415, R416, R427: CODSET of a descriptor that keeps its rules sets a slot whose operator does not run; CMM of an
admitted operator, its ranges translated, writes the argument blocks, starts it and gives its deadline, 0 when it is refused; CDWAIT gives
the status word when the operator has ended, and acquires what it wrote. R420 to R426: a post whose image, as it was posted, its slot accepts is
kept and copied into the return area, any other is dropped; once its decision tick is over (without WAITALL that of its k-th return), the tile
with the earliest one, the lowest of several, is decided with the returns that it held then; a free decoder takes the next, a busy one
writes a 64-byte piece of its tile; the operator ends when every tile is decided and written, or at its deadline with MISS. -/
def Obligations.CodedOperators : Prop :=
  (∀ (s s1 : State) (h : BitVec 4) (d a b : BitVec 5) (i : Nat) (va : Nat) (bs : List Byte) (ps : List Page),
      (s.cur = .ctx i .c → lining s = .ok () → (s.rg b).toNat < 64 → (s.codedSlot (s.rg b).toNat).running = false →
        readRecord s h a 128 = .ok (s1, va, bs) → firstWord (codingChecks (wordsOf bs 32)) = none →
        exec (.codset h a b) s
          = .next (counted ((s1.setCoded (s.rg b).toNat { Coded.reset with desc := wordsOf bs 32 }).retire)))
      ∧ (let n := (s.rg a).toNat
        let x := s.codedSlot n
        let c := codingOf x.desc
        (s.cur = .ctx i .c → lining s = .ok () → n < 64 → x.desc ≠ [] → x.running = false → s.allPerformed s.cur = true →
          ∀ s2, (if c.outer then .ok s else readCard s c.tmpl) = .ok s2 →
          (c.outer = false → s2.prepared c.tmpl = true ∧ cardFlag (s2.card c.tmpl).words 1 = true
            ∧ cardPlace (s2.card c.tmpl).words = 0) → operatorPages s2 i x.desc = .ok (s1, ps) →
          (s1.admitOperator x.desc = none → exec (.cmm d a) s = .next (counted (wrote s1 d 0)))
          ∧ (∀ dl, s1.admitOperator x.desc = some dl → reachCells s1 (argCells x.desc n) ps = .ok () →
              ∃ t, exec (.cmm d a) s = .next t
              ∧ t.me.rg d = (if d = 0 then 0 else BitVec.ofNat 64 dl) ∧ (t.codedSlot n).running = true
              ∧ (t.codedSlot n).deadline = dl ∧ (t.codedSlot n).desc = x.desc ∧ (t.codedSlot n).returns = []
              ∧ (t.codedSlot n).pages = ps ∧ t.mem = (s1.codedPut n false ps (argCells x.desc n)).mem
              ∧ t.nextJob = s.nextJob + (if c.outer then 0 else c.tasks)))
        ∧ (s.cur = .ctx i .c ∨ s.cur = .ctx i .s → n < 64 → x.desc ≠ [] → x.running = false →
          exec (.cdwait d a) s = .next (counted (wrote (if x.started then s.acquire (s.agentOf s.cur) (s.codedDone n x.clock) else s) d
            (if x.started then x.status else 0))))))
  ∧ ((∀ (s v : State) (pos : Nat) (p : Post) (image : List Byte), s.posts[pos]? = some p →
        let r := ({ s with posts := s.posts.eraseIdx pos } : State)
        r.postImage p = (v, image) →
        let n := bits p.tag 31 26
        let x := s.codedSlot n
        let cells := x.copyCells p image
        (r.acceptsPost p = true → v.codedShut x.pages (cells.map (·.1)) = none →
          ∃ u, exec (.codedPost pos none) s = .next u ∧ u.posts = s.posts.eraseIdx pos
          ∧ u.mem = (v.codedPut n true x.pages cells).mem
          ∧ (u.codedSlot n).returns = x.returns ++ [((bits p.tag 25 22, bits p.tag 21 0), s.tick)])
        ∧ (r.acceptsPost p = false → exec (.codedPost pos none) s = .next r))
    ∧ (∀ (s t : State) (pos pkg tag : Nat) (image : List Byte), pkg ≠ s.pkg → pkg ∈ s.exchange.present →
        s.takePost ⟨tag, true, pkg, 0, 0, image⟩ = .inr t → exec (.codedPost pos (some (pkg, tag, image))) s = .next t)
    ∧ (∀ (s : State) (slot tile : Nat), let x := s.codedSlot slot
        ∀ n, s.decidable x tile = some n → (∀ t m, s.decidable x t = some m → n < m ∨ (n = m ∧ tile ≤ t)) →
        n < s.tick ∧ ((codingOf x.desc).waitAll = false → x.heldAt tile (codingOf x.desc).k = some n)
        ∧ ∃ u, exec (.tileDecision slot tile) s = .next u ∧ u.decodeq = s.decodeq ++ [(slot, tile)]
          ∧ (u.codedSlot slot).decided = x.decided ++ [(tile, x.returned tile n)] ∧ u.mem = s.mem)
    ∧ (∀ (s : State) (dec : Nat),
        (∀ tile slot q v rs, Tab.find? s.decoders dec = none → s.decodeq = (slot, tile) :: q →
          let x := s.codedSlot slot
          let c := codingOf x.desc
          let from_ := ((x.decided.find? fun d => decide (d.1 = tile)).map (·.2)).getD []
          s.endsLater slot tile = false → s.codedShut x.pages (from_.flatMap (s.returnVas x tile)) = none →
          ({ s with decodeq := q } : State).readReturns x tile from_ = (v, rs) →
          let d := decideTile x.desc (rs.map (·.task)) (rs.filterMap (Read.aligned (commonLo rs))) (c.rows tile * c.cols tile)
          ∃ u, exec (.tileDecode dec) s = .next u ∧ u.decodeq = q ∧ (u.codedSlot slot).decoded = x.decoded ++ [tile]
            ∧ (u.codedSlot slot).solved = (x.takeDecision tile (commonLo rs) d).solved
            ∧ (u.codedSlot slot).loc = (x.takeDecision tile (commonLo rs) d).loc
            ∧ (u.codedSlot slot).unloc = (x.takeDecision tile (commonLo rs) d).unloc ∧ u.mem = v.mem ∧ ∀ r, u.me.rg r = s.me.rg r)
        ∧ (∀ d, Tab.find? s.decoders dec = some d → s.endsLater d.slot d.tile = false → exec (.tileDecode dec) s = .next (s.decoderWrite dec d)
          ∧ (d.todo ≠ [] → (∀ line ∈ d.todo.map (fun x => x.1 / 64), s.codedShut (s.codedSlot d.slot).pages
              ((d.todo.filter fun x => decide (x.1 / 64 = line)).map (·.1)) = none) →
            ∃ line ∈ d.todo.map (fun x => x.1 / 64), ∃ k, (s.decoderWrite dec d).mem = (({ s with fresh := k } : State).codedPut d.slot false
              (s.codedSlot d.slot).pages (d.todo.filter fun x => decide (x.1 / 64 = line))).mem)))
    ∧ (∀ (s : State) (slot : Nat), let x := s.codedSlot slot
        (x.finished = true → exec (.operatorEnd slot) s = .next (s.endOperator slot false))
        ∧ (x.running = true → x.finished = false → x.deadline ≤ s.tick →
          ∃ u w, exec (.operatorDeadline slot) s = .next u ∧ (u.codedSlot slot).running = false
            ∧ (u.codedSlot slot).status = x.statusWord true ∧ (x.statusWord true).getLsbD 25 = true
            ∧ (u.owed x.lc x.ctx).getLast? = some ⟨.deadlineMiss, BitVec.ofNat 64 slot, w⟩
            ∧ w.toNat / 2 ^ 32 = x.deadline % 2 ^ 32)))

/-! ### Watches, lattices, links, channels, management, the host (spec/15, spec/16, spec/23, spec/24) -/

/-- R266, R267, R365, R385, R386, R390 to R392: WATCH installs an entry in a free place and gives its number, all ones where there is
none, the quota is used or the step of the bring-up that starts watches is not done; UNWATCH removes an entry of the same control core,
and is ILLEGAL else; on LC16 and LC17, LXSET takes a schedule that connects the sites and gives 0, else (or before that step) 1, and
LAYSET sets a layout record; they are ILLEGAL on other control cores. -/
def Obligations.WatchAndLatticeWords : Prop :=
  ∀ (s s1 s2 : State) (h : BitVec 4) (a b d : BitVec 5) (i va : Nat) (k : Ctx) (bs hd : List Byte) (ps : List Page) (p p' : Page),
    s.cur = .ctx i k → lining s = .ok () →
    (readRecord s h a 64 = .ok (s1, va, bs) →
      let ws := wordsOf bs 16
      let id := wd ws 6
      ∀ s5, firstWord (watchChecks ws) = none → readCard s1 id = .ok s5 → s5.prepared id = true → cardFlag (s5.card id).words 2 = true →
      cardPlace (s5.card id).words = 2 → walkPages s5 i (wd ws 2 / 65536 + 2) (wd2 ws 0) (wd2 ws 0 + wd ws 2) = .ok (s2, ps) →
      (∀ x ∈ ps, x.scope = (ps.head?.map (·.scope)).getD 0) →
      (∀ n, s2.freeWatch = some n → s2.watchFull i k = false → 9 ≤ s2.mgc.stepDone →
        exec (.watch h a d) s = .next (counted (wrote { s2 with watches := s2.watches
          ++ [(n, watchOf i k ws ((ps.head?.map (·.scope)).getD 0) (watchPieces ps (wd2 ws 0) (wd ws 2)))] } d (BitVec.ofNat 64 n))))
      ∧ (s2.freeWatch = none ∨ s2.watchFull i k = true ∨ s2.mgc.stepDone < 9 →
        exec (.watch h a d) s = .next (counted (wrote s2 d (BitVec.allOnes 64)))))
    ∧ (∀ e, Tab.find? s.watches (s.rg a).toNat = some e →
      (e.lc = i → exec (.unwatch a) s = .next (counted (passed (s.dropWatch (s.rg a).toNat)))
        ∧ ((s.watches.map (·.1)).Nodup → Tab.find? (s.dropWatch (s.rg a).toNat).watches (s.rg a).toNat = none))
      ∧ (e.lc ≠ i → exec (.unwatch a) s = .next (takeTrap s ⟨.illegal, some (s.rg a), .std 0 0, .none⟩)))
    ∧ (Tab.find? s.watches (s.rg a).toNat = none →
      exec (.unwatch a) s = .next (takeTrap s ⟨.illegal, some (s.rg a), .std 0 0, .none⟩))
    ∧ (16 ≤ i →
      (readVia s h (s.rg a).toNat 16 16 = .ok (s1, p, hd) → firstWord (scheduleHead (wordsOf hd 4)) = none →
        let n := wd (wordsOf hd 4) 0
        let rs := roundsOf (wordsOf bs (4 + 4 * n)) n
        readVia s1 h (s.rg a).toNat (16 + 16 * n) 16 = .ok (s2, p', bs) →
        firstWord (scheduleBody (wordsOf bs (4 + 4 * n)) rs) = none →
        (connected rs = true → 9 ≤ s2.mgc.stepDone → exec (.lxset h a d) s
          = .next (counted (wrote { s2 with exchange := { s2.exchange with next := some rs } } d 0)))
        ∧ (connected rs = false ∨ s2.mgc.stepDone < 9 → exec (.lxset h a d) s = .next (counted (wrote s2 d 1))))
      ∧ ((s.rg b).toNat ≤ 4095 → readRecord s h a 64 = .ok (s1, va, bs) → firstWord (layoutChecks (wordsOf bs 16)) = none →
        exec (.layset h a b) s
          = .next (counted (passed { s1 with layouts := Tab.set s1.layouts (s.rg b).toNat (wordsOf bs 16) }))))
    ∧ (i < 16 → exec (.lxset h a d) s = .next (takeTrap s ⟨.illegal, none, .std 0 0, .none⟩)
      ∧ exec (.layset h a b) s = .next (takeTrap s ⟨.illegal, none, .std 0 0, .none⟩))

/-- R373, R383, R384, R388, R393 to R396: a trigger is coalesced, or spawns a job, or, past the entry's rate, disarms it with
RUNAWAY_TRIGGER; a rate window starts the counts anew; an invalidation that nothing holds translates the watched pages
that it covers again, and is done when all are; a round takes its snapshot and keeps every mark that it does not send; a line is
joined into a replica; an outer round joins the partner's lines. R407: the packages present are those that a route of one to six links leads
to, one route for each, the first that names it. -/
def Obligations.WatchAndLatticeEvents : Prop :=
  (∀ (s : State) (t : Trigger) (ts : List Trigger) (e : Watch), s.triggers = t :: ts → t.tick < s.tick →
      Tab.find? s.watches t.entry = some e → e.armed = true →
      let r := { s with triggers := ts }
      let core := r.targetOf e t
      (∀ n j, r.coalesced t.entry e t core = some (n, j) →
        exec .watchTrigger s
          = .next (r.setJob n { j with pend := j.pend + 1, lastVa := BitVec.ofNat 64 t.va, clock := j.clock.join t.clock }))
      ∧ (r.coalesced t.entry e t core = none → e.spawns < e.rate → s.ecc = [] → s.busBad = [] →
        ∃ u, exec .watchTrigger s = .next u ∧ u.nextJob = s.nextJob + 1 ∧ u.triggers = ts ∧ u.mem = s.mem
          ∧ Tab.find? u.watches t.entry = some { e with spawns := e.spawns + 1 }
          ∧ ∃ j, u.job? s.nextJob = some j ∧ j.card = e.card ∧ j.pend = 1 ∧ j.lastVa = BitVec.ofNat 64 t.va ∧ j.root = e.root
            ∧ j.ready = true ∧ j.readyTick = t.tick)
      ∧ (r.coalesced t.entry e t core = none → e.rate ≤ e.spawns →
        ∃ u, exec .watchTrigger s = .next u ∧ u.nextJob = s.nextJob ∧ u.mem = s.mem
          ∧ Tab.find? u.watches t.entry = some { e with armed := false }
          ∧ (u.owed e.lc e.ctx).getLast? = some ⟨.runawayTrigger, BitVec.ofNat 64 t.entry,
              BitVec.ofNat 64 (s.tick % 2 ^ 32 * 2 ^ 32)⟩))
  ∧ (∀ s : State, periodDue s.tick 170000 s.served.rate = true →
      ∃ u, exec .rateWindowStart s = .next u ∧ u.watches = s.watches.map (fun w => (w.1, { w.2 with spawns := 0 }))
        ∧ u.mem = s.mem ∧ u.streams = s.streams)
  ∧ (∀ (s t : State) (pos : Nat) (v : Inval), s.invals[pos]? = some v → s.heldByInval v = false →
      (∀ ws, s.rewalkAll v s.watches = (t, some ws) →
        exec (.invalidationComplete pos) s = .next { t with watches := ws, invals := s.invals.eraseIdx pos })
      ∧ (s.rewalkAll v s.watches = (t, none) → exec (.invalidationComplete pos) s = .next t))
  ∧ (∀ s : State, s.exchange.roundOver s.tick = true → 9 ≤ s.mgc.stepDone →
      let x := s.exchange.nextRound s.tick
      (∀ d ∈ s.exchange.dirty, d ∈ x.dirty) ∧
      ((∀ d ∈ roundMarks (x.sched.getD x.round ⟨0, []⟩) x.dirty, s.chanShut (lineAt s.pkg d.site d.o) none = false) → exec .exchangeRoundStart s
        = .next ((roundMarks (x.sched.getD x.round ⟨0, []⟩) x.dirty).foldl State.sendLine { s with exchange := x })))
  ∧ (∀ (s : State) (pos : Nat) (f : Flying), s.exchange.flying[pos]? = some f →
      s.chanShut (lineAt s.pkg f.dst f.o) none = false →
      let old := s.rdAll (lineAt s.pkg f.dst f.o)
      let new := joinedLine f.ltype old f.data
      ∃ u, exec (.exchangeLineJoin pos) s = .next u ∧ u.exchange.flying = s.exchange.flying.eraseIdx pos ∧ u.streams = s.streams
        ∧ u.mem = (if old = new then s.mem else Mem.setAll s.mem ((cellsAt (sitePa s.pkg f.dst f.o) new).map fun c => (s.direct c.1, c.2))))
  ∧ (∀ (s : State) (lines : List LatLine), s.exchange.outerStart + 3400 ≤ s.tick → 10 ≤ s.mgc.stepDone →
      let x := { s.exchange.nextOuter s.pkg s.tick with sent := [] }
      (∀ m ∈ s.exchange.outerDirty, m ∈ x.outerDirty) ∧
      (s.outerReady lines = true →
        (x.outerPartner s.pkg = none → exec (.outerExchangeRound lines) s = .next { s with exchange := x })
        ∧ (∀ p, x.outerPartner s.pkg = some p → exec (.outerExchangeRound lines) s = .next ((lines.filter LatLine.sound).foldl
            (fun r l => r.joinOuter p l)
            ((x.outerDirty.filter fun m => decide (m.1 = p)).foldl State.sendOuter { s with exchange := x })))))
  ∧ (∀ (s : State) (p : Nat) (l : LatLine),
      let t := s.joinInto 8 l.o l.ltype true l.data none (some p)
      (s.joinOuter p l).mem = t.mem ∧ (s.joinOuter p l).exchange = t.exchange)
  ∧ (∀ (s : State) (routes : List (Nat × List Nat)), 10 ≤ s.mgc.stepDone → s.pkg < 64 →
      ∃ u, exec (.presentPackagesChange routes) s = .next u ∧ u.streams = s.streams ∧ u.mem = s.mem
        ∧ (s.mgc.stepDone ≠ 10 ∨ s.routes ≠ [] → u.now = s.now)
        ∧ (∀ p, p ∈ u.exchange.present ↔ p = s.pkg ∨ ∃ r ∈ routes, r.1 = p ∧ s.routeOk r = true)
        ∧ (∀ p, Tab.find? u.routes p = ((routes.filter s.routeOk).find? fun r => decide (r.1 = p)).map (·.2))
        ∧ ∀ r, s.routeOk r = true → 1 ≤ r.2.length ∧ r.2.length ≤ 6)

/-- R405, R406, R408: a whole flit in sequence is accepted, with what it acknowledges and the credits that it returns, any other discarded;
what is not acknowledged is replayed, 16 times before a link retrains with a record and its traffic takes the routes that remain; at a flit
boundary slot 0 is VC0's and slot 4 VC2's where they are ready, else, in every slot, the first of VC0, VC2 and VC1 with a flit and a credit;
what is sent is a whole flit of that VC, under the next sequence number, and takes a credit. R453, R454, R456: a transfer that fails parity
passes at a retry or exceeds the limit; a write that exceeded it is tried again; a lane is mapped onto a spare and its channel closed
meanwhile; a scrubber's visit reads its sector, and writes back what it corrected unless the sector has been written since, or 1,700
ticks have passed: then it begins again, once. -/
def Obligations.LinksAndChannels : Prop :=
  (∀ (s : State) (link : Nat) (f : List Byte), let x := s.seam link
      let inOrder := x.up && flitOk f && decide (leNat ((f.drop 242).take 2) = x.expects)
      let num := fun (g : List Byte) (o n : Nat) => leNat ((g.drop o).take n)
      (inOrder = true → exec (.seamFlitReceive link f) s = .next (s.setSeam link (x.accept f))
        ∧ (x.accept f).received = x.received ++ [f] ∧ (x.accept f).lastRecv = some (leNat ((f.drop 242).take 2))
        ∧ (∀ i, findIdx (fun (e : Nat × List Byte) => decide (e.1 = num f 244 2)) x.buffer = some i →
            (x.accept f).buffer = x.buffer.drop (i + 1))
        ∧ (x.credits.length = 3 → num f 247 1 % 4 < 3 →
            (x.accept f).credits.getD (num f 247 1 % 4) 0 = x.credits.getD (num f 247 1 % 4) 0 + num f 246 1))
      ∧ (inOrder = false → exec (.seamFlitReceive link f) s = .next s)
      ∧ (∀ rs, x.up = true → x.buffer ≠ [] →
        (x.replays + 1 < 16 → exec (.seamReplay (link, rs)) s = .next (s.setSeam link { x with replays := x.replays + 1 }))
        ∧ (16 ≤ x.replays + 1 → ∃ u, exec (.seamReplay (link, rs)) s = .next u ∧ (u.seam link).replays = 0 ∧ u.streams = s.streams
          ∧ u.routes.length = s.routes.length ∧ (∀ r ∈ s.routes, link ∉ r.2 → r ∈ u.routes)
          ∧ ∀ r ∈ u.routes, r ∈ s.routes ∨ (r ∈ rs ∧ link ∉ r.2)))
      ∧ ∀ (ready : BitVec 3) (payload : List Byte), payload.length = 240 →
          ∃ u, exec (.flitBoundaryArbitration link ready payload) s = .next u
          ∧ (u.seam link).slot = (x.slot + 1) % 8 ∧ u.mem = s.mem ∧ u.streams = s.streams
          ∧ (∀ v, servedVc x.slot ready x.credited = some v → x.credits.getD v 0 ≠ 0 → x.up = true → x.buffer.length < 64 →
              ∃ g, (u.seam link).buffer = x.buffer ++ [(x.nextSeq, g)] ∧ (u.seam link).nextSeq = (x.nextSeq + 1) % 65536
              ∧ (u.seam link).credits.getD v 0 = x.credits.getD v 0 - 1 ∧ flitOk g = true ∧ g.take 240 = payload ∧ num g 240 1 = v
              ∧ num g 242 2 = x.nextSeq % 65536 ∧ ∀ n, x.lastRecv = some n → num g 244 2 = n % 65536)
          ∧ (servedVc x.slot ready x.credited = none ∨ 64 ≤ x.buffer.length ∨ x.up = false → (u.seam link).buffer = x.buffer))
  ∧ (∀ (slot : Nat) (ready credit : BitVec 3), let has := fun (v : Nat) => ready.getLsbD v && credit.getLsbD v
      (slot = 0 → ready.getLsbD 0 = true → servedVc slot ready credit = some 0)
      ∧ (slot = 4 → ready.getLsbD 2 = true → servedVc slot ready credit = some 2)
      ∧ ((slot = 0 → ready.getLsbD 0 = false) → (slot = 4 → ready.getLsbD 2 = false) →
          servedVc slot ready credit = if has 0 then some 0 else if has 2 then some 2 else if has 1 then some 1 else none))
  ∧ (∀ (s : State) (m c addr : Nat),
      (∀ wr, ∃ n unit card, (n = 1 ∨ n = 2 ∨ n = 3) ∧ (wr = true → unit = 0xFF ∧ card = 0xFFFF)
        ∧ exec (.hbmTransferRetry m c addr wr true) s
          = .next (({ s with fresh := s.fresh + 2 }).record ⟨3, 0, m, c, unit, addr / 256 * 256, n, 0, 0, 0, card⟩))
      ∧ (∃ u, exec (.hbmTransferRetry m c addr false false) s = .next u ∧ addr / 256 ∈ u.busBad ∧ u.streams = s.streams)
      ∧ (∃ u, exec (.hbmTransferRetry m c addr true false) s = .next u ∧ (u.chan m c).writeWait = (s.chan m c).writeWait ++ [(s.tick, addr / 256)]
          ∧ u.streams = s.streams)
      ∧ (∀ t b ws, (s.chan m c).writeWait = (t, b) :: ws → t + 850 ≤ s.tick →
          exec (.hbmWriteReattempt m c true) s = .next (s.setChan m c { s.chan m c with writeWait := ws })
          ∧ ∃ u, exec (.hbmWriteReattempt m c false) s = .next u ∧ (u.chan m c).writeWait = ws ++ [(s.tick, b)])
      ∧ (∀ lane, s.swapDue m c = true →
          (0 < (s.chan m c).spares → ∃ u, exec (.laneSwap m c lane) s = .next u ∧ (u.chan m c).closed = some s.tick
            ∧ (u.chan m c).spares = (s.chan m c).spares - 1
            ∧ (u.chan m c).swaps = (s.chan m c).swaps ++ [(lane, 66 - (s.chan m c).spares)])
          ∧ ((s.chan m c).spares = 0 → ∃ u, exec (.laneSwap m c lane) s = .next u ∧ (u.chan m c).failed = true
            ∧ (u.chan m c).closed = (s.chan m c).closed))
      ∧ ((s.chan m c).closed.isSome → exec (.laneSwapResume m c) s = .next (s.setChan m c { s.chan m c with closed := none }))
      ∧ (let x := s.chan m c
        let key := x.sector m c
        let n := Tab.get s.seqNums key 0
        let next := (x.scrubPos + 1) % channelSectors m
        x.closed = none →
        (x.visit = none → x.scrubDue ≤ s.tick → let ws := (s.sectorWrong key).filter fun w => decide (s.wrong w = 1)
          ∃ u, exec (.scrubVisit m c) s = .next u ∧ (u.chan m c).scrubDue = x.scrubDue + 1700000 ∧ u.streams = s.streams
          ∧ (ws = [] → (u.chan m c).scrubPos = next ∧ (u.chan m c).visit = none)
          ∧ (ws ≠ [] → (u.chan m c).scrubPos = x.scrubPos ∧ (u.chan m c).visit = some ⟨n, s.tick, false, ws⟩))
        ∧ (∀ v, x.visit = some v →
          (n = v.seq → s.tick - v.began ≤ 1700 → ∃ u, exec (.scrubVisit m c) s = .next u ∧ u.mem = s.mem
            ∧ (u.chan m c).visit = none ∧ (u.chan m c).scrubPos = next ∧ ∀ e ∈ u.ecc, e.1 ∉ v.words)
          ∧ (n ≠ v.seq ∨ 1700 < s.tick - v.began →
            (v.again = true → exec (.scrubVisit m c) s = .next (s.setChan m c { x with scrubPos := next, visit := none }))
            ∧ (v.again = false → let ws := (s.sectorWrong key).filter fun w => decide (s.wrong w = 1)
              ws ≠ [] → ∃ u, exec (.scrubVisit m c) s = .next u ∧ (u.chan m c).visit = some ⟨n, s.tick, true, ws⟩)))))

/-- R461, R463 to R469, R472, R473, R67, R253, R356: time of day, a temperature sample, the steps of a bring-up (S2 fails on a stored block
that breaks its checks), a restart, which takes the package off until it is started again, the configuration block, which is in flash some
time after its last byte, bytes in between ignored, the reading of the temperatures, and the loading of programs (a control core's empties its rings and restarts its scoreboard's sequence), of contexts
and of the TE stream. -/
def Obligations.Management : Prop :=
  ∀ s : State,
    exec .ppsEdge s = .next { s with mgc := { s.mgc with
      pps := some (s.tick, s.mgc.tod.1, s.mgc.tod.2), tod := (s.mgc.tod.1 + 1, s.mgc.tod.2) } }
    ∧ (∀ sec ns, exec (.ptptod sec ns) s = .next { s with mgc := { s.mgc with tod := (sec, ns) } })
    ∧ (∀ rs, s.tick % 34000 = 0 → s.served.thermal ≤ s.tick / 34000 → 1 ≤ s.mgc.stepDone →
        ∃ u, exec (.thermalSample rs) s = .next u ∧ u.served.thermal = s.tick / 34000 + 1 ∧ u.streams = s.streams
          ∧ ∀ d, d < 8 → (u.die d).temp = max (rs.getD d 0) (max (rs.getD (8 + d) 0) (rs.getD (16 + d) 0))
            ∧ (u.die d).thermal = thermalAt s.mgc.thresh s.tick (s.die d).thermal
                (max (rs.getD d 0) (max (rs.getD (8 + d) 0) (rs.getD (16 + d) 0))) (s.die d).thermalChange)
    ∧ (∀ fails : List Nat,
        (s.mgc.poweredOn = false → s.mgc.mayStart = true → 0 ∉ fails →
          ∃ u, exec (.powerOn fails) s = .next u ∧ u.mgc.poweredOn = true ∧ u.mgc.stepDone = 0 ∧ u.now = 0 ∧ u.mem = []
            ∧ u.mgc.flash = s.mgc.flash)
        ∧ (s.mgc.poweredOn = true → s.mgc.stepDone < 11 → let n := s.mgc.stepDone + 1
          let invalid := n = 2 ∧ s.mgc.method 2 < 2 ∧ s.mgc.flash ≠ [] ∧ firstWord (cfgChecks s.mgc.flash) ≠ none
          (¬invalid → (n ∉ fails ∨ n = 11 ∨ (6 ≤ n ∧ n ≤ 8)) →
            ∃ u, exec (.powerOn fails) s = .next u ∧ u.mgc.stepDone = n ∧ u.mgc.poweredOn = true)
          ∧ (invalid ∨ (n ∈ fails ∧ n ≠ 11 ∧ ¬(6 ≤ n ∧ n ≤ 8)) →
            ∃ u, exec (.powerOn fails) s = .next u ∧ u.mgc.poweredOn = false)
          ∧ (n = 10 → 10 ∉ fails → ∃ u, exec (.powerOn fails) s = .next u
            ∧ ∀ l, l < 18 → (u.seam l).up = decide (256 + l ∉ fails))))
    ∧ exec (.restart 0x5A) s = .next { s with mgc := { s.mgc with poweredOn := false, mayStart := true } }
    ∧ (∀ v : Byte, v ≠ 0x5A → exec (.restart v) s = .next s)
    ∧ (∀ b : Byte, s.mgc.flashing ≠ none → exec (.cfgwr b) s = .next s)
    ∧ (∀ buf, s.mgc.flashing = some buf → s.outside .flashWritten
        = { s with mgc := { s.mgc with flashing := none, flash := buf, cfgState := 2 } })
    ∧ (∀ d, d < 8 → ((s.outside (.sidebandRead 0 20)).mgc.answer.drop (2 * d)).take 2
        = leBytes 2 ((s.die d).thermal % 4 * 4096 + (s.die d).temp % 4096))
    ∧ (∀ b : Byte, s.mgc.flashing = none → let buf := s.mgc.cfgBuf ++ [b]
        (buf.length < 1024 →
          exec (.cfgwr b) s = .next { s with mgc := { s.mgc with cfgBuf := buf, cfgState := 1, cfgFail := 0 } })
        ∧ (1024 ≤ buf.length → firstWord (cfgChecks buf) = none →
          exec (.cfgwr b) s = .next { s with mgc := { s.mgc with cfgBuf := [], cfgState := 1, cfgFail := 0, flashing := some buf } })
        ∧ (∀ o, 1024 ≤ buf.length → firstWord (cfgChecks buf) = some o →
          exec (.cfgwr b) s = .next { s with mgc := { s.mgc with cfgBuf := [], cfgState := 3, cfgFail := o } }))
    ∧ (∀ v, exec (.cfgstat v) s = .next { s with mgc := { s.mgc with cfgBuf := [], cfgState := 0, cfgFail := 0 } })
    ∧ (∀ (m : ImemId) (addr : Nat) (ws : List Word), addr % 4 = 0 → addr + 4 * ws.length ≤ imemSize m →
        ∃ u, exec (.programLoad m addr ws) s = .next u ∧ u.mem = s.mem
        ∧ (∀ i, m = .lc i → (u.lc i).ringLC = [] ∧ (u.lc i).ringCS = [] ∧ (u.lc i).ringSL = [] ∧ (u.lc i).scbSeq = 0)
        ∧ u.streams = s.streams ∧ (∀ i, i < ws.length → u.imemWord m (addr + 4 * i) = ws.getD i 0)
        ∧ 16 * Tab.get u.imlim m 0 = ceilDiv (addr + 4 * ws.length) 16 * 16
        ∧ ∀ k, k ≠ m → ∀ x, u.imemWord k x = s.imemWord k x)
    ∧ (∀ (i entry : Nat) (k : Ctx) (v : DWord), ∃ u, exec (.contextLoad i k entry v) s = .next u ∧ u.mem = s.mem
        ∧ (u.stream (.ctx i k)).run = .running ∧ (u.stream (.ctx i k)).pc = BitVec.ofNat 64 entry
        ∧ (u.stream (.ctx i k)).rg 1 = v ∧ ∀ x, x ≠ .ctx i k → u.stream x = s.stream x)
    ∧ (∀ (i entry : Nat) (v : DWord), ∃ u, exec (.teStreamStart i entry v) s = .next u ∧ u.mem = s.mem
        ∧ (u.stream .te).run = .running ∧ (u.stream .te).pc = BitVec.ofNat 64 entry ∧ (u.stream .te).rg 1 = v
        ∧ (u.stream .te).root = i ∧ ∀ x, x ≠ .te → u.stream x = s.stream x)

/-- R400 to R403: a write into the card-store window that keeps within a slot makes it a prepared card of those bytes, or sets
HOSTERR<0> where the slot is in use; a read of the window gives the slots as they stand; an aperture access whose pieces are here reads or writes their bytes, joins them into a lattice page,
or, in one step, adds to, swaps or compares and swaps them; an AtomicOp of another size, or not aligned, is refused; an access whose
translation fails reads as all ones, is dropped or aborted, with its cause in HOSTERR; so is a write to, or an AtomicOp on, a page that is a
trellis image or not writable; an AtomicOp on a lattice page is refused as one of a wrong size. -/
def Obligations.HostAccesses : Prop :=
  (∀ (s : State) (off : Nat) (data : List Byte), data ≠ [] → off % 128 + data.length ≤ 128 →
      let id := off / 128
      let old := (s.card id).image
      (s.windowOpen id = true →
        let x : CardSlot := ⟨wordsOf (old.take (off % 128) ++ data ++ old.drop (off % 128 + data.length)) 32, .prepared, 0, Clock.empty⟩
        exec (.hostCardWindowWrite off data) s = .next (s.writeCard id (off % 128) data x)
        ∧ (s.writeCard id (off % 128) data x).card id = x ∧ (s.writeCard id (off % 128) data x).mem = s.mem)
      ∧ (s.windowOpen id = false → exec (.hostCardWindowWrite off data) s
          = .next { s with host := { s.host with err := s.host.err ||| 1 } })
      ∧ (∀ n, s.mgc.poweredOn = true → s.ecc = [] → s.busBad = [] → (s.outside (.windowRead off n)).host.answer
          = (List.range n).map fun i => (s.card ((off + i) / 128)).image.getD ((off + i) % 128) 0))
  ∧ (∀ (s s1 : State) (off n : Nat) (data : List Byte) (ps : List (Page × Nat × Nat × Nat)) (xs : List (Page × Nat × Nat × List Nat)),
      s.hostWalk (hostPieces (s.apertureVa off) n) = (s1, .pieces ps) → hostAddrs ps = some xs →
      s1.hostGated (xs.flatMap fun x => x.2.2.2) = none → (∀ x ∈ xs, s1.chanShut x.2.2.2 (some x.1.hash) = false) →
      (∀ v bs, s1.hostBytes xs = (v, some bs) → exec (.hostApertureRead off n) s = .next (v.hostAnswer bs false))
      ∧ (data.length = n → (∀ x ∈ xs, x.1.trellis = false ∧ x.1.writable = true) →
        exec (.hostApertureWrite off data) s = .next (xs.foldl (fun r x => r.hostPut data x) s1)))
  ∧ (∀ (s s1 v : State) (off n : Nat) (p : Page) (pas : List Nat) (data bytes : List Byte) (b e : DWord), 0 < n →
      let va := s.apertureVa off
      va % 65536 + n ≤ 65536 → s.deviceWalk s.host.apRoot va = (s1, .page p) → pieceAddrs p (va - p.va) n = some pas →
      s1.hostGated pas = none → s1.chanShut pas (some p.hash) = false →
      (p.trellis = false → p.writable = true → data.length = n →
        let by_ := hostWriter p s1.cmdSeq
        let w := { s1 with cmdSeq := s1.cmdSeq + 1 }
        (p.ltype = 0 → exec (.hostApertureWrite off data) s
          = .next ((hostUnits 1 (pas.zip data)).foldl (fun r x => r.perform x true by_) w))
        ∧ (p.ltype ≠ 0 → let k := wholeCells p.ltype (va - p.va) n
          let es := accessSize p.ltype
          exec (.hostApertureWrite off data) s = .next ((hostUnits es (((pas.zip data).drop k.1).take (k.2 * es))).foldl
            (fun r x => r.joinUnit p.ltype 8 p.replicated (decide (p.scope = 3)) by_ (x.map (·.1)) (x.map (·.2))) w)))
      ∧ (∀ k, (p.trellis = true ∧ k = Cause.trellisWrite ∨ p.trellis = false ∧ p.writable = false ∧ k = Cause.permission) →
        (data.length = n → exec (.hostApertureWrite off data) s = .next (s1.hostFault k))
        ∧ (p.ltype = 0 → n = 4 ∨ n = 8 → off % n = 0 →
          ∀ i ∈ [Instr.hostAtomicFetchadd off n b, .hostAtomicSwap off n b, .hostAtomicCas off n e b],
            exec i s = .next ((s1.hostFault k).hostAnswer [] true)))
      ∧ (p.ltype ≠ 0 → n = 4 ∨ n = 8 → off % n = 0 →
          ∀ i ∈ [Instr.hostAtomicFetchadd off n b, .hostAtomicSwap off n b, .hostAtomicCas off n e b],
            ∃ u, exec i s = .next u ∧ u.host.aborted = true ∧ u.host.err = s1.host.err ||| 4 ∧ u.mem = s1.mem)
      ∧ (∀ s2, s1.deviceRead pas (some p.hash) = (s2, true) →
        (∀ s3 bs, s2.hostLook p pas = (s3, bs) → s3.hashBytes p.hash pas bs = (v, bytes) →
          exec (.hostApertureRead off n) s = .next (v.hostAnswer bytes false))
        ∧ (p.ltype = 0 → p.trellis = false → p.writable = true → n = 4 ∨ n = 8 → off % n = 0 →
          (s2.seenNow .host pas).hashBytes p.hash pas (s2.rdAll pas) = (v, bytes) →
          let old := leNat bytes
          let m := 2 ^ (8 * n)
          let put := fun (new : Nat) => Host.Outcome.next ((({ v with cmdSeq := v.cmdSeq + 1 } : State).perform (pas.zip (leBytes n new))
            true (hostWriter p v.cmdSeq)).hostAnswer (leBytes n old) false)
          exec (.hostAtomicFetchadd off n b) s = put ((old + b.toNat % m) % m)
          ∧ exec (.hostAtomicSwap off n b) s = put (b.toNat % m)
          ∧ exec (.hostAtomicCas off n e b) s = put (if old = e.toNat % m then b.toNat % m else old))))
  ∧ (∀ (s s1 : State) (off n : Nat) (data : List Byte) (b e : DWord) (c : Cause) (r : DWord) (k : Nat), 0 < n →
      let va := s.apertureVa off
      s.deviceWalk s.host.apRoot va = (s1, .fault c r k) →
      exec (.hostApertureRead off n) s = .next ((s1.hostFault c).hostAnswer (List.replicate n 0xFF) false)
      ∧ (data ≠ [] → exec (.hostApertureWrite off data) s = .next (s1.hostFault c))
      ∧ (n = 4 ∨ n = 8 → off % n = 0 → ∀ i ∈ [Instr.hostAtomicFetchadd off n b, .hostAtomicSwap off n b, .hostAtomicCas off n e b],
          exec i s = .next ((s1.hostFault c).hostAnswer [] true))
      ∧ (s1.hostFault c).host.err.getLsbD 1 = true ∧ dbits (s1.hostFault c).host.err 15 8 = c.code)
  ∧ ∀ (s : State) (off n : Nat) (b e : DWord), (n ≠ 4 ∧ n ≠ 8) ∨ off % n ≠ 0 →
      ∀ i ∈ [Instr.hostAtomicFetchadd off n b, .hostAtomicSwap off n b, .hostAtomicCas off n e b],
        ∃ u, exec i s = .next u ∧ u.host.aborted = true ∧ u.host.err = s.host.err ||| 4 ∧ u.mem = s.mem

/-! ### Words, steps, traps, reset, the whole machine -/

/-- R56 to R65: words written out from the spec's encodings decode to what they stand for; one with a nonzero res0 bit, or an opcode
that nobody has, decodes to nothing. -/
def Obligations.DecodingWords : Prop :=
  classify .cx 0x0118C400 = .instr (.add 3 3 2)
  ∧ classify .mx 0x2A1493E0 = .instr (.li 2 0x493E0)
  ∧ classify .ve 0x3D000C01 = .instr (.loopi 0 3 1)
  ∧ classify .lc 0x3A07C000 = .instr (.jr 0 31)
  ∧ classify .vl 0x53191604 = .instr (.ld 3 2 5 2 4)
  ∧ classify .nx 0x5A1914DF = .instr (.amo 3 2 5 6 7 3)
  ∧ classify .mx 0x80004041 = .instr (.mma 0 0 1 0 16 1)
  ∧ classify .mx 0x8084A080 = .instr (.mma 2 1 2 1 32 0)
  ∧ classify .vl 0x80040008 = .instr (.vld 0 1 0 8)
  ∧ classify .cx 0x80102045 = .instr (.cpy 0 1 0 4 0 2 5)
  ∧ classify .nx 0x82044338 = .instr (.nrecv 0 1 2 3 7 0)
  ∧ classify .te 0x80086850 = .instr (.tenc 2 3 4 5)
  ∧ classify .lc 0x860E5300 = .instr (.krun 7 5 6)
  ∧ classify .cx 0x7F000246 = .pfx false 0 0x246
  ∧ classify .cx 0 = .zero
  ∧ (∀ i, classify .cx 0x0118C401 ≠ .instr i) ∧ (∀ i, classify .cx 0x00000001 ≠ .instr i)
  ∧ (∀ i, classify .te 0x86000000 ≠ .instr i)

/-- R56 to R65: for every instruction of the table that is a word, with every operand at every value that the encoding admits, the half
that has it decodes its word to it: no bit of an encoding is dropped. -/
def Obligations.DecodeEncode : Prop :=
  ∀ (i : Instr) (h : Half) (w : Word), encode i = some w → wellFormed i = true → (w.getLsbD 31 = true → h = halfOf i) →
    classify h w = .instr i

/-- R56 to R65: a word that a half decodes is the word of the instruction: every bit of it is an operand, a part of the opcode, or 0. -/
def Obligations.DecodedWordEncodes : Prop :=
  ∀ (i : Instr) (h : Half) (w : Word), classify h w = .instr i → encode i = some w ∧ wellFormed i = true

/-- R61, R66, R67, R84, R450: a step of a unit that runs executes the instruction that it fetches at its PC, its address, word and
prefixes latched (corrected words recorded); without prefixes, that is the instruction which the word at the PC decodes to. A misaligned
PC, a PC at or above the loaded limit, a word that cannot be corrected, a word of zeros and a word that does not decode raise MISALIGN,
RUNOFF, UNCORRECTABLE, RUNOFF and ILLEGAL. An event of the list happens, and a tick passes a tenth of a tick unless something is due. -/
def Obligations.StepRunsDecoded : Prop :=
  (∀ (s s1 : State) (u : UnitId), s.nextMove = (.unit u, s1) → { s1 with cur := u }.mayRun u = true →
    { s1 with cur := u }.boundaryStop u = none →
    let x := (s1.stream u).enterJobLoop
    let s2 := { s1 with cur := u }.setStream u x
    { s1 with cur := u }.revokedStore = none → { s1 with cur := u }.formatAtStart u = none →
    let a := x.pc.toNat
    let w := s1.imemWord u.imem a
    let limit := 16 * Tab.get s1.imlim u.imem 0
    (∀ f, fetch s2 u = .ok f →
      (s2.mxHolds u f.instr = true → step s = .next s2)
      ∧ (s2.mxHolds u f.instr = false → step s = exec f.instr ((s2.noteFetch u f).latch u f)
        ∧ (s1.ecc = [] → ∃ n, step s = exec f.instr (({ s2 with counts := n } : State).latch u f))))
    ∧ (∀ t, fetch s2 u = .error t → step s = .next (takeTrap (s2.fetchedAt t) t)
      ∧ (t.cause ≠ .uncorrectable → step s = .next (takeTrap s2 t)))
    ∧ (a % 4 = 0 → a < limit → s1.badAt (imemPa u.imem a) = false →
      (∀ i, classify u.half w = .instr i → fetch s2 u = .ok ⟨x.pc, w, Pfx.nil, i⟩)
      ∧ (classify u.half w = .zero → fetch s2 u = .error ⟨.runoff, none, .std 3 0, .none⟩)
      ∧ (∀ r, classify u.half w = .bad r → fetch s2 u
          = .error ⟨.illegal, none, match u with
            | .eng .mx c => if w.getLsbD 31 = true then .raw (s2.illegalMxWord c Pfx.nil w) else .std 0 0
            | _ => .std 0 0, .none⟩))
    ∧ (a % 4 = 0 → a < limit → s1.badAt (imemPa u.imem a) = true → fetch s2 u
        = .error ⟨.uncorrectable, some x.pc, .std 3 0, .errorRecord 10 (codewordOf (imemPa u.imem a)) none⟩)
    ∧ (a % 4 ≠ 0 → fetch s2 u = .error ⟨.misalign, none, .std 3 0, .none⟩)
    ∧ (a % 4 = 0 → limit ≤ a → fetch s2 u = .error ⟨.runoff, none, .std 3 0, .none⟩))
  ∧ (∀ (s s1 : State) (i : Instr), s.nextMove = (.event i, s1) →
      (wellFormed i = true → isEvent i = true → s1.eventOpen i = true → step s = exec i s1)
      ∧ (isEvent i = false → step s = .next s1))
  ∧ (∀ (s s1 : State), s.nextMove = (.tick, s1) → s1.mgc.poweredOn = true → s1.due = false →
      step s = .next { s1 with now := s1.now + 1 })
  ∧ (∀ (s s1 : State) (x : Outside), s.nextMove = (.outside x, s1) → step s = .next (s1.outside x))
  ∧ (∀ (s s1 : State) (u : UnitId), s.nextMove = (.unit u, s1) → { s1 with cur := u }.mayRun u = false →
      step s = .next { s1 with cur := u })

/-- R61, R80 to R84, R333 to R336, R342, R355: a cause writes CAUSE with the code and the engine, EPC with the PC of the instruction (its
first prefix), EINFO, ECMD with the command index, EWORD; a control context is then held in its own slot; so is an engine stream where its
cause is held and a slot, the one that a cut of its instance keeps or a free one of the pool, is there; else it stops, and its job ends with
the cause. MX raises a cause once every command before it is known to be free of faults (R165). Registers, memory outside the slot, and, where no job ends, other units stay; where the spec states no EINFO, it is a free value
(log entry 11). -/
def Obligations.TakingTraps : Prop :=
  (∀ (s : State) (t : Trap), s.mxOpen s.cur = true → takeTrap s t = s)
  ∧ ∀ (s : State) (t : Trap), s.mxOpen s.cur = false → t.note = .none → t.cause ≠ .tmrSplit → t.cause ≠ .liningMismatch →
    let e := t.einfo.getD (Config.freeWord s.fresh)
    let w := match t.eword with | .std p f => s.engineWord s.cur p f | .raw w => w
    let u := takeTrap s t
    let held := s.isHeld s.cur t.cause.code
    let slot := s.cutSlotOf s.cur <|> s.freeSlot
    let saves := fun (x : Stream) => x.cause = BitVec.ofNat 64 (t.cause.code + s.cur.engCode * 2 ^ 12) ∧ x.epc = s.me.pc
      ∧ x.einfo = e ∧ x.ecmd = BitVec.ofNat 64 s.me.cmdIndex ∧ x.eword = w ∧ x.g = s.me.g ∧ x.th = s.me.th ∧ x.pc = s.me.pc
    let stays := fun (n : Nat) => (∀ v, v ≠ s.cur → u.stream v = s.stream v)
      ∧ ∀ a, (∀ k, k < 0x2400000 → a ≠ s.direct (s.slotPa n + k)) → Mem.get u.mem a = Mem.get s.mem a
    (∀ i k, s.cur = .ctx i k → saves (u.stream s.cur) ∧ (u.stream s.cur).run = .held (3 * i + k.num) ∧ stays (3 * i + k.num)
      ∧ ∃ y ∈ u.saved, y.slot = 3 * i + k.num ∧ y.unit = s.cur ∧ y.kind = 1 ∧ y.double = s.me.th ∧ y.noticed = false)
    ∧ (s.cur.isCtx = false →
      (∀ n, held = true → slot = some n → saves (u.stream s.cur) ∧ (u.stream s.cur).run = .held n ∧ stays n
        ∧ ∃ y ∈ u.saved, y.slot = n ∧ y.unit = s.cur ∧ y.kind = 1)
      ∧ (held = false ∨ slot = none → saves (u.stream s.cur)
        ∧ (s.me.job = none → (u.stream s.cur).run = .halted ∧ stays (s.freeSlot.getD 0))
        ∧ ∀ j jb, s.me.job = some j → s.job? j = some jb → s.me.run.live = true → (u.stream s.cur).run = .halted
          ∧ ∃ y, u.job? j = some y ∧ y.ending = true ∧ y.cause = (if jb.cause = 0 then t.cause.code else jb.cause)))

/-- R74, R77, R78, R79, R245, R257, R401: what reset leaves. Every stream's registers are 0 or empty, tokens and queues empty, the card
store empty, memory lists nothing. That the reset state is the package after bring-up step S11 at tick 0, and the registers' zeros where
the spec states none, are the model's choices (log entries 1, 2, 3). -/
def Obligations.ResetState : Prop :=
  (∀ u, State.reset.stream u = Stream.reset) ∧ (∀ c, State.reset.core c = Core.reset) ∧ State.reset.mem = [] ∧ State.reset.now = 0
  ∧ (∀ n, Stream.reset.rg n = 0) ∧ (∀ n : Fin 4, (Stream.reset.lp.get n).count = 0) ∧ (∀ n, Stream.reset.hr n = none)
  ∧ Stream.reset.th = false ∧ Stream.reset.ofl = false ∧ Stream.reset.sat = false ∧ Stream.reset.cause = 0 ∧ Stream.reset.einfo = 0
  ∧ Stream.reset.vt = 0 ∧ (∀ n : Fin 8, Stream.reset.tp.get n = 0) ∧ Stream.reset.gen = 0 ∧ Stream.reset.run = .off
  ∧ (∀ p e, Core.reset.queue p e = TokenQueue.empty) ∧ Core.reset.lq = [] ∧ Core.reset.sq = [] ∧ Core.reset.ways = []
  ∧ (∀ n, (State.reset.card n).state = .empty) ∧ State.reset.pending = [] ∧ State.reset.jobs = []
  ∧ (∀ i : Fin 4, State.reset.teStats.get i = 0) ∧ State.reset.host.err = 0 ∧ State.reset.host.apRoot = 17
  ∧ State.reset.host.apBase = 0 ∧ State.reset.host.irqPend = 0 ∧ State.reset.watches = [] ∧ State.reset.faultq = []
  ∧ Mem.wf State.reset.mem = true

/-- The memory keeps its canonical form (addresses strictly rising, no listed byte that an unlisted one would read as) in every step from
every state that has it. -/
def Obligations.MemoryStaysCanonical : Prop :=
  ∀ s t : State, Mem.wf s.mem = true → step s = .next t → Mem.wf t.mem = true
end

