-- ==== Sys2Proof/Laws/Mem.lean ====
section
/-!
SUPPORT. Memory: a byte read after a write, and the canonical form that every memory operation keeps.
-/

namespace Sys2Proof.Machine

theorem Mem.above_cons {t : Mem} {k a : Nat} {b : Byte} :
    Mem.above ((k, b) :: t) a = true ↔ a < k ∧ Mem.above t a = true := by
  rw [Mem.above, List.all_cons, Bool.and_eq_true, decide_eq_true_eq]; rfl

theorem Mem.wf_cons {t : Mem} {k : Nat} {b : Byte} :
    Mem.wf ((k, b) :: t) = true ↔ b ≠ 0 ∧ Mem.above t k = true ∧ Mem.wf t = true := by
  rw [Mem.wf, Bool.and_eq_true, Bool.and_eq_true, decide_eq_true_eq, and_assoc]

theorem Mem.get_of_above {m : Mem} {k a : Nat} (h : Mem.above m k = true) (ha : a ≤ k) : Mem.get m a = 0 := by
  induction m with
  | nil => rfl
  | cons x t ih =>
    obtain ⟨j, b⟩ := x
    obtain ⟨h1, h2⟩ := Mem.above_cons.1 h
    rw [Mem.get, if_neg (by omega)]
    exact ih h2

theorem Mem.above_mono {m : Mem} {j k : Nat} (h : Mem.above m k = true) (hj : j ≤ k) : Mem.above m j = true := by
  simp only [Mem.above, List.all_eq_true, decide_eq_true_eq] at *
  exact fun x hx => Nat.lt_of_le_of_lt hj (h x hx)

theorem Mem.above_set {m : Mem} {k a : Nat} (b : Byte) (h : Mem.above m k = true) (ha : k < a) :
    Mem.above (Mem.set m a b) k = true := by
  induction m with
  | nil =>
    rw [Mem.set]
    split
    · rfl
    · exact Mem.above_cons.2 ⟨ha, rfl⟩
  | cons x t ih =>
    obtain ⟨j, c⟩ := x
    obtain ⟨h1, h2⟩ := Mem.above_cons.1 h
    rw [Mem.set]
    repeat' split
    · exact h
    · exact Mem.above_cons.2 ⟨ha, h⟩
    · exact h2
    · exact Mem.above_cons.2 ⟨ha, h2⟩
    · exact Mem.above_cons.2 ⟨h1, ih h2⟩

/-- Writing a byte keeps the canonical form. -/
theorem Mem.wf_set {m : Mem} (a : Nat) (b : Byte) (h : Mem.wf m = true) : Mem.wf (Mem.set m a b) = true := by
  induction m with
  | nil =>
    rw [Mem.set]
    split
    · rfl
    · exact Mem.wf_cons.2 ⟨by assumption, rfl, rfl⟩
  | cons x t ih =>
    obtain ⟨j, c⟩ := x
    obtain ⟨hc, ha, hw⟩ := Mem.wf_cons.1 h
    rw [Mem.set]
    split
    · rename_i h1
      split
      · exact h
      · exact Mem.wf_cons.2 ⟨by assumption, Mem.above_cons.2 ⟨h1, Mem.above_mono ha (Nat.le_of_lt h1)⟩, h⟩
    · split
      · rename_i h1 h2
        subst h2
        split
        · exact hw
        · exact Mem.wf_cons.2 ⟨by assumption, ha, hw⟩
      · exact Mem.wf_cons.2 ⟨hc, Mem.above_set b ha (by omega), ih hw⟩

theorem Mem.get_cons (k : Nat) (b : Byte) (t : Mem) (x : Nat) :
    Mem.get ((k, b) :: t) x = if k = x then b else Mem.get t x := rfl

/-- A byte read after a write. -/
theorem Mem.get_set {m : Mem} (h : Mem.wf m = true) (a : Nat) (b : Byte) (x : Nat) :
    Mem.get (Mem.set m a b) x = if x = a then b else Mem.get m x := by
  induction m with
  | nil =>
    rw [Mem.set]
    by_cases hx : x = a
    · subst hx
      rw [if_pos rfl]
      split
      · rename_i hb; exact hb.symm
      · rw [Mem.get_cons, if_pos rfl]
    · rw [if_neg hx]
      split
      · rfl
      · rw [Mem.get_cons, if_neg fun e => hx e.symm]
  | cons y t ih =>
    obtain ⟨j, c⟩ := y
    obtain ⟨hc, ha, hw⟩ := Mem.wf_cons.1 h
    rw [Mem.set]
    by_cases hx : x = a
    · subst hx
      rw [if_pos rfl]
      split
      · split
        · rename_i h1 hb
          rw [Mem.get_cons, if_neg (by omega), Mem.get_of_above ha (by omega), hb]
        · rw [Mem.get_cons, if_pos rfl]
      · split
        · rename_i h1 h2
          subst h2
          split
          · rename_i hb
            rw [Mem.get_of_above ha (Nat.le_refl _), hb]
          · rw [Mem.get_cons, if_pos rfl]
        · rename_i h1 h2
          rw [Mem.get_cons, if_neg fun e => h2 e.symm, ih hw, if_pos rfl]
    · rw [if_neg hx]
      split
      · split
        · rfl
        · rw [Mem.get_cons, if_neg fun e => hx e.symm]
      · split
        · rename_i h1 h2
          subst h2
          split
          · rw [Mem.get_cons, if_neg fun e => hx e.symm]
          · rw [Mem.get_cons, if_neg fun e => hx e.symm, Mem.get_cons, if_neg fun e => hx e.symm]
        · rw [Mem.get_cons, Mem.get_cons, ih hw, if_neg hx]

/-- Writing bytes one after another keeps the canonical form. -/
theorem Mem.wf_setAll {m : Mem} (w : List (Nat × Byte)) (h : Mem.wf m = true) : Mem.wf (Mem.setAll m w) = true := by
  induction w generalizing m with
  | nil => exact h
  | cons c w ih => exact ih (Mem.wf_set c.1 c.2 h)

/-- An address that no written pair names reads as before. -/
theorem Mem.get_setAll_of_not_mem {m : Mem} (h : Mem.wf m = true) (w : List (Nat × Byte)) {x : Nat}
    (hx : ∀ c ∈ w, c.1 ≠ x) : Mem.get (Mem.setAll m w) x = Mem.get m x := by
  induction w generalizing m with
  | nil => rfl
  | cons c w ih =>
    have h1 := ih (Mem.wf_set c.1 c.2 h) fun d hd => hx d (List.mem_cons_of_mem _ hd)
    show Mem.get (Mem.setAll (Mem.set m c.1 c.2) w) x = _
    rw [h1, Mem.get_set h, if_neg fun e => hx c (List.mem_cons_self ..) e.symm]

theorem Mem.wf_nil : Mem.wf [] = true := rfl

end Sys2Proof.Machine
end

