-- ==== Sys2Proof/Laws/State.lean ====
section
/-!
SUPPORT. What the named updates of the state leave alone: one lemma per field and update, each true by rfl; and what a
replaced part reads as afterwards.
-/

namespace Sys2Proof.Machine

/-! ### Tables -/

theorem Tab.find?_set {κ α : Type} [DecidableEq κ] (t : Tab κ α) (k : κ) (v : α) (x : κ) :
    Tab.find? (Tab.set t k v) x = if k = x then some v else Tab.find? t x := by
  induction t with
  | nil => simp [Tab.set, Tab.find?]
  | cons a t ih =>
    obtain ⟨b, w⟩ := a
    by_cases h : b = k
    · subst h; by_cases hx : b = x <;> simp [Tab.set, Tab.find?, hx]
    · by_cases hx : b = x
      · subst hx
        simp [Tab.set, Tab.find?, h, Ne.symm h]
      · simp [Tab.set, Tab.find?, h, hx, ih]

@[simp] theorem Tab.find?_set_self {κ α : Type} [DecidableEq κ] (t : Tab κ α) (k : κ) (v : α) :
    Tab.find? (Tab.set t k v) k = some v := by simp [Tab.find?_set]

theorem Tab.find?_set_ne {κ α : Type} [DecidableEq κ] (t : Tab κ α) {k x : κ} (v : α) (h : x ≠ k) :
    Tab.find? (Tab.set t k v) x = Tab.find? t x := by simp [Tab.find?_set, h.symm]

@[simp] theorem Tab.get_set_self {κ α : Type} [DecidableEq κ] (t : Tab κ α) (k : κ) (v d : α) :
    Tab.get (Tab.set t k v) k d = v := by simp [Tab.get]

theorem Tab.get_set_ne {κ α : Type} [DecidableEq κ] (t : Tab κ α) {k x : κ} (v d : α) (h : x ≠ k) :
    Tab.get (Tab.set t k v) x d = Tab.get t x d := by simp [Tab.get, Tab.find?_set_ne t v h]

theorem Tab.set_set {κ α : Type} [DecidableEq κ] (t : Tab κ α) (k : κ) (v w : α) :
    Tab.set (Tab.set t k v) k w = Tab.set t k w := by
  induction t with
  | nil => simp [Tab.set]
  | cons a t ih =>
    obtain ⟨b, x⟩ := a
    by_cases h : b = k <;> simp [Tab.set, h, ih]

/-! ### Parts replaced -/

@[simp] theorem State.stream_setStream_self (s : State) (u : UnitId) (x : Stream) : (s.setStream u x).stream u = x := by
  simp [State.stream, State.setStream]

theorem State.stream_setStream_ne (s : State) (u : UnitId) (x : Stream) {u' : UnitId} (h : u' ≠ u) :
    (s.setStream u x).stream u' = s.stream u' := by
  simp [State.stream, State.setStream, Tab.get_set_ne _ _ _ h]

@[simp] theorem State.core_setCore_self (s : State) (c : Nat) (x : Core) : (s.setCore c x).core c = x := by
  simp [State.core, State.setCore]

theorem State.core_setCore_ne (s : State) (c : Nat) (x : Core) {c' : Nat} (h : c' ≠ c) :
    (s.setCore c x).core c' = s.core c' := by
  simp [State.core, State.setCore, Tab.get_set_ne _ _ _ h]

@[simp] theorem State.lc_setLc_self (s : State) (i : Nat) (x : Lc) : (s.setLc i x).lc i = x := by
  simp [State.lc, State.setLc]

theorem State.lc_setLc_ne (s : State) (i : Nat) (x : Lc) {i' : Nat} (h : i' ≠ i) :
    (s.setLc i x).lc i' = s.lc i' := by
  simp [State.lc, State.setLc, Tab.get_set_ne _ _ _ h]

@[simp] theorem State.die_setDie_self (s : State) (d : Nat) (x : Die) : (s.setDie d x).die d = x := by
  simp [State.die, State.setDie]

theorem State.die_setDie_ne (s : State) (d : Nat) (x : Die) {d' : Nat} (h : d' ≠ d) :
    (s.setDie d x).die d' = s.die d' := by
  simp [State.die, State.setDie, Tab.get_set_ne _ _ _ h]

@[simp] theorem State.card_setCard_self (s : State) (n : Nat) (x : CardSlot) : (s.setCard n x).card n = x := by
  simp [State.card, State.setCard]

theorem State.card_setCard_ne (s : State) (n : Nat) (x : CardSlot) {n' : Nat} (h : n' ≠ n) :
    (s.setCard n x).card n' = s.card n' := by
  simp [State.card, State.setCard, Tab.get_set_ne _ _ _ h]

@[simp] theorem State.mig_setMig_self (s : State) (n : Nat) (x : Migration) : (s.setMig n x).mig n = x := by
  simp [State.mig, State.setMig]

theorem State.mig_setMig_ne (s : State) (n : Nat) (x : Migration) {n' : Nat} (h : n' ≠ n) :
    (s.setMig n x).mig n' = s.mig n' := by
  simp [State.mig, State.setMig, Tab.get_set_ne _ _ _ h]

@[simp] theorem State.codedSlot_setCoded_self (s : State) (n : Nat) (x : Coded) : (s.setCoded n x).codedSlot n = x := by
  simp [State.codedSlot, State.setCoded]

theorem State.codedSlot_setCoded_ne (s : State) (n : Nat) (x : Coded) {n' : Nat} (h : n' ≠ n) :
    (s.setCoded n x).codedSlot n' = s.codedSlot n' := by
  simp [State.codedSlot, State.setCoded, Tab.get_set_ne _ _ _ h]

@[simp] theorem State.seam_setSeam_self (s : State) (n : Nat) (x : Seam) : (s.setSeam n x).seam n = x := by
  simp [State.seam, State.setSeam]

theorem State.seam_setSeam_ne (s : State) (n : Nat) (x : Seam) {n' : Nat} (h : n' ≠ n) :
    (s.setSeam n x).seam n' = s.seam n' := by
  simp [State.seam, State.setSeam, Tab.get_set_ne _ _ _ h]

@[simp] theorem State.me_setMe (s : State) (x : Stream) : (s.setMe x).me = x := by
  simp [State.me, State.setMe, State.stream, State.setStream]

theorem State.stream_setMe_ne (s : State) (x : Stream) {u : UnitId} (h : u ≠ s.cur) : (s.setMe x).stream u = s.stream u :=
  State.stream_setStream_ne s s.cur x h

@[simp] theorem State.setMe_setMe (s : State) (x y : Stream) : (s.setMe x).setMe y = s.setMe y := by
  simp [State.setMe, State.setStream, Tab.set_set]

/-! ### Fields left alone -/

@[simp] theorem State.setStream_now (s : State) (u : UnitId) (x : Stream) : (s.setStream u x).now = s.now := rfl
@[simp] theorem State.setStream_cur (s : State) (u : UnitId) (x : Stream) : (s.setStream u x).cur = s.cur := rfl
@[simp] theorem State.setStream_moves (s : State) (u : UnitId) (x : Stream) : (s.setStream u x).moves = s.moves := rfl
@[simp] theorem State.setStream_sched (s : State) (u : UnitId) (x : Stream) : (s.setStream u x).sched = s.sched := rfl
@[simp] theorem State.setStream_fresh (s : State) (u : UnitId) (x : Stream) : (s.setStream u x).fresh = s.fresh := rfl
@[simp] theorem State.setStream_cmdSeq (s : State) (u : UnitId) (x : Stream) : (s.setStream u x).cmdSeq = s.cmdSeq := rfl
@[simp] theorem State.setStream_cores (s : State) (u : UnitId) (x : Stream) : (s.setStream u x).cores = s.cores := rfl
@[simp] theorem State.setStream_core_eq (s : State) (u : UnitId) (x : Stream) (k' : Nat) : (s.setStream u x).core k' = s.core k' := rfl
@[simp] theorem State.setStream_imem (s : State) (u : UnitId) (x : Stream) : (s.setStream u x).imem = s.imem := rfl
@[simp] theorem State.setStream_imlim (s : State) (u : UnitId) (x : Stream) : (s.setStream u x).imlim = s.imlim := rfl
@[simp] theorem State.setStream_mem (s : State) (u : UnitId) (x : Stream) : (s.setStream u x).mem = s.mem := rfl
@[simp] theorem State.setStream_veneer (s : State) (u : UnitId) (x : Stream) : (s.setStream u x).veneer = s.veneer := rfl
@[simp] theorem State.setStream_ecc (s : State) (u : UnitId) (x : Stream) : (s.setStream u x).ecc = s.ecc := rfl
@[simp] theorem State.setStream_busBad (s : State) (u : UnitId) (x : Stream) : (s.setStream u x).busBad = s.busBad := rfl
@[simp] theorem State.setStream_pending (s : State) (u : UnitId) (x : Stream) : (s.setStream u x).pending = s.pending := rfl
@[simp] theorem State.setStream_hist (s : State) (u : UnitId) (x : Stream) : (s.setStream u x).hist = s.hist := rfl
@[simp] theorem State.setStream_hashed (s : State) (u : UnitId) (x : Stream) : (s.setStream u x).hashed = s.hashed := rfl
@[simp] theorem State.setStream_rowSeq (s : State) (u : UnitId) (x : Stream) : (s.setStream u x).rowSeq = s.rowSeq := rfl
@[simp] theorem State.setStream_views (s : State) (u : UnitId) (x : Stream) : (s.setStream u x).views = s.views := rfl
@[simp] theorem State.setStream_works (s : State) (u : UnitId) (x : Stream) : (s.setStream u x).works = s.works := rfl
@[simp] theorem State.setStream_fences (s : State) (u : UnitId) (x : Stream) : (s.setStream u x).fences = s.fences := rfl
@[simp] theorem State.setStream_latClocks (s : State) (u : UnitId) (x : Stream) : (s.setStream u x).latClocks = s.latClocks := rfl
@[simp] theorem State.setStream_walkFloors (s : State) (u : UnitId) (x : Stream) : (s.setStream u x).walkFloors = s.walkFloors := rfl
@[simp] theorem State.setStream_deviceWalks (s : State) (u : UnitId) (x : Stream) : (s.setStream u x).deviceWalks = s.deviceWalks := rfl
@[simp] theorem State.setStream_lcs (s : State) (u : UnitId) (x : Stream) : (s.setStream u x).lcs = s.lcs := rfl
@[simp] theorem State.setStream_lc_eq (s : State) (u : UnitId) (x : Stream) (k' : Nat) : (s.setStream u x).lc k' = s.lc k' := rfl
@[simp] theorem State.setStream_cards (s : State) (u : UnitId) (x : Stream) : (s.setStream u x).cards = s.cards := rfl
@[simp] theorem State.setStream_card_eq (s : State) (u : UnitId) (x : Stream) (k' : Nat) : (s.setStream u x).card k' = s.card k' := rfl
@[simp] theorem State.setStream_jobs (s : State) (u : UnitId) (x : Stream) : (s.setStream u x).jobs = s.jobs := rfl
@[simp] theorem State.setStream_job_eq (s : State) (u : UnitId) (x : Stream) (k' : Nat) : (s.setStream u x).job? k' = s.job? k' := rfl
@[simp] theorem State.setStream_nextJob (s : State) (u : UnitId) (x : Stream) : (s.setStream u x).nextJob = s.nextJob := rfl
@[simp] theorem State.setStream_dies (s : State) (u : UnitId) (x : Stream) : (s.setStream u x).dies = s.dies := rfl
@[simp] theorem State.setStream_die_eq (s : State) (u : UnitId) (x : Stream) (k' : Nat) : (s.setStream u x).die k' = s.die k' := rfl
@[simp] theorem State.setStream_xmRows (s : State) (u : UnitId) (x : Stream) : (s.setStream u x).xmRows = s.xmRows := rfl
@[simp] theorem State.setStream_ports (s : State) (u : UnitId) (x : Stream) : (s.setStream u x).ports = s.ports := rfl
@[simp] theorem State.setStream_faultq (s : State) (u : UnitId) (x : Stream) : (s.setStream u x).faultq = s.faultq := rfl
@[simp] theorem State.setStream_saved (s : State) (u : UnitId) (x : Stream) : (s.setStream u x).saved = s.saved := rfl
@[simp] theorem State.setStream_invals (s : State) (u : UnitId) (x : Stream) : (s.setStream u x).invals = s.invals := rfl
@[simp] theorem State.setStream_migs (s : State) (u : UnitId) (x : Stream) : (s.setStream u x).migs = s.migs := rfl
@[simp] theorem State.setStream_mig_eq (s : State) (u : UnitId) (x : Stream) (k' : Nat) : (s.setStream u x).mig k' = s.mig k' := rfl
@[simp] theorem State.setStream_bounceq (s : State) (u : UnitId) (x : Stream) : (s.setStream u x).bounceq = s.bounceq := rfl
@[simp] theorem State.setStream_toBounce (s : State) (u : UnitId) (x : Stream) : (s.setStream u x).toBounce = s.toBounce := rfl
@[simp] theorem State.setStream_layouts (s : State) (u : UnitId) (x : Stream) : (s.setStream u x).layouts = s.layouts := rfl
@[simp] theorem State.setStream_exchange (s : State) (u : UnitId) (x : Stream) : (s.setStream u x).exchange = s.exchange := rfl
@[simp] theorem State.setStream_watches (s : State) (u : UnitId) (x : Stream) : (s.setStream u x).watches = s.watches := rfl
@[simp] theorem State.setStream_triggers (s : State) (u : UnitId) (x : Stream) : (s.setStream u x).triggers = s.triggers := rfl
@[simp] theorem State.setStream_coded (s : State) (u : UnitId) (x : Stream) : (s.setStream u x).coded = s.coded := rfl
@[simp] theorem State.setStream_codedSlot_eq (s : State) (u : UnitId) (x : Stream) (k' : Nat) : (s.setStream u x).codedSlot k' = s.codedSlot k' := rfl
@[simp] theorem State.setStream_posts (s : State) (u : UnitId) (x : Stream) : (s.setStream u x).posts = s.posts := rfl
@[simp] theorem State.setStream_decodeq (s : State) (u : UnitId) (x : Stream) : (s.setStream u x).decodeq = s.decodeq := rfl
@[simp] theorem State.setStream_decoders (s : State) (u : UnitId) (x : Stream) : (s.setStream u x).decoders = s.decoders := rfl
@[simp] theorem State.setStream_teStats (s : State) (u : UnitId) (x : Stream) : (s.setStream u x).teStats = s.teStats := rfl
@[simp] theorem State.setStream_host (s : State) (u : UnitId) (x : Stream) : (s.setStream u x).host = s.host := rfl
@[simp] theorem State.setStream_fars (s : State) (u : UnitId) (x : Stream) : (s.setStream u x).fars = s.fars := rfl
@[simp] theorem State.setStream_routes (s : State) (u : UnitId) (x : Stream) : (s.setStream u x).routes = s.routes := rfl
@[simp] theorem State.setStream_seams (s : State) (u : UnitId) (x : Stream) : (s.setStream u x).seams = s.seams := rfl
@[simp] theorem State.setStream_seam_eq (s : State) (u : UnitId) (x : Stream) (k' : Nat) : (s.setStream u x).seam k' = s.seam k' := rfl
@[simp] theorem State.setStream_chans (s : State) (u : UnitId) (x : Stream) : (s.setStream u x).chans = s.chans := rfl
@[simp] theorem State.setStream_seqNums (s : State) (u : UnitId) (x : Stream) : (s.setStream u x).seqNums = s.seqNums := rfl
@[simp] theorem State.setStream_counts (s : State) (u : UnitId) (x : Stream) : (s.setStream u x).counts = s.counts := rfl
@[simp] theorem State.setStream_mgc (s : State) (u : UnitId) (x : Stream) : (s.setStream u x).mgc = s.mgc := rfl
@[simp] theorem State.setStream_served (s : State) (u : UnitId) (x : Stream) : (s.setStream u x).served = s.served := rfl
@[simp] theorem State.setStream_tmrUpset (s : State) (u : UnitId) (x : Stream) : (s.setStream u x).tmrUpset = s.tmrUpset := rfl

@[simp] theorem State.setMe_now (s : State) (x : Stream) : (s.setMe x).now = s.now := rfl
@[simp] theorem State.setMe_cur (s : State) (x : Stream) : (s.setMe x).cur = s.cur := rfl
@[simp] theorem State.setMe_moves (s : State) (x : Stream) : (s.setMe x).moves = s.moves := rfl
@[simp] theorem State.setMe_sched (s : State) (x : Stream) : (s.setMe x).sched = s.sched := rfl
@[simp] theorem State.setMe_fresh (s : State) (x : Stream) : (s.setMe x).fresh = s.fresh := rfl
@[simp] theorem State.setMe_cmdSeq (s : State) (x : Stream) : (s.setMe x).cmdSeq = s.cmdSeq := rfl
@[simp] theorem State.setMe_cores (s : State) (x : Stream) : (s.setMe x).cores = s.cores := rfl
@[simp] theorem State.setMe_core_eq (s : State) (x : Stream) (k' : Nat) : (s.setMe x).core k' = s.core k' := rfl
@[simp] theorem State.setMe_imem (s : State) (x : Stream) : (s.setMe x).imem = s.imem := rfl
@[simp] theorem State.setMe_imlim (s : State) (x : Stream) : (s.setMe x).imlim = s.imlim := rfl
@[simp] theorem State.setMe_mem (s : State) (x : Stream) : (s.setMe x).mem = s.mem := rfl
@[simp] theorem State.setMe_veneer (s : State) (x : Stream) : (s.setMe x).veneer = s.veneer := rfl
@[simp] theorem State.setMe_ecc (s : State) (x : Stream) : (s.setMe x).ecc = s.ecc := rfl
@[simp] theorem State.setMe_busBad (s : State) (x : Stream) : (s.setMe x).busBad = s.busBad := rfl
@[simp] theorem State.setMe_pending (s : State) (x : Stream) : (s.setMe x).pending = s.pending := rfl
@[simp] theorem State.setMe_hist (s : State) (x : Stream) : (s.setMe x).hist = s.hist := rfl
@[simp] theorem State.setMe_hashed (s : State) (x : Stream) : (s.setMe x).hashed = s.hashed := rfl
@[simp] theorem State.setMe_rowSeq (s : State) (x : Stream) : (s.setMe x).rowSeq = s.rowSeq := rfl
@[simp] theorem State.setMe_views (s : State) (x : Stream) : (s.setMe x).views = s.views := rfl
@[simp] theorem State.setMe_works (s : State) (x : Stream) : (s.setMe x).works = s.works := rfl
@[simp] theorem State.setMe_fences (s : State) (x : Stream) : (s.setMe x).fences = s.fences := rfl
@[simp] theorem State.setMe_latClocks (s : State) (x : Stream) : (s.setMe x).latClocks = s.latClocks := rfl
@[simp] theorem State.setMe_walkFloors (s : State) (x : Stream) : (s.setMe x).walkFloors = s.walkFloors := rfl
@[simp] theorem State.setMe_deviceWalks (s : State) (x : Stream) : (s.setMe x).deviceWalks = s.deviceWalks := rfl
@[simp] theorem State.setMe_lcs (s : State) (x : Stream) : (s.setMe x).lcs = s.lcs := rfl
@[simp] theorem State.setMe_lc_eq (s : State) (x : Stream) (k' : Nat) : (s.setMe x).lc k' = s.lc k' := rfl
@[simp] theorem State.setMe_cards (s : State) (x : Stream) : (s.setMe x).cards = s.cards := rfl
@[simp] theorem State.setMe_card_eq (s : State) (x : Stream) (k' : Nat) : (s.setMe x).card k' = s.card k' := rfl
@[simp] theorem State.setMe_jobs (s : State) (x : Stream) : (s.setMe x).jobs = s.jobs := rfl
@[simp] theorem State.setMe_job_eq (s : State) (x : Stream) (k' : Nat) : (s.setMe x).job? k' = s.job? k' := rfl
@[simp] theorem State.setMe_nextJob (s : State) (x : Stream) : (s.setMe x).nextJob = s.nextJob := rfl
@[simp] theorem State.setMe_dies (s : State) (x : Stream) : (s.setMe x).dies = s.dies := rfl
@[simp] theorem State.setMe_die_eq (s : State) (x : Stream) (k' : Nat) : (s.setMe x).die k' = s.die k' := rfl
@[simp] theorem State.setMe_xmRows (s : State) (x : Stream) : (s.setMe x).xmRows = s.xmRows := rfl
@[simp] theorem State.setMe_ports (s : State) (x : Stream) : (s.setMe x).ports = s.ports := rfl
@[simp] theorem State.setMe_faultq (s : State) (x : Stream) : (s.setMe x).faultq = s.faultq := rfl
@[simp] theorem State.setMe_saved (s : State) (x : Stream) : (s.setMe x).saved = s.saved := rfl
@[simp] theorem State.setMe_invals (s : State) (x : Stream) : (s.setMe x).invals = s.invals := rfl
@[simp] theorem State.setMe_migs (s : State) (x : Stream) : (s.setMe x).migs = s.migs := rfl
@[simp] theorem State.setMe_mig_eq (s : State) (x : Stream) (k' : Nat) : (s.setMe x).mig k' = s.mig k' := rfl
@[simp] theorem State.setMe_bounceq (s : State) (x : Stream) : (s.setMe x).bounceq = s.bounceq := rfl
@[simp] theorem State.setMe_toBounce (s : State) (x : Stream) : (s.setMe x).toBounce = s.toBounce := rfl
@[simp] theorem State.setMe_layouts (s : State) (x : Stream) : (s.setMe x).layouts = s.layouts := rfl
@[simp] theorem State.setMe_exchange (s : State) (x : Stream) : (s.setMe x).exchange = s.exchange := rfl
@[simp] theorem State.setMe_watches (s : State) (x : Stream) : (s.setMe x).watches = s.watches := rfl
@[simp] theorem State.setMe_triggers (s : State) (x : Stream) : (s.setMe x).triggers = s.triggers := rfl
@[simp] theorem State.setMe_coded (s : State) (x : Stream) : (s.setMe x).coded = s.coded := rfl
@[simp] theorem State.setMe_codedSlot_eq (s : State) (x : Stream) (k' : Nat) : (s.setMe x).codedSlot k' = s.codedSlot k' := rfl
@[simp] theorem State.setMe_posts (s : State) (x : Stream) : (s.setMe x).posts = s.posts := rfl
@[simp] theorem State.setMe_decodeq (s : State) (x : Stream) : (s.setMe x).decodeq = s.decodeq := rfl
@[simp] theorem State.setMe_decoders (s : State) (x : Stream) : (s.setMe x).decoders = s.decoders := rfl
@[simp] theorem State.setMe_teStats (s : State) (x : Stream) : (s.setMe x).teStats = s.teStats := rfl
@[simp] theorem State.setMe_host (s : State) (x : Stream) : (s.setMe x).host = s.host := rfl
@[simp] theorem State.setMe_fars (s : State) (x : Stream) : (s.setMe x).fars = s.fars := rfl
@[simp] theorem State.setMe_routes (s : State) (x : Stream) : (s.setMe x).routes = s.routes := rfl
@[simp] theorem State.setMe_seams (s : State) (x : Stream) : (s.setMe x).seams = s.seams := rfl
@[simp] theorem State.setMe_seam_eq (s : State) (x : Stream) (k' : Nat) : (s.setMe x).seam k' = s.seam k' := rfl
@[simp] theorem State.setMe_chans (s : State) (x : Stream) : (s.setMe x).chans = s.chans := rfl
@[simp] theorem State.setMe_seqNums (s : State) (x : Stream) : (s.setMe x).seqNums = s.seqNums := rfl
@[simp] theorem State.setMe_counts (s : State) (x : Stream) : (s.setMe x).counts = s.counts := rfl
@[simp] theorem State.setMe_mgc (s : State) (x : Stream) : (s.setMe x).mgc = s.mgc := rfl
@[simp] theorem State.setMe_served (s : State) (x : Stream) : (s.setMe x).served = s.served := rfl
@[simp] theorem State.setMe_tmrUpset (s : State) (x : Stream) : (s.setMe x).tmrUpset = s.tmrUpset := rfl

@[simp] theorem State.setCore_now (s : State) (c : Nat) (x : Core) : (s.setCore c x).now = s.now := rfl
@[simp] theorem State.setCore_cur (s : State) (c : Nat) (x : Core) : (s.setCore c x).cur = s.cur := rfl
@[simp] theorem State.setCore_moves (s : State) (c : Nat) (x : Core) : (s.setCore c x).moves = s.moves := rfl
@[simp] theorem State.setCore_sched (s : State) (c : Nat) (x : Core) : (s.setCore c x).sched = s.sched := rfl
@[simp] theorem State.setCore_fresh (s : State) (c : Nat) (x : Core) : (s.setCore c x).fresh = s.fresh := rfl
@[simp] theorem State.setCore_cmdSeq (s : State) (c : Nat) (x : Core) : (s.setCore c x).cmdSeq = s.cmdSeq := rfl
@[simp] theorem State.setCore_streams (s : State) (c : Nat) (x : Core) : (s.setCore c x).streams = s.streams := rfl
@[simp] theorem State.setCore_stream_eq (s : State) (c : Nat) (x : Core) (u' : UnitId) : (s.setCore c x).stream u' = s.stream u' := rfl
@[simp] theorem State.setCore_imem (s : State) (c : Nat) (x : Core) : (s.setCore c x).imem = s.imem := rfl
@[simp] theorem State.setCore_imlim (s : State) (c : Nat) (x : Core) : (s.setCore c x).imlim = s.imlim := rfl
@[simp] theorem State.setCore_mem (s : State) (c : Nat) (x : Core) : (s.setCore c x).mem = s.mem := rfl
@[simp] theorem State.setCore_veneer (s : State) (c : Nat) (x : Core) : (s.setCore c x).veneer = s.veneer := rfl
@[simp] theorem State.setCore_ecc (s : State) (c : Nat) (x : Core) : (s.setCore c x).ecc = s.ecc := rfl
@[simp] theorem State.setCore_busBad (s : State) (c : Nat) (x : Core) : (s.setCore c x).busBad = s.busBad := rfl
@[simp] theorem State.setCore_pending (s : State) (c : Nat) (x : Core) : (s.setCore c x).pending = s.pending := rfl
@[simp] theorem State.setCore_hist (s : State) (c : Nat) (x : Core) : (s.setCore c x).hist = s.hist := rfl
@[simp] theorem State.setCore_hashed (s : State) (c : Nat) (x : Core) : (s.setCore c x).hashed = s.hashed := rfl
@[simp] theorem State.setCore_rowSeq (s : State) (c : Nat) (x : Core) : (s.setCore c x).rowSeq = s.rowSeq := rfl
@[simp] theorem State.setCore_views (s : State) (c : Nat) (x : Core) : (s.setCore c x).views = s.views := rfl
@[simp] theorem State.setCore_works (s : State) (c : Nat) (x : Core) : (s.setCore c x).works = s.works := rfl
@[simp] theorem State.setCore_fences (s : State) (c : Nat) (x : Core) : (s.setCore c x).fences = s.fences := rfl
@[simp] theorem State.setCore_latClocks (s : State) (c : Nat) (x : Core) : (s.setCore c x).latClocks = s.latClocks := rfl
@[simp] theorem State.setCore_walkFloors (s : State) (c : Nat) (x : Core) : (s.setCore c x).walkFloors = s.walkFloors := rfl
@[simp] theorem State.setCore_deviceWalks (s : State) (c : Nat) (x : Core) : (s.setCore c x).deviceWalks = s.deviceWalks := rfl
@[simp] theorem State.setCore_lcs (s : State) (c : Nat) (x : Core) : (s.setCore c x).lcs = s.lcs := rfl
@[simp] theorem State.setCore_lc_eq (s : State) (c : Nat) (x : Core) (k' : Nat) : (s.setCore c x).lc k' = s.lc k' := rfl
@[simp] theorem State.setCore_cards (s : State) (c : Nat) (x : Core) : (s.setCore c x).cards = s.cards := rfl
@[simp] theorem State.setCore_card_eq (s : State) (c : Nat) (x : Core) (k' : Nat) : (s.setCore c x).card k' = s.card k' := rfl
@[simp] theorem State.setCore_jobs (s : State) (c : Nat) (x : Core) : (s.setCore c x).jobs = s.jobs := rfl
@[simp] theorem State.setCore_job_eq (s : State) (c : Nat) (x : Core) (k' : Nat) : (s.setCore c x).job? k' = s.job? k' := rfl
@[simp] theorem State.setCore_nextJob (s : State) (c : Nat) (x : Core) : (s.setCore c x).nextJob = s.nextJob := rfl
@[simp] theorem State.setCore_dies (s : State) (c : Nat) (x : Core) : (s.setCore c x).dies = s.dies := rfl
@[simp] theorem State.setCore_die_eq (s : State) (c : Nat) (x : Core) (k' : Nat) : (s.setCore c x).die k' = s.die k' := rfl
@[simp] theorem State.setCore_xmRows (s : State) (c : Nat) (x : Core) : (s.setCore c x).xmRows = s.xmRows := rfl
@[simp] theorem State.setCore_ports (s : State) (c : Nat) (x : Core) : (s.setCore c x).ports = s.ports := rfl
@[simp] theorem State.setCore_faultq (s : State) (c : Nat) (x : Core) : (s.setCore c x).faultq = s.faultq := rfl
@[simp] theorem State.setCore_saved (s : State) (c : Nat) (x : Core) : (s.setCore c x).saved = s.saved := rfl
@[simp] theorem State.setCore_invals (s : State) (c : Nat) (x : Core) : (s.setCore c x).invals = s.invals := rfl
@[simp] theorem State.setCore_migs (s : State) (c : Nat) (x : Core) : (s.setCore c x).migs = s.migs := rfl
@[simp] theorem State.setCore_mig_eq (s : State) (c : Nat) (x : Core) (k' : Nat) : (s.setCore c x).mig k' = s.mig k' := rfl
@[simp] theorem State.setCore_bounceq (s : State) (c : Nat) (x : Core) : (s.setCore c x).bounceq = s.bounceq := rfl
@[simp] theorem State.setCore_toBounce (s : State) (c : Nat) (x : Core) : (s.setCore c x).toBounce = s.toBounce := rfl
@[simp] theorem State.setCore_layouts (s : State) (c : Nat) (x : Core) : (s.setCore c x).layouts = s.layouts := rfl
@[simp] theorem State.setCore_exchange (s : State) (c : Nat) (x : Core) : (s.setCore c x).exchange = s.exchange := rfl
@[simp] theorem State.setCore_watches (s : State) (c : Nat) (x : Core) : (s.setCore c x).watches = s.watches := rfl
@[simp] theorem State.setCore_triggers (s : State) (c : Nat) (x : Core) : (s.setCore c x).triggers = s.triggers := rfl
@[simp] theorem State.setCore_coded (s : State) (c : Nat) (x : Core) : (s.setCore c x).coded = s.coded := rfl
@[simp] theorem State.setCore_codedSlot_eq (s : State) (c : Nat) (x : Core) (k' : Nat) : (s.setCore c x).codedSlot k' = s.codedSlot k' := rfl
@[simp] theorem State.setCore_posts (s : State) (c : Nat) (x : Core) : (s.setCore c x).posts = s.posts := rfl
@[simp] theorem State.setCore_decodeq (s : State) (c : Nat) (x : Core) : (s.setCore c x).decodeq = s.decodeq := rfl
@[simp] theorem State.setCore_decoders (s : State) (c : Nat) (x : Core) : (s.setCore c x).decoders = s.decoders := rfl
@[simp] theorem State.setCore_teStats (s : State) (c : Nat) (x : Core) : (s.setCore c x).teStats = s.teStats := rfl
@[simp] theorem State.setCore_host (s : State) (c : Nat) (x : Core) : (s.setCore c x).host = s.host := rfl
@[simp] theorem State.setCore_fars (s : State) (c : Nat) (x : Core) : (s.setCore c x).fars = s.fars := rfl
@[simp] theorem State.setCore_routes (s : State) (c : Nat) (x : Core) : (s.setCore c x).routes = s.routes := rfl
@[simp] theorem State.setCore_seams (s : State) (c : Nat) (x : Core) : (s.setCore c x).seams = s.seams := rfl
@[simp] theorem State.setCore_seam_eq (s : State) (c : Nat) (x : Core) (k' : Nat) : (s.setCore c x).seam k' = s.seam k' := rfl
@[simp] theorem State.setCore_chans (s : State) (c : Nat) (x : Core) : (s.setCore c x).chans = s.chans := rfl
@[simp] theorem State.setCore_seqNums (s : State) (c : Nat) (x : Core) : (s.setCore c x).seqNums = s.seqNums := rfl
@[simp] theorem State.setCore_counts (s : State) (c : Nat) (x : Core) : (s.setCore c x).counts = s.counts := rfl
@[simp] theorem State.setCore_mgc (s : State) (c : Nat) (x : Core) : (s.setCore c x).mgc = s.mgc := rfl
@[simp] theorem State.setCore_served (s : State) (c : Nat) (x : Core) : (s.setCore c x).served = s.served := rfl
@[simp] theorem State.setCore_tmrUpset (s : State) (c : Nat) (x : Core) : (s.setCore c x).tmrUpset = s.tmrUpset := rfl

@[simp] theorem State.setLc_now (s : State) (i : Nat) (x : Lc) : (s.setLc i x).now = s.now := rfl
@[simp] theorem State.setLc_cur (s : State) (i : Nat) (x : Lc) : (s.setLc i x).cur = s.cur := rfl
@[simp] theorem State.setLc_moves (s : State) (i : Nat) (x : Lc) : (s.setLc i x).moves = s.moves := rfl
@[simp] theorem State.setLc_sched (s : State) (i : Nat) (x : Lc) : (s.setLc i x).sched = s.sched := rfl
@[simp] theorem State.setLc_fresh (s : State) (i : Nat) (x : Lc) : (s.setLc i x).fresh = s.fresh := rfl
@[simp] theorem State.setLc_cmdSeq (s : State) (i : Nat) (x : Lc) : (s.setLc i x).cmdSeq = s.cmdSeq := rfl
@[simp] theorem State.setLc_streams (s : State) (i : Nat) (x : Lc) : (s.setLc i x).streams = s.streams := rfl
@[simp] theorem State.setLc_stream_eq (s : State) (i : Nat) (x : Lc) (u' : UnitId) : (s.setLc i x).stream u' = s.stream u' := rfl
@[simp] theorem State.setLc_cores (s : State) (i : Nat) (x : Lc) : (s.setLc i x).cores = s.cores := rfl
@[simp] theorem State.setLc_core_eq (s : State) (i : Nat) (x : Lc) (k' : Nat) : (s.setLc i x).core k' = s.core k' := rfl
@[simp] theorem State.setLc_imem (s : State) (i : Nat) (x : Lc) : (s.setLc i x).imem = s.imem := rfl
@[simp] theorem State.setLc_imlim (s : State) (i : Nat) (x : Lc) : (s.setLc i x).imlim = s.imlim := rfl
@[simp] theorem State.setLc_mem (s : State) (i : Nat) (x : Lc) : (s.setLc i x).mem = s.mem := rfl
@[simp] theorem State.setLc_veneer (s : State) (i : Nat) (x : Lc) : (s.setLc i x).veneer = s.veneer := rfl
@[simp] theorem State.setLc_ecc (s : State) (i : Nat) (x : Lc) : (s.setLc i x).ecc = s.ecc := rfl
@[simp] theorem State.setLc_busBad (s : State) (i : Nat) (x : Lc) : (s.setLc i x).busBad = s.busBad := rfl
@[simp] theorem State.setLc_pending (s : State) (i : Nat) (x : Lc) : (s.setLc i x).pending = s.pending := rfl
@[simp] theorem State.setLc_hist (s : State) (i : Nat) (x : Lc) : (s.setLc i x).hist = s.hist := rfl
@[simp] theorem State.setLc_hashed (s : State) (i : Nat) (x : Lc) : (s.setLc i x).hashed = s.hashed := rfl
@[simp] theorem State.setLc_rowSeq (s : State) (i : Nat) (x : Lc) : (s.setLc i x).rowSeq = s.rowSeq := rfl
@[simp] theorem State.setLc_views (s : State) (i : Nat) (x : Lc) : (s.setLc i x).views = s.views := rfl
@[simp] theorem State.setLc_works (s : State) (i : Nat) (x : Lc) : (s.setLc i x).works = s.works := rfl
@[simp] theorem State.setLc_fences (s : State) (i : Nat) (x : Lc) : (s.setLc i x).fences = s.fences := rfl
@[simp] theorem State.setLc_latClocks (s : State) (i : Nat) (x : Lc) : (s.setLc i x).latClocks = s.latClocks := rfl
@[simp] theorem State.setLc_walkFloors (s : State) (i : Nat) (x : Lc) : (s.setLc i x).walkFloors = s.walkFloors := rfl
@[simp] theorem State.setLc_deviceWalks (s : State) (i : Nat) (x : Lc) : (s.setLc i x).deviceWalks = s.deviceWalks := rfl
@[simp] theorem State.setLc_cards (s : State) (i : Nat) (x : Lc) : (s.setLc i x).cards = s.cards := rfl
@[simp] theorem State.setLc_card_eq (s : State) (i : Nat) (x : Lc) (k' : Nat) : (s.setLc i x).card k' = s.card k' := rfl
@[simp] theorem State.setLc_jobs (s : State) (i : Nat) (x : Lc) : (s.setLc i x).jobs = s.jobs := rfl
@[simp] theorem State.setLc_job_eq (s : State) (i : Nat) (x : Lc) (k' : Nat) : (s.setLc i x).job? k' = s.job? k' := rfl
@[simp] theorem State.setLc_nextJob (s : State) (i : Nat) (x : Lc) : (s.setLc i x).nextJob = s.nextJob := rfl
@[simp] theorem State.setLc_dies (s : State) (i : Nat) (x : Lc) : (s.setLc i x).dies = s.dies := rfl
@[simp] theorem State.setLc_die_eq (s : State) (i : Nat) (x : Lc) (k' : Nat) : (s.setLc i x).die k' = s.die k' := rfl
@[simp] theorem State.setLc_xmRows (s : State) (i : Nat) (x : Lc) : (s.setLc i x).xmRows = s.xmRows := rfl
@[simp] theorem State.setLc_ports (s : State) (i : Nat) (x : Lc) : (s.setLc i x).ports = s.ports := rfl
@[simp] theorem State.setLc_faultq (s : State) (i : Nat) (x : Lc) : (s.setLc i x).faultq = s.faultq := rfl
@[simp] theorem State.setLc_saved (s : State) (i : Nat) (x : Lc) : (s.setLc i x).saved = s.saved := rfl
@[simp] theorem State.setLc_invals (s : State) (i : Nat) (x : Lc) : (s.setLc i x).invals = s.invals := rfl
@[simp] theorem State.setLc_migs (s : State) (i : Nat) (x : Lc) : (s.setLc i x).migs = s.migs := rfl
@[simp] theorem State.setLc_mig_eq (s : State) (i : Nat) (x : Lc) (k' : Nat) : (s.setLc i x).mig k' = s.mig k' := rfl
@[simp] theorem State.setLc_bounceq (s : State) (i : Nat) (x : Lc) : (s.setLc i x).bounceq = s.bounceq := rfl
@[simp] theorem State.setLc_toBounce (s : State) (i : Nat) (x : Lc) : (s.setLc i x).toBounce = s.toBounce := rfl
@[simp] theorem State.setLc_layouts (s : State) (i : Nat) (x : Lc) : (s.setLc i x).layouts = s.layouts := rfl
@[simp] theorem State.setLc_exchange (s : State) (i : Nat) (x : Lc) : (s.setLc i x).exchange = s.exchange := rfl
@[simp] theorem State.setLc_watches (s : State) (i : Nat) (x : Lc) : (s.setLc i x).watches = s.watches := rfl
@[simp] theorem State.setLc_triggers (s : State) (i : Nat) (x : Lc) : (s.setLc i x).triggers = s.triggers := rfl
@[simp] theorem State.setLc_coded (s : State) (i : Nat) (x : Lc) : (s.setLc i x).coded = s.coded := rfl
@[simp] theorem State.setLc_codedSlot_eq (s : State) (i : Nat) (x : Lc) (k' : Nat) : (s.setLc i x).codedSlot k' = s.codedSlot k' := rfl
@[simp] theorem State.setLc_posts (s : State) (i : Nat) (x : Lc) : (s.setLc i x).posts = s.posts := rfl
@[simp] theorem State.setLc_decodeq (s : State) (i : Nat) (x : Lc) : (s.setLc i x).decodeq = s.decodeq := rfl
@[simp] theorem State.setLc_decoders (s : State) (i : Nat) (x : Lc) : (s.setLc i x).decoders = s.decoders := rfl
@[simp] theorem State.setLc_teStats (s : State) (i : Nat) (x : Lc) : (s.setLc i x).teStats = s.teStats := rfl
@[simp] theorem State.setLc_host (s : State) (i : Nat) (x : Lc) : (s.setLc i x).host = s.host := rfl
@[simp] theorem State.setLc_fars (s : State) (i : Nat) (x : Lc) : (s.setLc i x).fars = s.fars := rfl
@[simp] theorem State.setLc_routes (s : State) (i : Nat) (x : Lc) : (s.setLc i x).routes = s.routes := rfl
@[simp] theorem State.setLc_seams (s : State) (i : Nat) (x : Lc) : (s.setLc i x).seams = s.seams := rfl
@[simp] theorem State.setLc_seam_eq (s : State) (i : Nat) (x : Lc) (k' : Nat) : (s.setLc i x).seam k' = s.seam k' := rfl
@[simp] theorem State.setLc_chans (s : State) (i : Nat) (x : Lc) : (s.setLc i x).chans = s.chans := rfl
@[simp] theorem State.setLc_seqNums (s : State) (i : Nat) (x : Lc) : (s.setLc i x).seqNums = s.seqNums := rfl
@[simp] theorem State.setLc_counts (s : State) (i : Nat) (x : Lc) : (s.setLc i x).counts = s.counts := rfl
@[simp] theorem State.setLc_mgc (s : State) (i : Nat) (x : Lc) : (s.setLc i x).mgc = s.mgc := rfl
@[simp] theorem State.setLc_served (s : State) (i : Nat) (x : Lc) : (s.setLc i x).served = s.served := rfl
@[simp] theorem State.setLc_tmrUpset (s : State) (i : Nat) (x : Lc) : (s.setLc i x).tmrUpset = s.tmrUpset := rfl

@[simp] theorem State.setDie_now (s : State) (d : Nat) (x : Die) : (s.setDie d x).now = s.now := rfl
@[simp] theorem State.setDie_cur (s : State) (d : Nat) (x : Die) : (s.setDie d x).cur = s.cur := rfl
@[simp] theorem State.setDie_moves (s : State) (d : Nat) (x : Die) : (s.setDie d x).moves = s.moves := rfl
@[simp] theorem State.setDie_sched (s : State) (d : Nat) (x : Die) : (s.setDie d x).sched = s.sched := rfl
@[simp] theorem State.setDie_fresh (s : State) (d : Nat) (x : Die) : (s.setDie d x).fresh = s.fresh := rfl
@[simp] theorem State.setDie_cmdSeq (s : State) (d : Nat) (x : Die) : (s.setDie d x).cmdSeq = s.cmdSeq := rfl
@[simp] theorem State.setDie_streams (s : State) (d : Nat) (x : Die) : (s.setDie d x).streams = s.streams := rfl
@[simp] theorem State.setDie_stream_eq (s : State) (d : Nat) (x : Die) (u' : UnitId) : (s.setDie d x).stream u' = s.stream u' := rfl
@[simp] theorem State.setDie_cores (s : State) (d : Nat) (x : Die) : (s.setDie d x).cores = s.cores := rfl
@[simp] theorem State.setDie_core_eq (s : State) (d : Nat) (x : Die) (k' : Nat) : (s.setDie d x).core k' = s.core k' := rfl
@[simp] theorem State.setDie_imem (s : State) (d : Nat) (x : Die) : (s.setDie d x).imem = s.imem := rfl
@[simp] theorem State.setDie_imlim (s : State) (d : Nat) (x : Die) : (s.setDie d x).imlim = s.imlim := rfl
@[simp] theorem State.setDie_mem (s : State) (d : Nat) (x : Die) : (s.setDie d x).mem = s.mem := rfl
@[simp] theorem State.setDie_veneer (s : State) (d : Nat) (x : Die) : (s.setDie d x).veneer = s.veneer := rfl
@[simp] theorem State.setDie_ecc (s : State) (d : Nat) (x : Die) : (s.setDie d x).ecc = s.ecc := rfl
@[simp] theorem State.setDie_busBad (s : State) (d : Nat) (x : Die) : (s.setDie d x).busBad = s.busBad := rfl
@[simp] theorem State.setDie_pending (s : State) (d : Nat) (x : Die) : (s.setDie d x).pending = s.pending := rfl
@[simp] theorem State.setDie_hist (s : State) (d : Nat) (x : Die) : (s.setDie d x).hist = s.hist := rfl
@[simp] theorem State.setDie_hashed (s : State) (d : Nat) (x : Die) : (s.setDie d x).hashed = s.hashed := rfl
@[simp] theorem State.setDie_rowSeq (s : State) (d : Nat) (x : Die) : (s.setDie d x).rowSeq = s.rowSeq := rfl
@[simp] theorem State.setDie_views (s : State) (d : Nat) (x : Die) : (s.setDie d x).views = s.views := rfl
@[simp] theorem State.setDie_works (s : State) (d : Nat) (x : Die) : (s.setDie d x).works = s.works := rfl
@[simp] theorem State.setDie_fences (s : State) (d : Nat) (x : Die) : (s.setDie d x).fences = s.fences := rfl
@[simp] theorem State.setDie_latClocks (s : State) (d : Nat) (x : Die) : (s.setDie d x).latClocks = s.latClocks := rfl
@[simp] theorem State.setDie_walkFloors (s : State) (d : Nat) (x : Die) : (s.setDie d x).walkFloors = s.walkFloors := rfl
@[simp] theorem State.setDie_deviceWalks (s : State) (d : Nat) (x : Die) : (s.setDie d x).deviceWalks = s.deviceWalks := rfl
@[simp] theorem State.setDie_lcs (s : State) (d : Nat) (x : Die) : (s.setDie d x).lcs = s.lcs := rfl
@[simp] theorem State.setDie_lc_eq (s : State) (d : Nat) (x : Die) (k' : Nat) : (s.setDie d x).lc k' = s.lc k' := rfl
@[simp] theorem State.setDie_cards (s : State) (d : Nat) (x : Die) : (s.setDie d x).cards = s.cards := rfl
@[simp] theorem State.setDie_card_eq (s : State) (d : Nat) (x : Die) (k' : Nat) : (s.setDie d x).card k' = s.card k' := rfl
@[simp] theorem State.setDie_jobs (s : State) (d : Nat) (x : Die) : (s.setDie d x).jobs = s.jobs := rfl
@[simp] theorem State.setDie_job_eq (s : State) (d : Nat) (x : Die) (k' : Nat) : (s.setDie d x).job? k' = s.job? k' := rfl
@[simp] theorem State.setDie_nextJob (s : State) (d : Nat) (x : Die) : (s.setDie d x).nextJob = s.nextJob := rfl
@[simp] theorem State.setDie_xmRows (s : State) (d : Nat) (x : Die) : (s.setDie d x).xmRows = s.xmRows := rfl
@[simp] theorem State.setDie_ports (s : State) (d : Nat) (x : Die) : (s.setDie d x).ports = s.ports := rfl
@[simp] theorem State.setDie_faultq (s : State) (d : Nat) (x : Die) : (s.setDie d x).faultq = s.faultq := rfl
@[simp] theorem State.setDie_saved (s : State) (d : Nat) (x : Die) : (s.setDie d x).saved = s.saved := rfl
@[simp] theorem State.setDie_invals (s : State) (d : Nat) (x : Die) : (s.setDie d x).invals = s.invals := rfl
@[simp] theorem State.setDie_migs (s : State) (d : Nat) (x : Die) : (s.setDie d x).migs = s.migs := rfl
@[simp] theorem State.setDie_mig_eq (s : State) (d : Nat) (x : Die) (k' : Nat) : (s.setDie d x).mig k' = s.mig k' := rfl
@[simp] theorem State.setDie_bounceq (s : State) (d : Nat) (x : Die) : (s.setDie d x).bounceq = s.bounceq := rfl
@[simp] theorem State.setDie_toBounce (s : State) (d : Nat) (x : Die) : (s.setDie d x).toBounce = s.toBounce := rfl
@[simp] theorem State.setDie_layouts (s : State) (d : Nat) (x : Die) : (s.setDie d x).layouts = s.layouts := rfl
@[simp] theorem State.setDie_exchange (s : State) (d : Nat) (x : Die) : (s.setDie d x).exchange = s.exchange := rfl
@[simp] theorem State.setDie_watches (s : State) (d : Nat) (x : Die) : (s.setDie d x).watches = s.watches := rfl
@[simp] theorem State.setDie_triggers (s : State) (d : Nat) (x : Die) : (s.setDie d x).triggers = s.triggers := rfl
@[simp] theorem State.setDie_coded (s : State) (d : Nat) (x : Die) : (s.setDie d x).coded = s.coded := rfl
@[simp] theorem State.setDie_codedSlot_eq (s : State) (d : Nat) (x : Die) (k' : Nat) : (s.setDie d x).codedSlot k' = s.codedSlot k' := rfl
@[simp] theorem State.setDie_posts (s : State) (d : Nat) (x : Die) : (s.setDie d x).posts = s.posts := rfl
@[simp] theorem State.setDie_decodeq (s : State) (d : Nat) (x : Die) : (s.setDie d x).decodeq = s.decodeq := rfl
@[simp] theorem State.setDie_decoders (s : State) (d : Nat) (x : Die) : (s.setDie d x).decoders = s.decoders := rfl
@[simp] theorem State.setDie_teStats (s : State) (d : Nat) (x : Die) : (s.setDie d x).teStats = s.teStats := rfl
@[simp] theorem State.setDie_host (s : State) (d : Nat) (x : Die) : (s.setDie d x).host = s.host := rfl
@[simp] theorem State.setDie_fars (s : State) (d : Nat) (x : Die) : (s.setDie d x).fars = s.fars := rfl
@[simp] theorem State.setDie_routes (s : State) (d : Nat) (x : Die) : (s.setDie d x).routes = s.routes := rfl
@[simp] theorem State.setDie_seams (s : State) (d : Nat) (x : Die) : (s.setDie d x).seams = s.seams := rfl
@[simp] theorem State.setDie_seam_eq (s : State) (d : Nat) (x : Die) (k' : Nat) : (s.setDie d x).seam k' = s.seam k' := rfl
@[simp] theorem State.setDie_chans (s : State) (d : Nat) (x : Die) : (s.setDie d x).chans = s.chans := rfl
@[simp] theorem State.setDie_seqNums (s : State) (d : Nat) (x : Die) : (s.setDie d x).seqNums = s.seqNums := rfl
@[simp] theorem State.setDie_counts (s : State) (d : Nat) (x : Die) : (s.setDie d x).counts = s.counts := rfl
@[simp] theorem State.setDie_mgc (s : State) (d : Nat) (x : Die) : (s.setDie d x).mgc = s.mgc := rfl
@[simp] theorem State.setDie_served (s : State) (d : Nat) (x : Die) : (s.setDie d x).served = s.served := rfl
@[simp] theorem State.setDie_tmrUpset (s : State) (d : Nat) (x : Die) : (s.setDie d x).tmrUpset = s.tmrUpset := rfl

@[simp] theorem State.setCard_now (s : State) (n : Nat) (x : CardSlot) : (s.setCard n x).now = s.now := rfl
@[simp] theorem State.setCard_cur (s : State) (n : Nat) (x : CardSlot) : (s.setCard n x).cur = s.cur := rfl
@[simp] theorem State.setCard_moves (s : State) (n : Nat) (x : CardSlot) : (s.setCard n x).moves = s.moves := rfl
@[simp] theorem State.setCard_sched (s : State) (n : Nat) (x : CardSlot) : (s.setCard n x).sched = s.sched := rfl
@[simp] theorem State.setCard_fresh (s : State) (n : Nat) (x : CardSlot) : (s.setCard n x).fresh = s.fresh := rfl
@[simp] theorem State.setCard_cmdSeq (s : State) (n : Nat) (x : CardSlot) : (s.setCard n x).cmdSeq = s.cmdSeq := rfl
@[simp] theorem State.setCard_streams (s : State) (n : Nat) (x : CardSlot) : (s.setCard n x).streams = s.streams := rfl
@[simp] theorem State.setCard_stream_eq (s : State) (n : Nat) (x : CardSlot) (u' : UnitId) : (s.setCard n x).stream u' = s.stream u' := rfl
@[simp] theorem State.setCard_cores (s : State) (n : Nat) (x : CardSlot) : (s.setCard n x).cores = s.cores := rfl
@[simp] theorem State.setCard_core_eq (s : State) (n : Nat) (x : CardSlot) (k' : Nat) : (s.setCard n x).core k' = s.core k' := rfl
@[simp] theorem State.setCard_imem (s : State) (n : Nat) (x : CardSlot) : (s.setCard n x).imem = s.imem := rfl
@[simp] theorem State.setCard_imlim (s : State) (n : Nat) (x : CardSlot) : (s.setCard n x).imlim = s.imlim := rfl
@[simp] theorem State.setCard_mem (s : State) (n : Nat) (x : CardSlot) : (s.setCard n x).mem = s.mem := rfl
@[simp] theorem State.setCard_veneer (s : State) (n : Nat) (x : CardSlot) : (s.setCard n x).veneer = s.veneer := rfl
@[simp] theorem State.setCard_ecc (s : State) (n : Nat) (x : CardSlot) : (s.setCard n x).ecc = s.ecc := rfl
@[simp] theorem State.setCard_busBad (s : State) (n : Nat) (x : CardSlot) : (s.setCard n x).busBad = s.busBad := rfl
@[simp] theorem State.setCard_pending (s : State) (n : Nat) (x : CardSlot) : (s.setCard n x).pending = s.pending := rfl
@[simp] theorem State.setCard_hist (s : State) (n : Nat) (x : CardSlot) : (s.setCard n x).hist = s.hist := rfl
@[simp] theorem State.setCard_hashed (s : State) (n : Nat) (x : CardSlot) : (s.setCard n x).hashed = s.hashed := rfl
@[simp] theorem State.setCard_rowSeq (s : State) (n : Nat) (x : CardSlot) : (s.setCard n x).rowSeq = s.rowSeq := rfl
@[simp] theorem State.setCard_views (s : State) (n : Nat) (x : CardSlot) : (s.setCard n x).views = s.views := rfl
@[simp] theorem State.setCard_works (s : State) (n : Nat) (x : CardSlot) : (s.setCard n x).works = s.works := rfl
@[simp] theorem State.setCard_fences (s : State) (n : Nat) (x : CardSlot) : (s.setCard n x).fences = s.fences := rfl
@[simp] theorem State.setCard_latClocks (s : State) (n : Nat) (x : CardSlot) : (s.setCard n x).latClocks = s.latClocks := rfl
@[simp] theorem State.setCard_walkFloors (s : State) (n : Nat) (x : CardSlot) : (s.setCard n x).walkFloors = s.walkFloors := rfl
@[simp] theorem State.setCard_deviceWalks (s : State) (n : Nat) (x : CardSlot) : (s.setCard n x).deviceWalks = s.deviceWalks := rfl
@[simp] theorem State.setCard_lcs (s : State) (n : Nat) (x : CardSlot) : (s.setCard n x).lcs = s.lcs := rfl
@[simp] theorem State.setCard_lc_eq (s : State) (n : Nat) (x : CardSlot) (k' : Nat) : (s.setCard n x).lc k' = s.lc k' := rfl
@[simp] theorem State.setCard_jobs (s : State) (n : Nat) (x : CardSlot) : (s.setCard n x).jobs = s.jobs := rfl
@[simp] theorem State.setCard_job_eq (s : State) (n : Nat) (x : CardSlot) (k' : Nat) : (s.setCard n x).job? k' = s.job? k' := rfl
@[simp] theorem State.setCard_nextJob (s : State) (n : Nat) (x : CardSlot) : (s.setCard n x).nextJob = s.nextJob := rfl
@[simp] theorem State.setCard_dies (s : State) (n : Nat) (x : CardSlot) : (s.setCard n x).dies = s.dies := rfl
@[simp] theorem State.setCard_die_eq (s : State) (n : Nat) (x : CardSlot) (k' : Nat) : (s.setCard n x).die k' = s.die k' := rfl
@[simp] theorem State.setCard_xmRows (s : State) (n : Nat) (x : CardSlot) : (s.setCard n x).xmRows = s.xmRows := rfl
@[simp] theorem State.setCard_ports (s : State) (n : Nat) (x : CardSlot) : (s.setCard n x).ports = s.ports := rfl
@[simp] theorem State.setCard_faultq (s : State) (n : Nat) (x : CardSlot) : (s.setCard n x).faultq = s.faultq := rfl
@[simp] theorem State.setCard_saved (s : State) (n : Nat) (x : CardSlot) : (s.setCard n x).saved = s.saved := rfl
@[simp] theorem State.setCard_invals (s : State) (n : Nat) (x : CardSlot) : (s.setCard n x).invals = s.invals := rfl
@[simp] theorem State.setCard_migs (s : State) (n : Nat) (x : CardSlot) : (s.setCard n x).migs = s.migs := rfl
@[simp] theorem State.setCard_mig_eq (s : State) (n : Nat) (x : CardSlot) (k' : Nat) : (s.setCard n x).mig k' = s.mig k' := rfl
@[simp] theorem State.setCard_bounceq (s : State) (n : Nat) (x : CardSlot) : (s.setCard n x).bounceq = s.bounceq := rfl
@[simp] theorem State.setCard_toBounce (s : State) (n : Nat) (x : CardSlot) : (s.setCard n x).toBounce = s.toBounce := rfl
@[simp] theorem State.setCard_layouts (s : State) (n : Nat) (x : CardSlot) : (s.setCard n x).layouts = s.layouts := rfl
@[simp] theorem State.setCard_exchange (s : State) (n : Nat) (x : CardSlot) : (s.setCard n x).exchange = s.exchange := rfl
@[simp] theorem State.setCard_watches (s : State) (n : Nat) (x : CardSlot) : (s.setCard n x).watches = s.watches := rfl
@[simp] theorem State.setCard_triggers (s : State) (n : Nat) (x : CardSlot) : (s.setCard n x).triggers = s.triggers := rfl
@[simp] theorem State.setCard_coded (s : State) (n : Nat) (x : CardSlot) : (s.setCard n x).coded = s.coded := rfl
@[simp] theorem State.setCard_codedSlot_eq (s : State) (n : Nat) (x : CardSlot) (k' : Nat) : (s.setCard n x).codedSlot k' = s.codedSlot k' := rfl
@[simp] theorem State.setCard_posts (s : State) (n : Nat) (x : CardSlot) : (s.setCard n x).posts = s.posts := rfl
@[simp] theorem State.setCard_decodeq (s : State) (n : Nat) (x : CardSlot) : (s.setCard n x).decodeq = s.decodeq := rfl
@[simp] theorem State.setCard_decoders (s : State) (n : Nat) (x : CardSlot) : (s.setCard n x).decoders = s.decoders := rfl
@[simp] theorem State.setCard_teStats (s : State) (n : Nat) (x : CardSlot) : (s.setCard n x).teStats = s.teStats := rfl
@[simp] theorem State.setCard_host (s : State) (n : Nat) (x : CardSlot) : (s.setCard n x).host = s.host := rfl
@[simp] theorem State.setCard_fars (s : State) (n : Nat) (x : CardSlot) : (s.setCard n x).fars = s.fars := rfl
@[simp] theorem State.setCard_routes (s : State) (n : Nat) (x : CardSlot) : (s.setCard n x).routes = s.routes := rfl
@[simp] theorem State.setCard_seams (s : State) (n : Nat) (x : CardSlot) : (s.setCard n x).seams = s.seams := rfl
@[simp] theorem State.setCard_seam_eq (s : State) (n : Nat) (x : CardSlot) (k' : Nat) : (s.setCard n x).seam k' = s.seam k' := rfl
@[simp] theorem State.setCard_chans (s : State) (n : Nat) (x : CardSlot) : (s.setCard n x).chans = s.chans := rfl
@[simp] theorem State.setCard_seqNums (s : State) (n : Nat) (x : CardSlot) : (s.setCard n x).seqNums = s.seqNums := rfl
@[simp] theorem State.setCard_counts (s : State) (n : Nat) (x : CardSlot) : (s.setCard n x).counts = s.counts := rfl
@[simp] theorem State.setCard_mgc (s : State) (n : Nat) (x : CardSlot) : (s.setCard n x).mgc = s.mgc := rfl
@[simp] theorem State.setCard_served (s : State) (n : Nat) (x : CardSlot) : (s.setCard n x).served = s.served := rfl
@[simp] theorem State.setCard_tmrUpset (s : State) (n : Nat) (x : CardSlot) : (s.setCard n x).tmrUpset = s.tmrUpset := rfl

@[simp] theorem State.setMig_now (s : State) (n : Nat) (x : Migration) : (s.setMig n x).now = s.now := rfl
@[simp] theorem State.setMig_cur (s : State) (n : Nat) (x : Migration) : (s.setMig n x).cur = s.cur := rfl
@[simp] theorem State.setMig_moves (s : State) (n : Nat) (x : Migration) : (s.setMig n x).moves = s.moves := rfl
@[simp] theorem State.setMig_sched (s : State) (n : Nat) (x : Migration) : (s.setMig n x).sched = s.sched := rfl
@[simp] theorem State.setMig_fresh (s : State) (n : Nat) (x : Migration) : (s.setMig n x).fresh = s.fresh := rfl
@[simp] theorem State.setMig_cmdSeq (s : State) (n : Nat) (x : Migration) : (s.setMig n x).cmdSeq = s.cmdSeq := rfl
@[simp] theorem State.setMig_streams (s : State) (n : Nat) (x : Migration) : (s.setMig n x).streams = s.streams := rfl
@[simp] theorem State.setMig_stream_eq (s : State) (n : Nat) (x : Migration) (u' : UnitId) : (s.setMig n x).stream u' = s.stream u' := rfl
@[simp] theorem State.setMig_cores (s : State) (n : Nat) (x : Migration) : (s.setMig n x).cores = s.cores := rfl
@[simp] theorem State.setMig_core_eq (s : State) (n : Nat) (x : Migration) (k' : Nat) : (s.setMig n x).core k' = s.core k' := rfl
@[simp] theorem State.setMig_imem (s : State) (n : Nat) (x : Migration) : (s.setMig n x).imem = s.imem := rfl
@[simp] theorem State.setMig_imlim (s : State) (n : Nat) (x : Migration) : (s.setMig n x).imlim = s.imlim := rfl
@[simp] theorem State.setMig_mem (s : State) (n : Nat) (x : Migration) : (s.setMig n x).mem = s.mem := rfl
@[simp] theorem State.setMig_veneer (s : State) (n : Nat) (x : Migration) : (s.setMig n x).veneer = s.veneer := rfl
@[simp] theorem State.setMig_ecc (s : State) (n : Nat) (x : Migration) : (s.setMig n x).ecc = s.ecc := rfl
@[simp] theorem State.setMig_busBad (s : State) (n : Nat) (x : Migration) : (s.setMig n x).busBad = s.busBad := rfl
@[simp] theorem State.setMig_pending (s : State) (n : Nat) (x : Migration) : (s.setMig n x).pending = s.pending := rfl
@[simp] theorem State.setMig_hist (s : State) (n : Nat) (x : Migration) : (s.setMig n x).hist = s.hist := rfl
@[simp] theorem State.setMig_hashed (s : State) (n : Nat) (x : Migration) : (s.setMig n x).hashed = s.hashed := rfl
@[simp] theorem State.setMig_rowSeq (s : State) (n : Nat) (x : Migration) : (s.setMig n x).rowSeq = s.rowSeq := rfl
@[simp] theorem State.setMig_views (s : State) (n : Nat) (x : Migration) : (s.setMig n x).views = s.views := rfl
@[simp] theorem State.setMig_works (s : State) (n : Nat) (x : Migration) : (s.setMig n x).works = s.works := rfl
@[simp] theorem State.setMig_fences (s : State) (n : Nat) (x : Migration) : (s.setMig n x).fences = s.fences := rfl
@[simp] theorem State.setMig_latClocks (s : State) (n : Nat) (x : Migration) : (s.setMig n x).latClocks = s.latClocks := rfl
@[simp] theorem State.setMig_walkFloors (s : State) (n : Nat) (x : Migration) : (s.setMig n x).walkFloors = s.walkFloors := rfl
@[simp] theorem State.setMig_deviceWalks (s : State) (n : Nat) (x : Migration) : (s.setMig n x).deviceWalks = s.deviceWalks := rfl
@[simp] theorem State.setMig_lcs (s : State) (n : Nat) (x : Migration) : (s.setMig n x).lcs = s.lcs := rfl
@[simp] theorem State.setMig_lc_eq (s : State) (n : Nat) (x : Migration) (k' : Nat) : (s.setMig n x).lc k' = s.lc k' := rfl
@[simp] theorem State.setMig_cards (s : State) (n : Nat) (x : Migration) : (s.setMig n x).cards = s.cards := rfl
@[simp] theorem State.setMig_card_eq (s : State) (n : Nat) (x : Migration) (k' : Nat) : (s.setMig n x).card k' = s.card k' := rfl
@[simp] theorem State.setMig_jobs (s : State) (n : Nat) (x : Migration) : (s.setMig n x).jobs = s.jobs := rfl
@[simp] theorem State.setMig_job_eq (s : State) (n : Nat) (x : Migration) (k' : Nat) : (s.setMig n x).job? k' = s.job? k' := rfl
@[simp] theorem State.setMig_nextJob (s : State) (n : Nat) (x : Migration) : (s.setMig n x).nextJob = s.nextJob := rfl
@[simp] theorem State.setMig_dies (s : State) (n : Nat) (x : Migration) : (s.setMig n x).dies = s.dies := rfl
@[simp] theorem State.setMig_die_eq (s : State) (n : Nat) (x : Migration) (k' : Nat) : (s.setMig n x).die k' = s.die k' := rfl
@[simp] theorem State.setMig_xmRows (s : State) (n : Nat) (x : Migration) : (s.setMig n x).xmRows = s.xmRows := rfl
@[simp] theorem State.setMig_ports (s : State) (n : Nat) (x : Migration) : (s.setMig n x).ports = s.ports := rfl
@[simp] theorem State.setMig_faultq (s : State) (n : Nat) (x : Migration) : (s.setMig n x).faultq = s.faultq := rfl
@[simp] theorem State.setMig_saved (s : State) (n : Nat) (x : Migration) : (s.setMig n x).saved = s.saved := rfl
@[simp] theorem State.setMig_invals (s : State) (n : Nat) (x : Migration) : (s.setMig n x).invals = s.invals := rfl
@[simp] theorem State.setMig_bounceq (s : State) (n : Nat) (x : Migration) : (s.setMig n x).bounceq = s.bounceq := rfl
@[simp] theorem State.setMig_toBounce (s : State) (n : Nat) (x : Migration) : (s.setMig n x).toBounce = s.toBounce := rfl
@[simp] theorem State.setMig_layouts (s : State) (n : Nat) (x : Migration) : (s.setMig n x).layouts = s.layouts := rfl
@[simp] theorem State.setMig_exchange (s : State) (n : Nat) (x : Migration) : (s.setMig n x).exchange = s.exchange := rfl
@[simp] theorem State.setMig_watches (s : State) (n : Nat) (x : Migration) : (s.setMig n x).watches = s.watches := rfl
@[simp] theorem State.setMig_triggers (s : State) (n : Nat) (x : Migration) : (s.setMig n x).triggers = s.triggers := rfl
@[simp] theorem State.setMig_coded (s : State) (n : Nat) (x : Migration) : (s.setMig n x).coded = s.coded := rfl
@[simp] theorem State.setMig_codedSlot_eq (s : State) (n : Nat) (x : Migration) (k' : Nat) : (s.setMig n x).codedSlot k' = s.codedSlot k' := rfl
@[simp] theorem State.setMig_posts (s : State) (n : Nat) (x : Migration) : (s.setMig n x).posts = s.posts := rfl
@[simp] theorem State.setMig_decodeq (s : State) (n : Nat) (x : Migration) : (s.setMig n x).decodeq = s.decodeq := rfl
@[simp] theorem State.setMig_decoders (s : State) (n : Nat) (x : Migration) : (s.setMig n x).decoders = s.decoders := rfl
@[simp] theorem State.setMig_teStats (s : State) (n : Nat) (x : Migration) : (s.setMig n x).teStats = s.teStats := rfl
@[simp] theorem State.setMig_host (s : State) (n : Nat) (x : Migration) : (s.setMig n x).host = s.host := rfl
@[simp] theorem State.setMig_fars (s : State) (n : Nat) (x : Migration) : (s.setMig n x).fars = s.fars := rfl
@[simp] theorem State.setMig_routes (s : State) (n : Nat) (x : Migration) : (s.setMig n x).routes = s.routes := rfl
@[simp] theorem State.setMig_seams (s : State) (n : Nat) (x : Migration) : (s.setMig n x).seams = s.seams := rfl
@[simp] theorem State.setMig_seam_eq (s : State) (n : Nat) (x : Migration) (k' : Nat) : (s.setMig n x).seam k' = s.seam k' := rfl
@[simp] theorem State.setMig_chans (s : State) (n : Nat) (x : Migration) : (s.setMig n x).chans = s.chans := rfl
@[simp] theorem State.setMig_seqNums (s : State) (n : Nat) (x : Migration) : (s.setMig n x).seqNums = s.seqNums := rfl
@[simp] theorem State.setMig_counts (s : State) (n : Nat) (x : Migration) : (s.setMig n x).counts = s.counts := rfl
@[simp] theorem State.setMig_mgc (s : State) (n : Nat) (x : Migration) : (s.setMig n x).mgc = s.mgc := rfl
@[simp] theorem State.setMig_served (s : State) (n : Nat) (x : Migration) : (s.setMig n x).served = s.served := rfl
@[simp] theorem State.setMig_tmrUpset (s : State) (n : Nat) (x : Migration) : (s.setMig n x).tmrUpset = s.tmrUpset := rfl

@[simp] theorem State.setCoded_now (s : State) (n : Nat) (x : Coded) : (s.setCoded n x).now = s.now := rfl
@[simp] theorem State.setCoded_cur (s : State) (n : Nat) (x : Coded) : (s.setCoded n x).cur = s.cur := rfl
@[simp] theorem State.setCoded_moves (s : State) (n : Nat) (x : Coded) : (s.setCoded n x).moves = s.moves := rfl
@[simp] theorem State.setCoded_sched (s : State) (n : Nat) (x : Coded) : (s.setCoded n x).sched = s.sched := rfl
@[simp] theorem State.setCoded_fresh (s : State) (n : Nat) (x : Coded) : (s.setCoded n x).fresh = s.fresh := rfl
@[simp] theorem State.setCoded_cmdSeq (s : State) (n : Nat) (x : Coded) : (s.setCoded n x).cmdSeq = s.cmdSeq := rfl
@[simp] theorem State.setCoded_streams (s : State) (n : Nat) (x : Coded) : (s.setCoded n x).streams = s.streams := rfl
@[simp] theorem State.setCoded_stream_eq (s : State) (n : Nat) (x : Coded) (u' : UnitId) : (s.setCoded n x).stream u' = s.stream u' := rfl
@[simp] theorem State.setCoded_cores (s : State) (n : Nat) (x : Coded) : (s.setCoded n x).cores = s.cores := rfl
@[simp] theorem State.setCoded_core_eq (s : State) (n : Nat) (x : Coded) (k' : Nat) : (s.setCoded n x).core k' = s.core k' := rfl
@[simp] theorem State.setCoded_imem (s : State) (n : Nat) (x : Coded) : (s.setCoded n x).imem = s.imem := rfl
@[simp] theorem State.setCoded_imlim (s : State) (n : Nat) (x : Coded) : (s.setCoded n x).imlim = s.imlim := rfl
@[simp] theorem State.setCoded_mem (s : State) (n : Nat) (x : Coded) : (s.setCoded n x).mem = s.mem := rfl
@[simp] theorem State.setCoded_veneer (s : State) (n : Nat) (x : Coded) : (s.setCoded n x).veneer = s.veneer := rfl
@[simp] theorem State.setCoded_ecc (s : State) (n : Nat) (x : Coded) : (s.setCoded n x).ecc = s.ecc := rfl
@[simp] theorem State.setCoded_busBad (s : State) (n : Nat) (x : Coded) : (s.setCoded n x).busBad = s.busBad := rfl
@[simp] theorem State.setCoded_pending (s : State) (n : Nat) (x : Coded) : (s.setCoded n x).pending = s.pending := rfl
@[simp] theorem State.setCoded_hist (s : State) (n : Nat) (x : Coded) : (s.setCoded n x).hist = s.hist := rfl
@[simp] theorem State.setCoded_hashed (s : State) (n : Nat) (x : Coded) : (s.setCoded n x).hashed = s.hashed := rfl
@[simp] theorem State.setCoded_rowSeq (s : State) (n : Nat) (x : Coded) : (s.setCoded n x).rowSeq = s.rowSeq := rfl
@[simp] theorem State.setCoded_views (s : State) (n : Nat) (x : Coded) : (s.setCoded n x).views = s.views := rfl
@[simp] theorem State.setCoded_works (s : State) (n : Nat) (x : Coded) : (s.setCoded n x).works = s.works := rfl
@[simp] theorem State.setCoded_fences (s : State) (n : Nat) (x : Coded) : (s.setCoded n x).fences = s.fences := rfl
@[simp] theorem State.setCoded_latClocks (s : State) (n : Nat) (x : Coded) : (s.setCoded n x).latClocks = s.latClocks := rfl
@[simp] theorem State.setCoded_walkFloors (s : State) (n : Nat) (x : Coded) : (s.setCoded n x).walkFloors = s.walkFloors := rfl
@[simp] theorem State.setCoded_deviceWalks (s : State) (n : Nat) (x : Coded) : (s.setCoded n x).deviceWalks = s.deviceWalks := rfl
@[simp] theorem State.setCoded_lcs (s : State) (n : Nat) (x : Coded) : (s.setCoded n x).lcs = s.lcs := rfl
@[simp] theorem State.setCoded_lc_eq (s : State) (n : Nat) (x : Coded) (k' : Nat) : (s.setCoded n x).lc k' = s.lc k' := rfl
@[simp] theorem State.setCoded_cards (s : State) (n : Nat) (x : Coded) : (s.setCoded n x).cards = s.cards := rfl
@[simp] theorem State.setCoded_card_eq (s : State) (n : Nat) (x : Coded) (k' : Nat) : (s.setCoded n x).card k' = s.card k' := rfl
@[simp] theorem State.setCoded_jobs (s : State) (n : Nat) (x : Coded) : (s.setCoded n x).jobs = s.jobs := rfl
@[simp] theorem State.setCoded_job_eq (s : State) (n : Nat) (x : Coded) (k' : Nat) : (s.setCoded n x).job? k' = s.job? k' := rfl
@[simp] theorem State.setCoded_nextJob (s : State) (n : Nat) (x : Coded) : (s.setCoded n x).nextJob = s.nextJob := rfl
@[simp] theorem State.setCoded_dies (s : State) (n : Nat) (x : Coded) : (s.setCoded n x).dies = s.dies := rfl
@[simp] theorem State.setCoded_die_eq (s : State) (n : Nat) (x : Coded) (k' : Nat) : (s.setCoded n x).die k' = s.die k' := rfl
@[simp] theorem State.setCoded_xmRows (s : State) (n : Nat) (x : Coded) : (s.setCoded n x).xmRows = s.xmRows := rfl
@[simp] theorem State.setCoded_ports (s : State) (n : Nat) (x : Coded) : (s.setCoded n x).ports = s.ports := rfl
@[simp] theorem State.setCoded_faultq (s : State) (n : Nat) (x : Coded) : (s.setCoded n x).faultq = s.faultq := rfl
@[simp] theorem State.setCoded_saved (s : State) (n : Nat) (x : Coded) : (s.setCoded n x).saved = s.saved := rfl
@[simp] theorem State.setCoded_invals (s : State) (n : Nat) (x : Coded) : (s.setCoded n x).invals = s.invals := rfl
@[simp] theorem State.setCoded_migs (s : State) (n : Nat) (x : Coded) : (s.setCoded n x).migs = s.migs := rfl
@[simp] theorem State.setCoded_mig_eq (s : State) (n : Nat) (x : Coded) (k' : Nat) : (s.setCoded n x).mig k' = s.mig k' := rfl
@[simp] theorem State.setCoded_bounceq (s : State) (n : Nat) (x : Coded) : (s.setCoded n x).bounceq = s.bounceq := rfl
@[simp] theorem State.setCoded_toBounce (s : State) (n : Nat) (x : Coded) : (s.setCoded n x).toBounce = s.toBounce := rfl
@[simp] theorem State.setCoded_layouts (s : State) (n : Nat) (x : Coded) : (s.setCoded n x).layouts = s.layouts := rfl
@[simp] theorem State.setCoded_exchange (s : State) (n : Nat) (x : Coded) : (s.setCoded n x).exchange = s.exchange := rfl
@[simp] theorem State.setCoded_watches (s : State) (n : Nat) (x : Coded) : (s.setCoded n x).watches = s.watches := rfl
@[simp] theorem State.setCoded_triggers (s : State) (n : Nat) (x : Coded) : (s.setCoded n x).triggers = s.triggers := rfl
@[simp] theorem State.setCoded_posts (s : State) (n : Nat) (x : Coded) : (s.setCoded n x).posts = s.posts := rfl
@[simp] theorem State.setCoded_decodeq (s : State) (n : Nat) (x : Coded) : (s.setCoded n x).decodeq = s.decodeq := rfl
@[simp] theorem State.setCoded_decoders (s : State) (n : Nat) (x : Coded) : (s.setCoded n x).decoders = s.decoders := rfl
@[simp] theorem State.setCoded_teStats (s : State) (n : Nat) (x : Coded) : (s.setCoded n x).teStats = s.teStats := rfl
@[simp] theorem State.setCoded_host (s : State) (n : Nat) (x : Coded) : (s.setCoded n x).host = s.host := rfl
@[simp] theorem State.setCoded_fars (s : State) (n : Nat) (x : Coded) : (s.setCoded n x).fars = s.fars := rfl
@[simp] theorem State.setCoded_routes (s : State) (n : Nat) (x : Coded) : (s.setCoded n x).routes = s.routes := rfl
@[simp] theorem State.setCoded_seams (s : State) (n : Nat) (x : Coded) : (s.setCoded n x).seams = s.seams := rfl
@[simp] theorem State.setCoded_seam_eq (s : State) (n : Nat) (x : Coded) (k' : Nat) : (s.setCoded n x).seam k' = s.seam k' := rfl
@[simp] theorem State.setCoded_chans (s : State) (n : Nat) (x : Coded) : (s.setCoded n x).chans = s.chans := rfl
@[simp] theorem State.setCoded_seqNums (s : State) (n : Nat) (x : Coded) : (s.setCoded n x).seqNums = s.seqNums := rfl
@[simp] theorem State.setCoded_counts (s : State) (n : Nat) (x : Coded) : (s.setCoded n x).counts = s.counts := rfl
@[simp] theorem State.setCoded_mgc (s : State) (n : Nat) (x : Coded) : (s.setCoded n x).mgc = s.mgc := rfl
@[simp] theorem State.setCoded_served (s : State) (n : Nat) (x : Coded) : (s.setCoded n x).served = s.served := rfl
@[simp] theorem State.setCoded_tmrUpset (s : State) (n : Nat) (x : Coded) : (s.setCoded n x).tmrUpset = s.tmrUpset := rfl

@[simp] theorem State.setSeam_now (s : State) (n : Nat) (x : Seam) : (s.setSeam n x).now = s.now := rfl
@[simp] theorem State.setSeam_cur (s : State) (n : Nat) (x : Seam) : (s.setSeam n x).cur = s.cur := rfl
@[simp] theorem State.setSeam_moves (s : State) (n : Nat) (x : Seam) : (s.setSeam n x).moves = s.moves := rfl
@[simp] theorem State.setSeam_sched (s : State) (n : Nat) (x : Seam) : (s.setSeam n x).sched = s.sched := rfl
@[simp] theorem State.setSeam_fresh (s : State) (n : Nat) (x : Seam) : (s.setSeam n x).fresh = s.fresh := rfl
@[simp] theorem State.setSeam_cmdSeq (s : State) (n : Nat) (x : Seam) : (s.setSeam n x).cmdSeq = s.cmdSeq := rfl
@[simp] theorem State.setSeam_streams (s : State) (n : Nat) (x : Seam) : (s.setSeam n x).streams = s.streams := rfl
@[simp] theorem State.setSeam_stream_eq (s : State) (n : Nat) (x : Seam) (u' : UnitId) : (s.setSeam n x).stream u' = s.stream u' := rfl
@[simp] theorem State.setSeam_cores (s : State) (n : Nat) (x : Seam) : (s.setSeam n x).cores = s.cores := rfl
@[simp] theorem State.setSeam_core_eq (s : State) (n : Nat) (x : Seam) (k' : Nat) : (s.setSeam n x).core k' = s.core k' := rfl
@[simp] theorem State.setSeam_imem (s : State) (n : Nat) (x : Seam) : (s.setSeam n x).imem = s.imem := rfl
@[simp] theorem State.setSeam_imlim (s : State) (n : Nat) (x : Seam) : (s.setSeam n x).imlim = s.imlim := rfl
@[simp] theorem State.setSeam_mem (s : State) (n : Nat) (x : Seam) : (s.setSeam n x).mem = s.mem := rfl
@[simp] theorem State.setSeam_veneer (s : State) (n : Nat) (x : Seam) : (s.setSeam n x).veneer = s.veneer := rfl
@[simp] theorem State.setSeam_ecc (s : State) (n : Nat) (x : Seam) : (s.setSeam n x).ecc = s.ecc := rfl
@[simp] theorem State.setSeam_busBad (s : State) (n : Nat) (x : Seam) : (s.setSeam n x).busBad = s.busBad := rfl
@[simp] theorem State.setSeam_pending (s : State) (n : Nat) (x : Seam) : (s.setSeam n x).pending = s.pending := rfl
@[simp] theorem State.setSeam_hist (s : State) (n : Nat) (x : Seam) : (s.setSeam n x).hist = s.hist := rfl
@[simp] theorem State.setSeam_hashed (s : State) (n : Nat) (x : Seam) : (s.setSeam n x).hashed = s.hashed := rfl
@[simp] theorem State.setSeam_rowSeq (s : State) (n : Nat) (x : Seam) : (s.setSeam n x).rowSeq = s.rowSeq := rfl
@[simp] theorem State.setSeam_views (s : State) (n : Nat) (x : Seam) : (s.setSeam n x).views = s.views := rfl
@[simp] theorem State.setSeam_works (s : State) (n : Nat) (x : Seam) : (s.setSeam n x).works = s.works := rfl
@[simp] theorem State.setSeam_fences (s : State) (n : Nat) (x : Seam) : (s.setSeam n x).fences = s.fences := rfl
@[simp] theorem State.setSeam_latClocks (s : State) (n : Nat) (x : Seam) : (s.setSeam n x).latClocks = s.latClocks := rfl
@[simp] theorem State.setSeam_walkFloors (s : State) (n : Nat) (x : Seam) : (s.setSeam n x).walkFloors = s.walkFloors := rfl
@[simp] theorem State.setSeam_deviceWalks (s : State) (n : Nat) (x : Seam) : (s.setSeam n x).deviceWalks = s.deviceWalks := rfl
@[simp] theorem State.setSeam_lcs (s : State) (n : Nat) (x : Seam) : (s.setSeam n x).lcs = s.lcs := rfl
@[simp] theorem State.setSeam_lc_eq (s : State) (n : Nat) (x : Seam) (k' : Nat) : (s.setSeam n x).lc k' = s.lc k' := rfl
@[simp] theorem State.setSeam_cards (s : State) (n : Nat) (x : Seam) : (s.setSeam n x).cards = s.cards := rfl
@[simp] theorem State.setSeam_card_eq (s : State) (n : Nat) (x : Seam) (k' : Nat) : (s.setSeam n x).card k' = s.card k' := rfl
@[simp] theorem State.setSeam_jobs (s : State) (n : Nat) (x : Seam) : (s.setSeam n x).jobs = s.jobs := rfl
@[simp] theorem State.setSeam_job_eq (s : State) (n : Nat) (x : Seam) (k' : Nat) : (s.setSeam n x).job? k' = s.job? k' := rfl
@[simp] theorem State.setSeam_nextJob (s : State) (n : Nat) (x : Seam) : (s.setSeam n x).nextJob = s.nextJob := rfl
@[simp] theorem State.setSeam_dies (s : State) (n : Nat) (x : Seam) : (s.setSeam n x).dies = s.dies := rfl
@[simp] theorem State.setSeam_die_eq (s : State) (n : Nat) (x : Seam) (k' : Nat) : (s.setSeam n x).die k' = s.die k' := rfl
@[simp] theorem State.setSeam_xmRows (s : State) (n : Nat) (x : Seam) : (s.setSeam n x).xmRows = s.xmRows := rfl
@[simp] theorem State.setSeam_ports (s : State) (n : Nat) (x : Seam) : (s.setSeam n x).ports = s.ports := rfl
@[simp] theorem State.setSeam_faultq (s : State) (n : Nat) (x : Seam) : (s.setSeam n x).faultq = s.faultq := rfl
@[simp] theorem State.setSeam_saved (s : State) (n : Nat) (x : Seam) : (s.setSeam n x).saved = s.saved := rfl
@[simp] theorem State.setSeam_invals (s : State) (n : Nat) (x : Seam) : (s.setSeam n x).invals = s.invals := rfl
@[simp] theorem State.setSeam_migs (s : State) (n : Nat) (x : Seam) : (s.setSeam n x).migs = s.migs := rfl
@[simp] theorem State.setSeam_mig_eq (s : State) (n : Nat) (x : Seam) (k' : Nat) : (s.setSeam n x).mig k' = s.mig k' := rfl
@[simp] theorem State.setSeam_bounceq (s : State) (n : Nat) (x : Seam) : (s.setSeam n x).bounceq = s.bounceq := rfl
@[simp] theorem State.setSeam_toBounce (s : State) (n : Nat) (x : Seam) : (s.setSeam n x).toBounce = s.toBounce := rfl
@[simp] theorem State.setSeam_layouts (s : State) (n : Nat) (x : Seam) : (s.setSeam n x).layouts = s.layouts := rfl
@[simp] theorem State.setSeam_exchange (s : State) (n : Nat) (x : Seam) : (s.setSeam n x).exchange = s.exchange := rfl
@[simp] theorem State.setSeam_watches (s : State) (n : Nat) (x : Seam) : (s.setSeam n x).watches = s.watches := rfl
@[simp] theorem State.setSeam_triggers (s : State) (n : Nat) (x : Seam) : (s.setSeam n x).triggers = s.triggers := rfl
@[simp] theorem State.setSeam_coded (s : State) (n : Nat) (x : Seam) : (s.setSeam n x).coded = s.coded := rfl
@[simp] theorem State.setSeam_codedSlot_eq (s : State) (n : Nat) (x : Seam) (k' : Nat) : (s.setSeam n x).codedSlot k' = s.codedSlot k' := rfl
@[simp] theorem State.setSeam_posts (s : State) (n : Nat) (x : Seam) : (s.setSeam n x).posts = s.posts := rfl
@[simp] theorem State.setSeam_decodeq (s : State) (n : Nat) (x : Seam) : (s.setSeam n x).decodeq = s.decodeq := rfl
@[simp] theorem State.setSeam_decoders (s : State) (n : Nat) (x : Seam) : (s.setSeam n x).decoders = s.decoders := rfl
@[simp] theorem State.setSeam_teStats (s : State) (n : Nat) (x : Seam) : (s.setSeam n x).teStats = s.teStats := rfl
@[simp] theorem State.setSeam_host (s : State) (n : Nat) (x : Seam) : (s.setSeam n x).host = s.host := rfl
@[simp] theorem State.setSeam_fars (s : State) (n : Nat) (x : Seam) : (s.setSeam n x).fars = s.fars := rfl
@[simp] theorem State.setSeam_routes (s : State) (n : Nat) (x : Seam) : (s.setSeam n x).routes = s.routes := rfl
@[simp] theorem State.setSeam_chans (s : State) (n : Nat) (x : Seam) : (s.setSeam n x).chans = s.chans := rfl
@[simp] theorem State.setSeam_seqNums (s : State) (n : Nat) (x : Seam) : (s.setSeam n x).seqNums = s.seqNums := rfl
@[simp] theorem State.setSeam_counts (s : State) (n : Nat) (x : Seam) : (s.setSeam n x).counts = s.counts := rfl
@[simp] theorem State.setSeam_mgc (s : State) (n : Nat) (x : Seam) : (s.setSeam n x).mgc = s.mgc := rfl
@[simp] theorem State.setSeam_served (s : State) (n : Nat) (x : Seam) : (s.setSeam n x).served = s.served := rfl
@[simp] theorem State.setSeam_tmrUpset (s : State) (n : Nat) (x : Seam) : (s.setSeam n x).tmrUpset = s.tmrUpset := rfl

@[simp] theorem State.setChan_now (s : State) (m c : Nat) (x : Chan) : (s.setChan m c x).now = s.now := rfl
@[simp] theorem State.setChan_cur (s : State) (m c : Nat) (x : Chan) : (s.setChan m c x).cur = s.cur := rfl
@[simp] theorem State.setChan_moves (s : State) (m c : Nat) (x : Chan) : (s.setChan m c x).moves = s.moves := rfl
@[simp] theorem State.setChan_sched (s : State) (m c : Nat) (x : Chan) : (s.setChan m c x).sched = s.sched := rfl
@[simp] theorem State.setChan_fresh (s : State) (m c : Nat) (x : Chan) : (s.setChan m c x).fresh = s.fresh := rfl
@[simp] theorem State.setChan_cmdSeq (s : State) (m c : Nat) (x : Chan) : (s.setChan m c x).cmdSeq = s.cmdSeq := rfl
@[simp] theorem State.setChan_streams (s : State) (m c : Nat) (x : Chan) : (s.setChan m c x).streams = s.streams := rfl
@[simp] theorem State.setChan_stream_eq (s : State) (m c : Nat) (x : Chan) (u' : UnitId) : (s.setChan m c x).stream u' = s.stream u' := rfl
@[simp] theorem State.setChan_cores (s : State) (m c : Nat) (x : Chan) : (s.setChan m c x).cores = s.cores := rfl
@[simp] theorem State.setChan_core_eq (s : State) (m c : Nat) (x : Chan) (k' : Nat) : (s.setChan m c x).core k' = s.core k' := rfl
@[simp] theorem State.setChan_imem (s : State) (m c : Nat) (x : Chan) : (s.setChan m c x).imem = s.imem := rfl
@[simp] theorem State.setChan_imlim (s : State) (m c : Nat) (x : Chan) : (s.setChan m c x).imlim = s.imlim := rfl
@[simp] theorem State.setChan_mem (s : State) (m c : Nat) (x : Chan) : (s.setChan m c x).mem = s.mem := rfl
@[simp] theorem State.setChan_veneer (s : State) (m c : Nat) (x : Chan) : (s.setChan m c x).veneer = s.veneer := rfl
@[simp] theorem State.setChan_ecc (s : State) (m c : Nat) (x : Chan) : (s.setChan m c x).ecc = s.ecc := rfl
@[simp] theorem State.setChan_busBad (s : State) (m c : Nat) (x : Chan) : (s.setChan m c x).busBad = s.busBad := rfl
@[simp] theorem State.setChan_pending (s : State) (m c : Nat) (x : Chan) : (s.setChan m c x).pending = s.pending := rfl
@[simp] theorem State.setChan_hist (s : State) (m c : Nat) (x : Chan) : (s.setChan m c x).hist = s.hist := rfl
@[simp] theorem State.setChan_hashed (s : State) (m c : Nat) (x : Chan) : (s.setChan m c x).hashed = s.hashed := rfl
@[simp] theorem State.setChan_rowSeq (s : State) (m c : Nat) (x : Chan) : (s.setChan m c x).rowSeq = s.rowSeq := rfl
@[simp] theorem State.setChan_views (s : State) (m c : Nat) (x : Chan) : (s.setChan m c x).views = s.views := rfl
@[simp] theorem State.setChan_works (s : State) (m c : Nat) (x : Chan) : (s.setChan m c x).works = s.works := rfl
@[simp] theorem State.setChan_fences (s : State) (m c : Nat) (x : Chan) : (s.setChan m c x).fences = s.fences := rfl
@[simp] theorem State.setChan_latClocks (s : State) (m c : Nat) (x : Chan) : (s.setChan m c x).latClocks = s.latClocks := rfl
@[simp] theorem State.setChan_walkFloors (s : State) (m c : Nat) (x : Chan) : (s.setChan m c x).walkFloors = s.walkFloors := rfl
@[simp] theorem State.setChan_deviceWalks (s : State) (m c : Nat) (x : Chan) : (s.setChan m c x).deviceWalks = s.deviceWalks := rfl
@[simp] theorem State.setChan_lcs (s : State) (m c : Nat) (x : Chan) : (s.setChan m c x).lcs = s.lcs := rfl
@[simp] theorem State.setChan_lc_eq (s : State) (m c : Nat) (x : Chan) (k' : Nat) : (s.setChan m c x).lc k' = s.lc k' := rfl
@[simp] theorem State.setChan_cards (s : State) (m c : Nat) (x : Chan) : (s.setChan m c x).cards = s.cards := rfl
@[simp] theorem State.setChan_card_eq (s : State) (m c : Nat) (x : Chan) (k' : Nat) : (s.setChan m c x).card k' = s.card k' := rfl
@[simp] theorem State.setChan_jobs (s : State) (m c : Nat) (x : Chan) : (s.setChan m c x).jobs = s.jobs := rfl
@[simp] theorem State.setChan_job_eq (s : State) (m c : Nat) (x : Chan) (k' : Nat) : (s.setChan m c x).job? k' = s.job? k' := rfl
@[simp] theorem State.setChan_nextJob (s : State) (m c : Nat) (x : Chan) : (s.setChan m c x).nextJob = s.nextJob := rfl
@[simp] theorem State.setChan_dies (s : State) (m c : Nat) (x : Chan) : (s.setChan m c x).dies = s.dies := rfl
@[simp] theorem State.setChan_die_eq (s : State) (m c : Nat) (x : Chan) (k' : Nat) : (s.setChan m c x).die k' = s.die k' := rfl
@[simp] theorem State.setChan_xmRows (s : State) (m c : Nat) (x : Chan) : (s.setChan m c x).xmRows = s.xmRows := rfl
@[simp] theorem State.setChan_ports (s : State) (m c : Nat) (x : Chan) : (s.setChan m c x).ports = s.ports := rfl
@[simp] theorem State.setChan_faultq (s : State) (m c : Nat) (x : Chan) : (s.setChan m c x).faultq = s.faultq := rfl
@[simp] theorem State.setChan_saved (s : State) (m c : Nat) (x : Chan) : (s.setChan m c x).saved = s.saved := rfl
@[simp] theorem State.setChan_invals (s : State) (m c : Nat) (x : Chan) : (s.setChan m c x).invals = s.invals := rfl
@[simp] theorem State.setChan_migs (s : State) (m c : Nat) (x : Chan) : (s.setChan m c x).migs = s.migs := rfl
@[simp] theorem State.setChan_mig_eq (s : State) (m c : Nat) (x : Chan) (k' : Nat) : (s.setChan m c x).mig k' = s.mig k' := rfl
@[simp] theorem State.setChan_bounceq (s : State) (m c : Nat) (x : Chan) : (s.setChan m c x).bounceq = s.bounceq := rfl
@[simp] theorem State.setChan_toBounce (s : State) (m c : Nat) (x : Chan) : (s.setChan m c x).toBounce = s.toBounce := rfl
@[simp] theorem State.setChan_layouts (s : State) (m c : Nat) (x : Chan) : (s.setChan m c x).layouts = s.layouts := rfl
@[simp] theorem State.setChan_exchange (s : State) (m c : Nat) (x : Chan) : (s.setChan m c x).exchange = s.exchange := rfl
@[simp] theorem State.setChan_watches (s : State) (m c : Nat) (x : Chan) : (s.setChan m c x).watches = s.watches := rfl
@[simp] theorem State.setChan_triggers (s : State) (m c : Nat) (x : Chan) : (s.setChan m c x).triggers = s.triggers := rfl
@[simp] theorem State.setChan_coded (s : State) (m c : Nat) (x : Chan) : (s.setChan m c x).coded = s.coded := rfl
@[simp] theorem State.setChan_codedSlot_eq (s : State) (m c : Nat) (x : Chan) (k' : Nat) : (s.setChan m c x).codedSlot k' = s.codedSlot k' := rfl
@[simp] theorem State.setChan_posts (s : State) (m c : Nat) (x : Chan) : (s.setChan m c x).posts = s.posts := rfl
@[simp] theorem State.setChan_decodeq (s : State) (m c : Nat) (x : Chan) : (s.setChan m c x).decodeq = s.decodeq := rfl
@[simp] theorem State.setChan_decoders (s : State) (m c : Nat) (x : Chan) : (s.setChan m c x).decoders = s.decoders := rfl
@[simp] theorem State.setChan_teStats (s : State) (m c : Nat) (x : Chan) : (s.setChan m c x).teStats = s.teStats := rfl
@[simp] theorem State.setChan_host (s : State) (m c : Nat) (x : Chan) : (s.setChan m c x).host = s.host := rfl
@[simp] theorem State.setChan_fars (s : State) (m c : Nat) (x : Chan) : (s.setChan m c x).fars = s.fars := rfl
@[simp] theorem State.setChan_routes (s : State) (m c : Nat) (x : Chan) : (s.setChan m c x).routes = s.routes := rfl
@[simp] theorem State.setChan_seams (s : State) (m c : Nat) (x : Chan) : (s.setChan m c x).seams = s.seams := rfl
@[simp] theorem State.setChan_seam_eq (s : State) (m c : Nat) (x : Chan) (k' : Nat) : (s.setChan m c x).seam k' = s.seam k' := rfl
@[simp] theorem State.setChan_seqNums (s : State) (m c : Nat) (x : Chan) : (s.setChan m c x).seqNums = s.seqNums := rfl
@[simp] theorem State.setChan_counts (s : State) (m c : Nat) (x : Chan) : (s.setChan m c x).counts = s.counts := rfl
@[simp] theorem State.setChan_mgc (s : State) (m c : Nat) (x : Chan) : (s.setChan m c x).mgc = s.mgc := rfl
@[simp] theorem State.setChan_served (s : State) (m c : Nat) (x : Chan) : (s.setChan m c x).served = s.served := rfl
@[simp] theorem State.setChan_tmrUpset (s : State) (m c : Nat) (x : Chan) : (s.setChan m c x).tmrUpset = s.tmrUpset := rfl

@[simp] theorem State.setJob_now (s : State) (j : Nat) (x : Job) : (s.setJob j x).now = s.now := rfl
@[simp] theorem State.setJob_cur (s : State) (j : Nat) (x : Job) : (s.setJob j x).cur = s.cur := rfl
@[simp] theorem State.setJob_moves (s : State) (j : Nat) (x : Job) : (s.setJob j x).moves = s.moves := rfl
@[simp] theorem State.setJob_sched (s : State) (j : Nat) (x : Job) : (s.setJob j x).sched = s.sched := rfl
@[simp] theorem State.setJob_fresh (s : State) (j : Nat) (x : Job) : (s.setJob j x).fresh = s.fresh := rfl
@[simp] theorem State.setJob_cmdSeq (s : State) (j : Nat) (x : Job) : (s.setJob j x).cmdSeq = s.cmdSeq := rfl
@[simp] theorem State.setJob_streams (s : State) (j : Nat) (x : Job) : (s.setJob j x).streams = s.streams := rfl
@[simp] theorem State.setJob_stream_eq (s : State) (j : Nat) (x : Job) (u' : UnitId) : (s.setJob j x).stream u' = s.stream u' := rfl
@[simp] theorem State.setJob_cores (s : State) (j : Nat) (x : Job) : (s.setJob j x).cores = s.cores := rfl
@[simp] theorem State.setJob_core_eq (s : State) (j : Nat) (x : Job) (k' : Nat) : (s.setJob j x).core k' = s.core k' := rfl
@[simp] theorem State.setJob_imem (s : State) (j : Nat) (x : Job) : (s.setJob j x).imem = s.imem := rfl
@[simp] theorem State.setJob_imlim (s : State) (j : Nat) (x : Job) : (s.setJob j x).imlim = s.imlim := rfl
@[simp] theorem State.setJob_mem (s : State) (j : Nat) (x : Job) : (s.setJob j x).mem = s.mem := rfl
@[simp] theorem State.setJob_veneer (s : State) (j : Nat) (x : Job) : (s.setJob j x).veneer = s.veneer := rfl
@[simp] theorem State.setJob_ecc (s : State) (j : Nat) (x : Job) : (s.setJob j x).ecc = s.ecc := rfl
@[simp] theorem State.setJob_busBad (s : State) (j : Nat) (x : Job) : (s.setJob j x).busBad = s.busBad := rfl
@[simp] theorem State.setJob_pending (s : State) (j : Nat) (x : Job) : (s.setJob j x).pending = s.pending := rfl
@[simp] theorem State.setJob_hist (s : State) (j : Nat) (x : Job) : (s.setJob j x).hist = s.hist := rfl
@[simp] theorem State.setJob_hashed (s : State) (j : Nat) (x : Job) : (s.setJob j x).hashed = s.hashed := rfl
@[simp] theorem State.setJob_rowSeq (s : State) (j : Nat) (x : Job) : (s.setJob j x).rowSeq = s.rowSeq := rfl
@[simp] theorem State.setJob_views (s : State) (j : Nat) (x : Job) : (s.setJob j x).views = s.views := rfl
@[simp] theorem State.setJob_works (s : State) (j : Nat) (x : Job) : (s.setJob j x).works = s.works := rfl
@[simp] theorem State.setJob_fences (s : State) (j : Nat) (x : Job) : (s.setJob j x).fences = s.fences := rfl
@[simp] theorem State.setJob_latClocks (s : State) (j : Nat) (x : Job) : (s.setJob j x).latClocks = s.latClocks := rfl
@[simp] theorem State.setJob_walkFloors (s : State) (j : Nat) (x : Job) : (s.setJob j x).walkFloors = s.walkFloors := rfl
@[simp] theorem State.setJob_deviceWalks (s : State) (j : Nat) (x : Job) : (s.setJob j x).deviceWalks = s.deviceWalks := rfl
@[simp] theorem State.setJob_lcs (s : State) (j : Nat) (x : Job) : (s.setJob j x).lcs = s.lcs := rfl
@[simp] theorem State.setJob_lc_eq (s : State) (j : Nat) (x : Job) (k' : Nat) : (s.setJob j x).lc k' = s.lc k' := rfl
@[simp] theorem State.setJob_cards (s : State) (j : Nat) (x : Job) : (s.setJob j x).cards = s.cards := rfl
@[simp] theorem State.setJob_card_eq (s : State) (j : Nat) (x : Job) (k' : Nat) : (s.setJob j x).card k' = s.card k' := rfl
@[simp] theorem State.setJob_nextJob (s : State) (j : Nat) (x : Job) : (s.setJob j x).nextJob = s.nextJob := rfl
@[simp] theorem State.setJob_dies (s : State) (j : Nat) (x : Job) : (s.setJob j x).dies = s.dies := rfl
@[simp] theorem State.setJob_die_eq (s : State) (j : Nat) (x : Job) (k' : Nat) : (s.setJob j x).die k' = s.die k' := rfl
@[simp] theorem State.setJob_xmRows (s : State) (j : Nat) (x : Job) : (s.setJob j x).xmRows = s.xmRows := rfl
@[simp] theorem State.setJob_ports (s : State) (j : Nat) (x : Job) : (s.setJob j x).ports = s.ports := rfl
@[simp] theorem State.setJob_faultq (s : State) (j : Nat) (x : Job) : (s.setJob j x).faultq = s.faultq := rfl
@[simp] theorem State.setJob_saved (s : State) (j : Nat) (x : Job) : (s.setJob j x).saved = s.saved := rfl
@[simp] theorem State.setJob_invals (s : State) (j : Nat) (x : Job) : (s.setJob j x).invals = s.invals := rfl
@[simp] theorem State.setJob_migs (s : State) (j : Nat) (x : Job) : (s.setJob j x).migs = s.migs := rfl
@[simp] theorem State.setJob_mig_eq (s : State) (j : Nat) (x : Job) (k' : Nat) : (s.setJob j x).mig k' = s.mig k' := rfl
@[simp] theorem State.setJob_bounceq (s : State) (j : Nat) (x : Job) : (s.setJob j x).bounceq = s.bounceq := rfl
@[simp] theorem State.setJob_toBounce (s : State) (j : Nat) (x : Job) : (s.setJob j x).toBounce = s.toBounce := rfl
@[simp] theorem State.setJob_layouts (s : State) (j : Nat) (x : Job) : (s.setJob j x).layouts = s.layouts := rfl
@[simp] theorem State.setJob_exchange (s : State) (j : Nat) (x : Job) : (s.setJob j x).exchange = s.exchange := rfl
@[simp] theorem State.setJob_watches (s : State) (j : Nat) (x : Job) : (s.setJob j x).watches = s.watches := rfl
@[simp] theorem State.setJob_triggers (s : State) (j : Nat) (x : Job) : (s.setJob j x).triggers = s.triggers := rfl
@[simp] theorem State.setJob_coded (s : State) (j : Nat) (x : Job) : (s.setJob j x).coded = s.coded := rfl
@[simp] theorem State.setJob_codedSlot_eq (s : State) (j : Nat) (x : Job) (k' : Nat) : (s.setJob j x).codedSlot k' = s.codedSlot k' := rfl
@[simp] theorem State.setJob_posts (s : State) (j : Nat) (x : Job) : (s.setJob j x).posts = s.posts := rfl
@[simp] theorem State.setJob_decodeq (s : State) (j : Nat) (x : Job) : (s.setJob j x).decodeq = s.decodeq := rfl
@[simp] theorem State.setJob_decoders (s : State) (j : Nat) (x : Job) : (s.setJob j x).decoders = s.decoders := rfl
@[simp] theorem State.setJob_teStats (s : State) (j : Nat) (x : Job) : (s.setJob j x).teStats = s.teStats := rfl
@[simp] theorem State.setJob_host (s : State) (j : Nat) (x : Job) : (s.setJob j x).host = s.host := rfl
@[simp] theorem State.setJob_fars (s : State) (j : Nat) (x : Job) : (s.setJob j x).fars = s.fars := rfl
@[simp] theorem State.setJob_routes (s : State) (j : Nat) (x : Job) : (s.setJob j x).routes = s.routes := rfl
@[simp] theorem State.setJob_seams (s : State) (j : Nat) (x : Job) : (s.setJob j x).seams = s.seams := rfl
@[simp] theorem State.setJob_seam_eq (s : State) (j : Nat) (x : Job) (k' : Nat) : (s.setJob j x).seam k' = s.seam k' := rfl
@[simp] theorem State.setJob_chans (s : State) (j : Nat) (x : Job) : (s.setJob j x).chans = s.chans := rfl
@[simp] theorem State.setJob_seqNums (s : State) (j : Nat) (x : Job) : (s.setJob j x).seqNums = s.seqNums := rfl
@[simp] theorem State.setJob_counts (s : State) (j : Nat) (x : Job) : (s.setJob j x).counts = s.counts := rfl
@[simp] theorem State.setJob_mgc (s : State) (j : Nat) (x : Job) : (s.setJob j x).mgc = s.mgc := rfl
@[simp] theorem State.setJob_served (s : State) (j : Nat) (x : Job) : (s.setJob j x).served = s.served := rfl
@[simp] theorem State.setJob_tmrUpset (s : State) (j : Nat) (x : Job) : (s.setJob j x).tmrUpset = s.tmrUpset := rfl

@[simp] theorem State.wg_now (s : State) (n : BitVec 5) (v : DWord) : (s.wg n v).now = s.now := rfl
@[simp] theorem State.wg_cur (s : State) (n : BitVec 5) (v : DWord) : (s.wg n v).cur = s.cur := rfl
@[simp] theorem State.wg_moves (s : State) (n : BitVec 5) (v : DWord) : (s.wg n v).moves = s.moves := rfl
@[simp] theorem State.wg_sched (s : State) (n : BitVec 5) (v : DWord) : (s.wg n v).sched = s.sched := rfl
@[simp] theorem State.wg_fresh (s : State) (n : BitVec 5) (v : DWord) : (s.wg n v).fresh = s.fresh := rfl
@[simp] theorem State.wg_cmdSeq (s : State) (n : BitVec 5) (v : DWord) : (s.wg n v).cmdSeq = s.cmdSeq := rfl
@[simp] theorem State.wg_cores (s : State) (n : BitVec 5) (v : DWord) : (s.wg n v).cores = s.cores := rfl
@[simp] theorem State.wg_core_eq (s : State) (n : BitVec 5) (v : DWord) (k' : Nat) : (s.wg n v).core k' = s.core k' := rfl
@[simp] theorem State.wg_imem (s : State) (n : BitVec 5) (v : DWord) : (s.wg n v).imem = s.imem := rfl
@[simp] theorem State.wg_imlim (s : State) (n : BitVec 5) (v : DWord) : (s.wg n v).imlim = s.imlim := rfl
@[simp] theorem State.wg_mem (s : State) (n : BitVec 5) (v : DWord) : (s.wg n v).mem = s.mem := rfl
@[simp] theorem State.wg_veneer (s : State) (n : BitVec 5) (v : DWord) : (s.wg n v).veneer = s.veneer := rfl
@[simp] theorem State.wg_ecc (s : State) (n : BitVec 5) (v : DWord) : (s.wg n v).ecc = s.ecc := rfl
@[simp] theorem State.wg_busBad (s : State) (n : BitVec 5) (v : DWord) : (s.wg n v).busBad = s.busBad := rfl
@[simp] theorem State.wg_pending (s : State) (n : BitVec 5) (v : DWord) : (s.wg n v).pending = s.pending := rfl
@[simp] theorem State.wg_hist (s : State) (n : BitVec 5) (v : DWord) : (s.wg n v).hist = s.hist := rfl
@[simp] theorem State.wg_hashed (s : State) (n : BitVec 5) (v : DWord) : (s.wg n v).hashed = s.hashed := rfl
@[simp] theorem State.wg_rowSeq (s : State) (n : BitVec 5) (v : DWord) : (s.wg n v).rowSeq = s.rowSeq := rfl
@[simp] theorem State.wg_views (s : State) (n : BitVec 5) (v : DWord) : (s.wg n v).views = s.views := rfl
@[simp] theorem State.wg_works (s : State) (n : BitVec 5) (v : DWord) : (s.wg n v).works = s.works := rfl
@[simp] theorem State.wg_fences (s : State) (n : BitVec 5) (v : DWord) : (s.wg n v).fences = s.fences := rfl
@[simp] theorem State.wg_latClocks (s : State) (n : BitVec 5) (v : DWord) : (s.wg n v).latClocks = s.latClocks := rfl
@[simp] theorem State.wg_walkFloors (s : State) (n : BitVec 5) (v : DWord) : (s.wg n v).walkFloors = s.walkFloors := rfl
@[simp] theorem State.wg_deviceWalks (s : State) (n : BitVec 5) (v : DWord) : (s.wg n v).deviceWalks = s.deviceWalks := rfl
@[simp] theorem State.wg_lcs (s : State) (n : BitVec 5) (v : DWord) : (s.wg n v).lcs = s.lcs := rfl
@[simp] theorem State.wg_lc_eq (s : State) (n : BitVec 5) (v : DWord) (k' : Nat) : (s.wg n v).lc k' = s.lc k' := rfl
@[simp] theorem State.wg_cards (s : State) (n : BitVec 5) (v : DWord) : (s.wg n v).cards = s.cards := rfl
@[simp] theorem State.wg_card_eq (s : State) (n : BitVec 5) (v : DWord) (k' : Nat) : (s.wg n v).card k' = s.card k' := rfl
@[simp] theorem State.wg_jobs (s : State) (n : BitVec 5) (v : DWord) : (s.wg n v).jobs = s.jobs := rfl
@[simp] theorem State.wg_job_eq (s : State) (n : BitVec 5) (v : DWord) (k' : Nat) : (s.wg n v).job? k' = s.job? k' := rfl
@[simp] theorem State.wg_nextJob (s : State) (n : BitVec 5) (v : DWord) : (s.wg n v).nextJob = s.nextJob := rfl
@[simp] theorem State.wg_dies (s : State) (n : BitVec 5) (v : DWord) : (s.wg n v).dies = s.dies := rfl
@[simp] theorem State.wg_die_eq (s : State) (n : BitVec 5) (v : DWord) (k' : Nat) : (s.wg n v).die k' = s.die k' := rfl
@[simp] theorem State.wg_xmRows (s : State) (n : BitVec 5) (v : DWord) : (s.wg n v).xmRows = s.xmRows := rfl
@[simp] theorem State.wg_ports (s : State) (n : BitVec 5) (v : DWord) : (s.wg n v).ports = s.ports := rfl
@[simp] theorem State.wg_faultq (s : State) (n : BitVec 5) (v : DWord) : (s.wg n v).faultq = s.faultq := rfl
@[simp] theorem State.wg_saved (s : State) (n : BitVec 5) (v : DWord) : (s.wg n v).saved = s.saved := rfl
@[simp] theorem State.wg_invals (s : State) (n : BitVec 5) (v : DWord) : (s.wg n v).invals = s.invals := rfl
@[simp] theorem State.wg_migs (s : State) (n : BitVec 5) (v : DWord) : (s.wg n v).migs = s.migs := rfl
@[simp] theorem State.wg_mig_eq (s : State) (n : BitVec 5) (v : DWord) (k' : Nat) : (s.wg n v).mig k' = s.mig k' := rfl
@[simp] theorem State.wg_bounceq (s : State) (n : BitVec 5) (v : DWord) : (s.wg n v).bounceq = s.bounceq := rfl
@[simp] theorem State.wg_toBounce (s : State) (n : BitVec 5) (v : DWord) : (s.wg n v).toBounce = s.toBounce := rfl
@[simp] theorem State.wg_layouts (s : State) (n : BitVec 5) (v : DWord) : (s.wg n v).layouts = s.layouts := rfl
@[simp] theorem State.wg_exchange (s : State) (n : BitVec 5) (v : DWord) : (s.wg n v).exchange = s.exchange := rfl
@[simp] theorem State.wg_watches (s : State) (n : BitVec 5) (v : DWord) : (s.wg n v).watches = s.watches := rfl
@[simp] theorem State.wg_triggers (s : State) (n : BitVec 5) (v : DWord) : (s.wg n v).triggers = s.triggers := rfl
@[simp] theorem State.wg_coded (s : State) (n : BitVec 5) (v : DWord) : (s.wg n v).coded = s.coded := rfl
@[simp] theorem State.wg_codedSlot_eq (s : State) (n : BitVec 5) (v : DWord) (k' : Nat) : (s.wg n v).codedSlot k' = s.codedSlot k' := rfl
@[simp] theorem State.wg_posts (s : State) (n : BitVec 5) (v : DWord) : (s.wg n v).posts = s.posts := rfl
@[simp] theorem State.wg_decodeq (s : State) (n : BitVec 5) (v : DWord) : (s.wg n v).decodeq = s.decodeq := rfl
@[simp] theorem State.wg_decoders (s : State) (n : BitVec 5) (v : DWord) : (s.wg n v).decoders = s.decoders := rfl
@[simp] theorem State.wg_teStats (s : State) (n : BitVec 5) (v : DWord) : (s.wg n v).teStats = s.teStats := rfl
@[simp] theorem State.wg_host (s : State) (n : BitVec 5) (v : DWord) : (s.wg n v).host = s.host := rfl
@[simp] theorem State.wg_fars (s : State) (n : BitVec 5) (v : DWord) : (s.wg n v).fars = s.fars := rfl
@[simp] theorem State.wg_routes (s : State) (n : BitVec 5) (v : DWord) : (s.wg n v).routes = s.routes := rfl
@[simp] theorem State.wg_seams (s : State) (n : BitVec 5) (v : DWord) : (s.wg n v).seams = s.seams := rfl
@[simp] theorem State.wg_seam_eq (s : State) (n : BitVec 5) (v : DWord) (k' : Nat) : (s.wg n v).seam k' = s.seam k' := rfl
@[simp] theorem State.wg_chans (s : State) (n : BitVec 5) (v : DWord) : (s.wg n v).chans = s.chans := rfl
@[simp] theorem State.wg_seqNums (s : State) (n : BitVec 5) (v : DWord) : (s.wg n v).seqNums = s.seqNums := rfl
@[simp] theorem State.wg_counts (s : State) (n : BitVec 5) (v : DWord) : (s.wg n v).counts = s.counts := rfl
@[simp] theorem State.wg_mgc (s : State) (n : BitVec 5) (v : DWord) : (s.wg n v).mgc = s.mgc := rfl
@[simp] theorem State.wg_served (s : State) (n : BitVec 5) (v : DWord) : (s.wg n v).served = s.served := rfl
@[simp] theorem State.wg_tmrUpset (s : State) (n : BitVec 5) (v : DWord) : (s.wg n v).tmrUpset = s.tmrUpset := rfl

@[simp] theorem State.retire_now (s : State) : (s.retire).now = s.now := rfl
@[simp] theorem State.retire_cur (s : State) : (s.retire).cur = s.cur := rfl
@[simp] theorem State.retire_moves (s : State) : (s.retire).moves = s.moves := rfl
@[simp] theorem State.retire_sched (s : State) : (s.retire).sched = s.sched := rfl
@[simp] theorem State.retire_fresh (s : State) : (s.retire).fresh = s.fresh := rfl
@[simp] theorem State.retire_cmdSeq (s : State) : (s.retire).cmdSeq = s.cmdSeq := rfl
@[simp] theorem State.retire_cores (s : State) : (s.retire).cores = s.cores := rfl
@[simp] theorem State.retire_core_eq (s : State) (k' : Nat) : (s.retire).core k' = s.core k' := rfl
@[simp] theorem State.retire_imem (s : State) : (s.retire).imem = s.imem := rfl
@[simp] theorem State.retire_imlim (s : State) : (s.retire).imlim = s.imlim := rfl
@[simp] theorem State.retire_mem (s : State) : (s.retire).mem = s.mem := rfl
@[simp] theorem State.retire_veneer (s : State) : (s.retire).veneer = s.veneer := rfl
@[simp] theorem State.retire_ecc (s : State) : (s.retire).ecc = s.ecc := rfl
@[simp] theorem State.retire_busBad (s : State) : (s.retire).busBad = s.busBad := rfl
@[simp] theorem State.retire_pending (s : State) : (s.retire).pending = s.pending := rfl
@[simp] theorem State.retire_hist (s : State) : (s.retire).hist = s.hist := rfl
@[simp] theorem State.retire_hashed (s : State) : (s.retire).hashed = s.hashed := rfl
@[simp] theorem State.retire_rowSeq (s : State) : (s.retire).rowSeq = s.rowSeq := rfl
@[simp] theorem State.retire_views (s : State) : (s.retire).views = s.views := rfl
@[simp] theorem State.retire_works (s : State) : (s.retire).works = s.works := rfl
@[simp] theorem State.retire_fences (s : State) : (s.retire).fences = s.fences := rfl
@[simp] theorem State.retire_latClocks (s : State) : (s.retire).latClocks = s.latClocks := rfl
@[simp] theorem State.retire_walkFloors (s : State) : (s.retire).walkFloors = s.walkFloors := rfl
@[simp] theorem State.retire_deviceWalks (s : State) : (s.retire).deviceWalks = s.deviceWalks := rfl
@[simp] theorem State.retire_lcs (s : State) : (s.retire).lcs = s.lcs := rfl
@[simp] theorem State.retire_lc_eq (s : State) (k' : Nat) : (s.retire).lc k' = s.lc k' := rfl
@[simp] theorem State.retire_cards (s : State) : (s.retire).cards = s.cards := rfl
@[simp] theorem State.retire_card_eq (s : State) (k' : Nat) : (s.retire).card k' = s.card k' := rfl
@[simp] theorem State.retire_jobs (s : State) : (s.retire).jobs = s.jobs := rfl
@[simp] theorem State.retire_job_eq (s : State) (k' : Nat) : (s.retire).job? k' = s.job? k' := rfl
@[simp] theorem State.retire_nextJob (s : State) : (s.retire).nextJob = s.nextJob := rfl
@[simp] theorem State.retire_dies (s : State) : (s.retire).dies = s.dies := rfl
@[simp] theorem State.retire_die_eq (s : State) (k' : Nat) : (s.retire).die k' = s.die k' := rfl
@[simp] theorem State.retire_xmRows (s : State) : (s.retire).xmRows = s.xmRows := rfl
@[simp] theorem State.retire_ports (s : State) : (s.retire).ports = s.ports := rfl
@[simp] theorem State.retire_faultq (s : State) : (s.retire).faultq = s.faultq := rfl
@[simp] theorem State.retire_saved (s : State) : (s.retire).saved = s.saved := rfl
@[simp] theorem State.retire_invals (s : State) : (s.retire).invals = s.invals := rfl
@[simp] theorem State.retire_migs (s : State) : (s.retire).migs = s.migs := rfl
@[simp] theorem State.retire_mig_eq (s : State) (k' : Nat) : (s.retire).mig k' = s.mig k' := rfl
@[simp] theorem State.retire_bounceq (s : State) : (s.retire).bounceq = s.bounceq := rfl
@[simp] theorem State.retire_toBounce (s : State) : (s.retire).toBounce = s.toBounce := rfl
@[simp] theorem State.retire_layouts (s : State) : (s.retire).layouts = s.layouts := rfl
@[simp] theorem State.retire_exchange (s : State) : (s.retire).exchange = s.exchange := rfl
@[simp] theorem State.retire_watches (s : State) : (s.retire).watches = s.watches := rfl
@[simp] theorem State.retire_triggers (s : State) : (s.retire).triggers = s.triggers := rfl
@[simp] theorem State.retire_coded (s : State) : (s.retire).coded = s.coded := rfl
@[simp] theorem State.retire_codedSlot_eq (s : State) (k' : Nat) : (s.retire).codedSlot k' = s.codedSlot k' := rfl
@[simp] theorem State.retire_posts (s : State) : (s.retire).posts = s.posts := rfl
@[simp] theorem State.retire_decodeq (s : State) : (s.retire).decodeq = s.decodeq := rfl
@[simp] theorem State.retire_decoders (s : State) : (s.retire).decoders = s.decoders := rfl
@[simp] theorem State.retire_teStats (s : State) : (s.retire).teStats = s.teStats := rfl
@[simp] theorem State.retire_host (s : State) : (s.retire).host = s.host := rfl
@[simp] theorem State.retire_fars (s : State) : (s.retire).fars = s.fars := rfl
@[simp] theorem State.retire_routes (s : State) : (s.retire).routes = s.routes := rfl
@[simp] theorem State.retire_seams (s : State) : (s.retire).seams = s.seams := rfl
@[simp] theorem State.retire_seam_eq (s : State) (k' : Nat) : (s.retire).seam k' = s.seam k' := rfl
@[simp] theorem State.retire_chans (s : State) : (s.retire).chans = s.chans := rfl
@[simp] theorem State.retire_seqNums (s : State) : (s.retire).seqNums = s.seqNums := rfl
@[simp] theorem State.retire_counts (s : State) : (s.retire).counts = s.counts := rfl
@[simp] theorem State.retire_mgc (s : State) : (s.retire).mgc = s.mgc := rfl
@[simp] theorem State.retire_served (s : State) : (s.retire).served = s.served := rfl
@[simp] theorem State.retire_tmrUpset (s : State) : (s.retire).tmrUpset = s.tmrUpset := rfl

@[simp] theorem State.jump_now (s : State) (t : DWord) : (s.jump t).now = s.now := rfl
@[simp] theorem State.jump_cur (s : State) (t : DWord) : (s.jump t).cur = s.cur := rfl
@[simp] theorem State.jump_moves (s : State) (t : DWord) : (s.jump t).moves = s.moves := rfl
@[simp] theorem State.jump_sched (s : State) (t : DWord) : (s.jump t).sched = s.sched := rfl
@[simp] theorem State.jump_fresh (s : State) (t : DWord) : (s.jump t).fresh = s.fresh := rfl
@[simp] theorem State.jump_cmdSeq (s : State) (t : DWord) : (s.jump t).cmdSeq = s.cmdSeq := rfl
@[simp] theorem State.jump_cores (s : State) (t : DWord) : (s.jump t).cores = s.cores := rfl
@[simp] theorem State.jump_core_eq (s : State) (t : DWord) (k' : Nat) : (s.jump t).core k' = s.core k' := rfl
@[simp] theorem State.jump_imem (s : State) (t : DWord) : (s.jump t).imem = s.imem := rfl
@[simp] theorem State.jump_imlim (s : State) (t : DWord) : (s.jump t).imlim = s.imlim := rfl
@[simp] theorem State.jump_mem (s : State) (t : DWord) : (s.jump t).mem = s.mem := rfl
@[simp] theorem State.jump_veneer (s : State) (t : DWord) : (s.jump t).veneer = s.veneer := rfl
@[simp] theorem State.jump_ecc (s : State) (t : DWord) : (s.jump t).ecc = s.ecc := rfl
@[simp] theorem State.jump_busBad (s : State) (t : DWord) : (s.jump t).busBad = s.busBad := rfl
@[simp] theorem State.jump_pending (s : State) (t : DWord) : (s.jump t).pending = s.pending := rfl
@[simp] theorem State.jump_hist (s : State) (t : DWord) : (s.jump t).hist = s.hist := rfl
@[simp] theorem State.jump_hashed (s : State) (t : DWord) : (s.jump t).hashed = s.hashed := rfl
@[simp] theorem State.jump_rowSeq (s : State) (t : DWord) : (s.jump t).rowSeq = s.rowSeq := rfl
@[simp] theorem State.jump_views (s : State) (t : DWord) : (s.jump t).views = s.views := rfl
@[simp] theorem State.jump_works (s : State) (t : DWord) : (s.jump t).works = s.works := rfl
@[simp] theorem State.jump_fences (s : State) (t : DWord) : (s.jump t).fences = s.fences := rfl
@[simp] theorem State.jump_latClocks (s : State) (t : DWord) : (s.jump t).latClocks = s.latClocks := rfl
@[simp] theorem State.jump_walkFloors (s : State) (t : DWord) : (s.jump t).walkFloors = s.walkFloors := rfl
@[simp] theorem State.jump_deviceWalks (s : State) (t : DWord) : (s.jump t).deviceWalks = s.deviceWalks := rfl
@[simp] theorem State.jump_lcs (s : State) (t : DWord) : (s.jump t).lcs = s.lcs := rfl
@[simp] theorem State.jump_lc_eq (s : State) (t : DWord) (k' : Nat) : (s.jump t).lc k' = s.lc k' := rfl
@[simp] theorem State.jump_cards (s : State) (t : DWord) : (s.jump t).cards = s.cards := rfl
@[simp] theorem State.jump_card_eq (s : State) (t : DWord) (k' : Nat) : (s.jump t).card k' = s.card k' := rfl
@[simp] theorem State.jump_jobs (s : State) (t : DWord) : (s.jump t).jobs = s.jobs := rfl
@[simp] theorem State.jump_job_eq (s : State) (t : DWord) (k' : Nat) : (s.jump t).job? k' = s.job? k' := rfl
@[simp] theorem State.jump_nextJob (s : State) (t : DWord) : (s.jump t).nextJob = s.nextJob := rfl
@[simp] theorem State.jump_dies (s : State) (t : DWord) : (s.jump t).dies = s.dies := rfl
@[simp] theorem State.jump_die_eq (s : State) (t : DWord) (k' : Nat) : (s.jump t).die k' = s.die k' := rfl
@[simp] theorem State.jump_xmRows (s : State) (t : DWord) : (s.jump t).xmRows = s.xmRows := rfl
@[simp] theorem State.jump_ports (s : State) (t : DWord) : (s.jump t).ports = s.ports := rfl
@[simp] theorem State.jump_faultq (s : State) (t : DWord) : (s.jump t).faultq = s.faultq := rfl
@[simp] theorem State.jump_saved (s : State) (t : DWord) : (s.jump t).saved = s.saved := rfl
@[simp] theorem State.jump_invals (s : State) (t : DWord) : (s.jump t).invals = s.invals := rfl
@[simp] theorem State.jump_migs (s : State) (t : DWord) : (s.jump t).migs = s.migs := rfl
@[simp] theorem State.jump_mig_eq (s : State) (t : DWord) (k' : Nat) : (s.jump t).mig k' = s.mig k' := rfl
@[simp] theorem State.jump_bounceq (s : State) (t : DWord) : (s.jump t).bounceq = s.bounceq := rfl
@[simp] theorem State.jump_toBounce (s : State) (t : DWord) : (s.jump t).toBounce = s.toBounce := rfl
@[simp] theorem State.jump_layouts (s : State) (t : DWord) : (s.jump t).layouts = s.layouts := rfl
@[simp] theorem State.jump_exchange (s : State) (t : DWord) : (s.jump t).exchange = s.exchange := rfl
@[simp] theorem State.jump_watches (s : State) (t : DWord) : (s.jump t).watches = s.watches := rfl
@[simp] theorem State.jump_triggers (s : State) (t : DWord) : (s.jump t).triggers = s.triggers := rfl
@[simp] theorem State.jump_coded (s : State) (t : DWord) : (s.jump t).coded = s.coded := rfl
@[simp] theorem State.jump_codedSlot_eq (s : State) (t : DWord) (k' : Nat) : (s.jump t).codedSlot k' = s.codedSlot k' := rfl
@[simp] theorem State.jump_posts (s : State) (t : DWord) : (s.jump t).posts = s.posts := rfl
@[simp] theorem State.jump_decodeq (s : State) (t : DWord) : (s.jump t).decodeq = s.decodeq := rfl
@[simp] theorem State.jump_decoders (s : State) (t : DWord) : (s.jump t).decoders = s.decoders := rfl
@[simp] theorem State.jump_teStats (s : State) (t : DWord) : (s.jump t).teStats = s.teStats := rfl
@[simp] theorem State.jump_host (s : State) (t : DWord) : (s.jump t).host = s.host := rfl
@[simp] theorem State.jump_fars (s : State) (t : DWord) : (s.jump t).fars = s.fars := rfl
@[simp] theorem State.jump_routes (s : State) (t : DWord) : (s.jump t).routes = s.routes := rfl
@[simp] theorem State.jump_seams (s : State) (t : DWord) : (s.jump t).seams = s.seams := rfl
@[simp] theorem State.jump_seam_eq (s : State) (t : DWord) (k' : Nat) : (s.jump t).seam k' = s.seam k' := rfl
@[simp] theorem State.jump_chans (s : State) (t : DWord) : (s.jump t).chans = s.chans := rfl
@[simp] theorem State.jump_seqNums (s : State) (t : DWord) : (s.jump t).seqNums = s.seqNums := rfl
@[simp] theorem State.jump_counts (s : State) (t : DWord) : (s.jump t).counts = s.counts := rfl
@[simp] theorem State.jump_mgc (s : State) (t : DWord) : (s.jump t).mgc = s.mgc := rfl
@[simp] theorem State.jump_served (s : State) (t : DWord) : (s.jump t).served = s.served := rfl
@[simp] theorem State.jump_tmrUpset (s : State) (t : DWord) : (s.jump t).tmrUpset = s.tmrUpset := rfl

end Sys2Proof.Machine
end

