-- ==== Sys2Proof/Laws/Ops.lean ====
section
/-!
SUPPORT. What the shared operations can do, each said once: registers, the completion of an instruction, the frame of a word of the
shared subset, a wait, reads without wrong codewords, writes performed, and the parts of the state that a cause leaves alone.
-/

namespace Sys2Proof.Machine

/-! ### Registers (R68) -/

@[simp] theorem Stream.rg_zero (x : Stream) : x.rg 0 = 0 := by simp [Stream.rg]

@[simp] theorem Stream.wg_zero (x : Stream) (v : DWord) : x.wg 0 v = x := by simp [Stream.wg]

theorem Stream.rg_wg_self (x : Stream) {n : BitVec 5} (v : DWord) (h : n ≠ 0) : (x.wg n v).rg n = v := by
  unfold Stream.rg Stream.wg
  rw [if_neg h, if_neg h]
  exact Vector.getElem_set_self _

theorem Stream.rg_wg_ne (x : Stream) {n m : BitVec 5} (v : DWord) (h : m ≠ n) : (x.wg n v).rg m = x.rg m := by
  unfold Stream.wg
  by_cases hn : n = 0
  · rw [if_pos hn]
  · have e : n.toNat ≠ m.toNat := fun e => h (BitVec.eq_of_toNat_eq e.symm)
    rw [if_neg hn]
    unfold Stream.rg
    by_cases hm : m = 0
    · rw [if_pos hm, if_pos hm]
    · rw [if_neg hm, if_neg hm]
      exact Vector.getElem_set_ne n.isLt _ e

/-- A write of a general register changes nothing else of the stream. -/
theorem Stream.wg_frame (x : Stream) (n : BitVec 5) (v : DWord) : { x.wg n v with g := x.g } = x := by
  unfold Stream.wg; split <;> rfl

/-! ### The completion of an instruction (R101, R276) -/

/-- The first stream is the second but for the PC, the loops and the wait. -/
def Stream.SameButPlace (x y : Stream) : Prop :=
  ∃ pc lp jl w, x = { y with pc := pc, lp := lp, jl := jl, waiting := w }

theorem Stream.SameButPlace.trans {x y z : Stream} (h : Stream.SameButPlace x y) (k : Stream.SameButPlace y z) :
    Stream.SameButPlace x z := by
  obtain ⟨_, _, _, _, rfl⟩ := h
  obtain ⟨_, _, _, _, rfl⟩ := k
  exact ⟨_, _, _, _, rfl⟩

theorem Stream.endCheck_place (ns : List (Fin 4)) : ∀ x : Stream, Stream.SameButPlace (x.endCheck ns).1 x := by
  induction ns with
  | nil => intro x; exact ⟨_, _, _, _, rfl⟩
  | cons n ns ih =>
    intro x
    unfold Stream.endCheck
    simp only
    split
    · exact ⟨_, _, _, _, rfl⟩
    · exact (ih _).trans ⟨_, _, _, _, rfl⟩

theorem Stream.jobCheck_place (x : Stream) : Stream.SameButPlace x.jobCheck.1 x := by
  unfold Stream.jobCheck
  split
  · exact ⟨_, _, _, _, rfl⟩
  · split
    · split <;> exact ⟨_, _, _, _, rfl⟩
    · exact ⟨_, _, _, _, rfl⟩

/-- A completed instruction leaves the stream as it is, but for the PC, the loops and the wait. -/
theorem Stream.next_place (x : Stream) : Stream.SameButPlace x.next x := by
  have h := Stream.endCheck_place ({ x with waiting := none } : Stream).endingLoops { x with waiting := none }
  unfold Stream.next
  simp only
  split
  · rename_i y t he
    rw [he] at h
    exact Stream.SameButPlace.trans ⟨_, _, _, _, rfl⟩ (h.trans ⟨_, _, _, _, rfl⟩)
  · rename_i y he
    rw [he] at h
    have j := Stream.jobCheck_place y
    split
    · rename_i z t hz
      rw [hz] at j
      exact Stream.SameButPlace.trans ⟨_, _, _, _, rfl⟩ (j.trans (h.trans ⟨_, _, _, _, rfl⟩))
    · rename_i z hz
      rw [hz] at j
      exact Stream.SameButPlace.trans ⟨_, _, _, _, rfl⟩ (j.trans (h.trans ⟨_, _, _, _, rfl⟩))

theorem Stream.rg_of_place {x y : Stream} (h : Stream.SameButPlace x y) (n : BitVec 5) : x.rg n = y.rg n := by
  obtain ⟨_, _, _, _, rfl⟩ := h
  rfl

@[simp] theorem Stream.rg_next (x : Stream) (n : BitVec 5) : x.next.rg n = x.rg n := Stream.rg_of_place x.next_place n

@[simp] theorem State.retire_me (s : State) : s.retire.me = s.me.next := State.me_setMe s _

/-! ### The frame of a word of the shared subset (R121, R122) -/

/-- Where no upset waits for its first vote, a shared word has its plain effect. -/
theorem shared_calm {s : State} (h : s.me.pfx.tmr = true → Tab.find? s.tmrUpset (s.cur, false) = none) (f : State → M State) :
    shared s f = finish s (f s) := by
  unfold shared voted
  split
  · rename_i ht
    have hv : vote s false = (s, true) := by unfold vote; rw [h ht]
    rw [hv]
    simp only
    split
    · rename_i e; rw [e]; rfl
    · rename_i e; rw [e]; rfl
    · rfl
  · rfl

/-- A load without a TMR prefix has its plain effect. -/
theorem sharedLoad_plain {s : State} (h : s.me.pfx.tmr = false) (f : State → M State) : sharedLoad s f = finish s (f s) := by
  unfold sharedLoad voted; rw [h]; rfl

@[simp] theorem finish_ok (s t : State) : finish s (.ok t) = .next t := rfl

@[simp] theorem finish_trap (s : State) (t : Trap) : finish s (.error (.trap t)) = .next (takeTrap s t) := rfl

/-- What a shared word of one register result does. -/
theorem setReg_calm {s : State} (h : s.me.pfx.tmr = true → Tab.find? s.tmrUpset (s.cur, false) = none) (d : BitVec 5) (v : DWord) :
    setReg d v s = .next ((s.wg d v).retire) := by
  unfold setReg; rw [shared_calm h]; rfl

/-- Every outcome of a shared word is a next state. -/
theorem finish_next (s : State) (r : M State) : ∃ t, finish s r = .next t := by
  unfold finish; split <;> exact ⟨_, rfl⟩

theorem shared_next (s : State) (f : State → M State) : ∃ t, shared s f = .next t := finish_next _ _

theorem sharedLoad_next (s : State) (f : State → M State) : ∃ t, sharedLoad s f = .next t := finish_next _ _

/-! ### Reading memory without wrong codewords (R449 to R453) -/

theorem popcount_zero (n : Nat) : popcount n 0 = 0 := by
  induction n with
  | zero => rfl
  | succ n ih => simp [popcount, ih, bit, b2n]

theorem State.badAt_clean {s : State} (h : s.ecc = []) (hb : s.busBad = []) (pa : Nat) : s.badAt pa = false := by
  simp [State.badAt, State.wrong, h, hb, Tab.get, Tab.find?, popcount_zero]

theorem findIdx_none {α : Type} {p : α → Bool} : ∀ {l : List α}, (∀ x ∈ l, p x = false) → findIdx p l = none
  | [], _ => rfl
  | x :: xs, h => by
    have hx : p x = false := h x (by simp)
    have hs : findIdx p xs = none := findIdx_none fun y hy => h y (by simp [hy])
    simp [findIdx, hx, hs]

theorem State.firstBad_clean {s : State} (h : s.ecc = []) (hb : s.busBad = []) (pas : List Nat) : s.firstBad pas = none :=
  findIdx_none fun _ _ => State.badAt_clean h hb _

/-- Without errors a read succeeds, and leaves what it counts in the channels. -/
theorem readBy_clean {α : Type} {s : State} (h : s.ecc = []) (hb : s.busBad = []) (hash : Option Nat) (pas : List Nat) (e : Nat → DWord)
    (f : State → α) : readBy s hash pas e f = .ok (f (s.noteReads s.cur pas hash)) := by
  simp only [readBy, State.firstBad_clean h hb]

/-- Without errors a read gives the bytes. -/
theorem readPas_clean {s : State} (h : s.ecc = []) (hb : s.busBad = []) (hash : Option Nat) (pas : List Nat) (e : Nat → DWord) :
    readPas s hash pas e = .ok (s.noteReads s.cur pas hash, (s.noteReads s.cur pas hash).rdAll pas) := readBy_clean h hb hash pas e _

/-- Where every core is as after reset, no other core is gated, nothing is pending, no channel is shut and nothing is ordered before the
unit's accesses, an access goes ahead. -/
theorem reach_idle {s : State} (hk : ∀ c, s.core c = Core.reset) (hp : s.pending = []) (hs : s.chans = []) (hv : s.views = []) (pas : List Nat) (e : DWord)
    (hash : Option Nat) (ho : ∀ pa ∈ pas, kindOf pa = 2 → pkgOf pa = s.pkg) : reach s pas e hash = .ok () := by
  have hg : s.gatedCore s.cur pas = none := by
    simp only [State.gatedCore, Option.map_eq_none_iff, List.find?_eq_none]
    intro pa hpa
    by_cases h2 : kindOf pa = 2
    · have hpk := ho pa hpa h2
      have hc : s.coreKey pa = scratchCore pa := by simp [State.coreKey, hpk]
      have hl : scratchCore pa < 32 := by unfold scratchCore bits; omega
      simp [State.isGated, hc, hl, hk, Core.reset]
    · simp [h2]
  have ht : s.trackedBefore (s.coreOf s.cur) ((s.stream s.cur).job.getD 0) pas = false := by
    simp [State.trackedBefore, State.trackedBy, State.trackerSpans, hp, hk, Core.reset]
  have hn : s.ordersAfter (s.agentOf s.cur) pas = false := by
    simp [State.ordersAfter, State.view, hv, Tab.get, Tab.find?, View.reset, View.now, Clock.empty]
  have hw : s.mustWait s.cur pas hash = false := by
    unfold State.mustWait
    simp only [State.chanShut, hp, hs, ht, hk, hn]
    cases s.cur with
    | eng e c => cases e <;> simp [Core.reset]
    | _ => simp
  have hf : s.remoteFull s.cur pas = false := by
    simp [State.remoteFull, State.remoteOut, hp, hk, Core.reset, show List.range 4 = [0, 1, 2, 3] from rfl]
  unfold reach
  rw [hg, hw, hf]
  rfl

theorem mapM_ok {α β : Type} {f : α → M β} (h : ∀ x, ∃ y, f x = .ok y) : ∀ l : List α, ∃ ys, l.mapM f = .ok ys
  | [] => ⟨[], rfl⟩
  | x :: xs => by
    obtain ⟨y, hy⟩ := h x
    obtain ⟨ys, hys⟩ := mapM_ok h xs
    exact ⟨y :: ys, by simp [List.mapM_cons, hy, hys, bind, Except.bind, pure, Except.pure]⟩

/-- A place whose page has no layout has every byte. -/
theorem Place.dests_ok {p : Place} (h : ∀ r q, p.page = some (r, q) → q.layout = none) (site core : Nat) (offs : List Nat) :
    ∃ ds, p.dests site core offs = .ok ds := by
  unfold Place.dests
  split
  · rename_i r q hq
    have hl := h r q hq
    exact mapM_ok (fun o => ⟨_, by simp only [Page.byte, hl]; rfl⟩) offs
  · exact ⟨_, rfl⟩

/-- Without errors and gates a place that has its bytes is read. -/
theorem readPlace_idle {s : State} (hk : ∀ c, s.core c = Core.reset) (hp : s.pending = []) (hs : s.chans = []) (hv : s.views = []) (he : s.ecc = [])
    (hb : s.busBad = []) {p : Place} (h : ∀ r q, p.page = some (r, q) → q.layout = none) (core : Nat) (offs : List Nat)
    (ho : ∀ ds, p.dests (siteOf s.cur) core offs = .ok ds → ∀ pa ∈ ds.filterMap Dest.pa?, kindOf pa = 2 → pkgOf pa = s.pkg) :
    ∃ r, readPlace s p core offs = .ok r := by
  obtain ⟨ds, hd⟩ := Place.dests_ok h (siteOf s.cur) core offs
  unfold readPlace
  rw [hd]
  simp only [bind, Except.bind]
  rw [reach_idle hk hp hs hv _ _ _ (ho ds hd)]
  simp only [readPieces, readBy_clean he hb]
  exact ⟨_, rfl⟩

/-! ### Writes performed (R84, R130) -/

@[simp] theorem State.store_mem (s : State) (cells : List (Nat × Byte)) (hash : Option Nat) :
    (s.store cells hash).mem = Mem.setAll s.mem cells := rfl

@[simp] theorem State.poke_mem (s : State) (cells : List (Nat × Byte)) (w : Writer) :
    (s.poke cells w).mem = Mem.setAll s.mem (cells.map fun c => (s.direct c.1, c.2)) := rfl

@[simp] theorem State.perform_mem (s : State) (cells : List (Nat × Byte)) (whole : Bool) (w : Writer) :
    (s.perform cells whole w).mem = Mem.setAll s.mem (cells.map fun c => (s.direct c.1, c.2)) := rfl

theorem State.poke_wf {s : State} (h : Mem.wf s.mem = true) (cells : List (Nat × Byte)) (w : Writer) :
    Mem.wf (s.poke cells w).mem = true := Mem.wf_setAll _ h

theorem State.perform_wf {s : State} (h : Mem.wf s.mem = true) (cells : List (Nat × Byte)) (whole : Bool) (w : Writer) :
    Mem.wf (s.perform cells whole w).mem = true := Mem.wf_setAll _ h

/-- A byte at none of the places written reads as before. -/
theorem State.perform_get {s : State} (h : Mem.wf s.mem = true) (cells : List (Nat × Byte)) (whole : Bool) (w : Writer) {a : Nat}
    (ha : ∀ c ∈ cells, s.direct c.1 ≠ a) : Mem.get (s.perform cells whole w).mem a = Mem.get s.mem a := by
  rw [State.perform_mem]
  refine Mem.get_setAll_of_not_mem h _ ?_
  intro c hc
  obtain ⟨d, hd, rfl⟩ := List.mem_map.mp hc
  exact ha d hd

/-! ### Records and the trap path: the memory keeps its form -/

theorem Mem.wf_foldl {α : Type} (put : Mem → α → Mem) (hp : ∀ m x, Mem.wf m = true → Mem.wf (put m x) = true) :
    ∀ (l : List α) {m : Mem}, Mem.wf m = true → Mem.wf (l.foldl put m) = true
  | [], _, h => h
  | _ :: xs, _, h => Mem.wf_foldl put hp xs (hp _ _ h)

theorem State.putDwords_wf {s : State} (h : Mem.wf s.mem = true) (pa : Nat) (ws : List DWord) :
    Mem.wf (s.putDwords pa ws).mem = true := State.poke_wf h _ _

theorem State.ringWrite_wf {s : State} (h : Mem.wf s.mem = true) (a c : Nat) (bs : List Byte) (n : Nat) :
    Mem.wf (s.ringWrite a c bs n).mem = true := State.poke_wf (State.poke_wf h _ _) _ _

theorem State.record_wf {s : State} (h : Mem.wf s.mem = true) (e : Event) (supp : Nat) : Mem.wf (s.record e supp).mem = true := by
  unfold State.record
  extract_lets sec made m0 r ring n s'
  have put : Mem.wf s'.mem = true := State.ringWrite_wf h _ _ _ _
  clear_value s' sec made
  by_cases hn : 65536 ≤ made
  · rw [if_pos hn]; exact h
  · rw [if_neg hn]; exact put

theorem State.putBlock_wf (parts : List (Nat × List DWord)) : ∀ {s : State}, Mem.wf s.mem = true → ∀ pa,
    Mem.wf (s.putBlock pa parts).mem = true := by
  induction parts with
  | nil => intro s h pa; exact h
  | cons p ps ih => intro s h pa; exact ih (State.putDwords_wf h _ _) pa

end Sys2Proof.Machine
end

