-- ==== Sys2Proof/Laws/Words.lean ====
section
/-!
SUPPORT. Words as numbers: the fields of a word given by its value, and how `classify` reads it (R56, R60 to R65).
-/

namespace Sys2Proof.Laws

/-- The number whose bits are set in the given blocks (low bit, width). -/
def maskOf : List (Nat × Nat) → Nat
  | [] => 0
  | (lo, n) :: bs => maskOf bs ||| ((2 ^ n - 1) <<< lo)

/-- A number is 0 in every one of the blocks. -/
def Clear (x : Nat) : List (Nat × Nat) → Prop
  | [] => True
  | (lo, n) :: bs => x / 2 ^ lo % 2 ^ n = 0 ∧ Clear x bs

theorem land_block (x lo n : Nat) (h : x / 2 ^ lo % 2 ^ n = 0) : x &&& ((2 ^ n - 1) <<< lo) = 0 := by
  apply Nat.eq_of_testBit_eq
  intro i
  simp only [Nat.testBit_and, Nat.testBit_shiftLeft, Nat.zero_testBit, Nat.testBit_two_pow_sub_one]
  by_cases h1 : lo ≤ i
  · by_cases h2 : i - lo < n
    · have h3 : (x / 2 ^ lo % 2 ^ n).testBit (i - lo) = false := by rw [h]; simp
      rw [Nat.testBit_mod_two_pow, Nat.testBit_div_two_pow, show i - lo + lo = i by omega] at h3
      simp [h2] at h3; simp [h3]
    · simp [h2]
  · simp [h1]

theorem land_maskOf (x : Nat) : ∀ bs, Clear x bs → x &&& maskOf bs = 0
  | [], _ => by simp [maskOf]
  | (lo, n) :: bs, h => by
    rw [maskOf, Nat.and_or_distrib_left, land_maskOf x bs h.2, land_block x lo n h.1]; rfl

theorem res0_ofNat (x : Nat) (bs : List (Nat × Nat)) (mask : Word) (hm : mask = BitVec.ofNat 32 (maskOf bs)) (i : Instr)
    (h : Clear x bs) : res0 (BitVec.ofNat 32 x) mask i = .ok i := by
  subst hm
  rw [res0, ← BitVec.ofNat_and, land_maskOf x bs h]; rfl

theorem toNat_fld_ofNat (x lo n : Nat) (hx : x < 2 ^ 32) : (fld (BitVec.ofNat 32 x) lo n).toNat = x / 2 ^ lo % 2 ^ n := by
  rw [fld, BitVec.extractLsb'_toNat, BitVec.toNat_ofNat, Nat.mod_eq_of_lt hx, Nat.shiftRight_eq_div_pow]

theorem fld_ofNat (x lo n : Nat) (f : BitVec n) (hx : x < 2 ^ 32) (h : x / 2 ^ lo % 2 ^ n = f.toNat) :
    fld (BitVec.ofNat 32 x) lo n = f :=
  BitVec.eq_of_toNat_eq ((toNat_fld_ofNat x lo n hx).trans h)

theorem ofNat_ne_zero {x : Nat} (hx : x < 2 ^ 32) (h0 : 0 < x) : BitVec.ofNat 32 x ≠ 0 := by
  intro h
  have := congrArg BitVec.toNat h
  rw [BitVec.toNat_ofNat, Nat.mod_eq_of_lt hx] at this
  simp at this; omega

theorem top_ofNat (x : Nat) : (BitVec.ofNat 32 x).getLsbD 31 = decide (x / 2 ^ 31 % 2 = 1) := by
  rw [BitVec.getLsbD_ofNat, Nat.testBit_eq_decide_div_mod_eq]; simp

/-- How a word of the shared subset is read, from its opcode, its res0 blocks and its fields. -/
theorem shared_word {h : Half} {x : Nat} {mask : Word} {i : Instr} {j : Word → Instr} (op : Nat) (bs : List (Nat × Nat)) (hx : x < 2 ^ 32)
    (ho : x / 2 ^ 24 = op) (h0 : 0 < op) (h1 : op < 127)
    (hop : ∀ w, opShared w op = res0 w mask (j w))
    (hm : mask = BitVec.ofNat 32 (maskOf bs)) (hb : Clear x bs) (hj : j (BitVec.ofNat 32 x) = i) (hw : wellFormed i = true) :
    classify h (BitVec.ofNat 32 x) = .instr i := by
  subst hj
  have hf : (fld (BitVec.ofNat 32 x) 24 8).toNat = op := by rw [toNat_fld_ofNat x 24 8 hx]; omega
  rw [classify, if_neg (ofNat_ne_zero hx (by omega)), if_neg (by rw [hf]; omega), decode, top_ofNat,
    decide_eq_false (by omega), if_neg Bool.false_ne_true, decodeShared, hf, hop, res0_ofNat x bs mask hm _ hb]
  simp [hw]

/-- How a private word is read in its half. -/
theorem private_word {h k : Half} {x : Nat} {mask : Word} {i : Instr} {j : Word → Instr} (dec : Word → Nat → Except DecodeReject Instr)
    (op : Nat) (bs : List (Nat × Nat)) (hx : x < 2 ^ 32) (ho : x / 2 ^ 25 = 64 + op)
    (hd : ∀ w, decodePrivate k w = dec w (fld w 25 6).toNat)
    (hop : ∀ w, dec w op = res0 w mask (j w))
    (hm : mask = BitVec.ofNat 32 (maskOf bs)) (hb : Clear x bs) (hj : j (BitVec.ofNat 32 x) = i) (hw : wellFormed i = true)
    (hh : (BitVec.ofNat 32 x).getLsbD 31 = true → h = k) :
    classify h (BitVec.ofNat 32 x) = .instr i := by
  subst hj
  have h31 : (BitVec.ofNat 32 x).getLsbD 31 = true := by rw [top_ofNat]; exact decide_eq_true (by omega)
  obtain rfl := hh h31
  have hf : (fld (BitVec.ofNat 32 x) 25 6).toNat = op := by rw [toNat_fld_ofNat x 25 6 hx]; omega
  have h7 : (fld (BitVec.ofNat 32 x) 24 8).toNat ≠ 0x7F := by rw [toNat_fld_ofNat x 24 8 hx]; omega
  rw [classify, if_neg (ofNat_ne_zero hx (by omega)), if_neg h7, decode, h31, if_pos rfl, hd, hf, hop,
    res0_ofNat x bs mask hm _ hb]
  simp [hw]

end Sys2Proof.Laws
end

