-- ==== Sys2Proof/Laws/PerInstr.lean ====
section
/-!
SUPPORT. The family Encoding: the word that the encoder writes for a well-formed instruction is classified as that
instruction, in every half for a word of the shared subset and in its own half for a private word (R56 to R65).
One lemma per constructor; a row without a word has none to decode.
-/

namespace Sys2Proof.Laws.Encoding

set_option Elab.async false

/-- The encoder's word for a well-formed instruction is read as that instruction in the half it belongs to. -/
def Statement (i : Instr) : Prop :=
  ∀ h w, encode i = some w → wellFormed i = true → (w.getLsbD 31 = true → h = halfOf i) → classify h w = .instr i

/-- The family for an instruction whose word is given by its number. -/
theorem Statement.of {i : Instr} {base : Nat} {fs : List Nat} (he : encode i = enc base fs)
    (h : ∀ x k, x = base + fs.sum → wellFormed i = true → ((BitVec.ofNat 32 x).getLsbD 31 = true → k = halfOf i) →
      classify k (BitVec.ofNat 32 x) = .instr i) : Statement i := by
  intro k v hv
  obtain rfl : BitVec.ofNat 32 (base + fs.sum) = v := Option.some.inj (he.symm.trans hv)
  exact h _ k rfl

/-- A field's contribution. -/
theorem sh_eq {n : Nat} (x : BitVec n) (lo : Nat) : sh x lo = x.toNat * 2 ^ lo := rfl

theorem add (d a b) : Statement (.add d a b) := by
  refine Statement.of rfl ?_
  intro num hfor hx wfd _
  have := d.isLt; have := a.isLt; have := b.isLt
  rw [List.sum_cons, List.sum_cons, List.sum_cons, List.sum_nil] at hx
  have := sh_eq d 19; have := sh_eq a 14; have := sh_eq b 9
  have lt : num < 2 ^ 32 := by omega
  exact shared_word 0x01 [(0, 9)] lt (by omega) (by decide) (by decide) (fun _ => rfl) (by decide) ⟨by omega, trivial⟩
    (by rw [fld_ofNat _ 19 5 d lt (by omega), fld_ofNat _ 14 5 a lt (by omega), fld_ofNat _ 9 5 b lt (by omega)]) wfd

theorem sub (d a b) : Statement (.sub d a b) := by
  refine Statement.of rfl ?_
  intro num hfor hx wfd _
  have := d.isLt; have := a.isLt; have := b.isLt
  rw [List.sum_cons, List.sum_cons, List.sum_cons, List.sum_nil] at hx
  have := sh_eq d 19; have := sh_eq a 14; have := sh_eq b 9
  have lt : num < 2 ^ 32 := by omega
  exact shared_word 0x02 [(0, 9)] lt (by omega) (by decide) (by decide) (fun _ => rfl) (by decide) ⟨by omega, trivial⟩
    (by rw [fld_ofNat _ 19 5 d lt (by omega), fld_ofNat _ 14 5 a lt (by omega), fld_ofNat _ 9 5 b lt (by omega)]) wfd

theorem mul (d a b) : Statement (.mul d a b) := by
  refine Statement.of rfl ?_
  intro num hfor hx wfd _
  have := d.isLt; have := a.isLt; have := b.isLt
  rw [List.sum_cons, List.sum_cons, List.sum_cons, List.sum_nil] at hx
  have := sh_eq d 19; have := sh_eq a 14; have := sh_eq b 9
  have lt : num < 2 ^ 32 := by omega
  exact shared_word 0x03 [(0, 9)] lt (by omega) (by decide) (by decide) (fun _ => rfl) (by decide) ⟨by omega, trivial⟩
    (by rw [fld_ofNat _ 19 5 d lt (by omega), fld_ofNat _ 14 5 a lt (by omega), fld_ofNat _ 9 5 b lt (by omega)]) wfd

theorem mulh (d a b) : Statement (.mulh d a b) := by
  refine Statement.of rfl ?_
  intro num hfor hx wfd _
  have := d.isLt; have := a.isLt; have := b.isLt
  rw [List.sum_cons, List.sum_cons, List.sum_cons, List.sum_nil] at hx
  have := sh_eq d 19; have := sh_eq a 14; have := sh_eq b 9
  have lt : num < 2 ^ 32 := by omega
  exact shared_word 0x04 [(0, 9)] lt (by omega) (by decide) (by decide) (fun _ => rfl) (by decide) ⟨by omega, trivial⟩
    (by rw [fld_ofNat _ 19 5 d lt (by omega), fld_ofNat _ 14 5 a lt (by omega), fld_ofNat _ 9 5 b lt (by omega)]) wfd

theorem mulhu (d a b) : Statement (.mulhu d a b) := by
  refine Statement.of rfl ?_
  intro num hfor hx wfd _
  have := d.isLt; have := a.isLt; have := b.isLt
  rw [List.sum_cons, List.sum_cons, List.sum_cons, List.sum_nil] at hx
  have := sh_eq d 19; have := sh_eq a 14; have := sh_eq b 9
  have lt : num < 2 ^ 32 := by omega
  exact shared_word 0x05 [(0, 9)] lt (by omega) (by decide) (by decide) (fun _ => rfl) (by decide) ⟨by omega, trivial⟩
    (by rw [fld_ofNat _ 19 5 d lt (by omega), fld_ofNat _ 14 5 a lt (by omega), fld_ofNat _ 9 5 b lt (by omega)]) wfd

theorem div (d a b) : Statement (.div d a b) := by
  refine Statement.of rfl ?_
  intro num hfor hx wfd _
  have := d.isLt; have := a.isLt; have := b.isLt
  rw [List.sum_cons, List.sum_cons, List.sum_cons, List.sum_nil] at hx
  have := sh_eq d 19; have := sh_eq a 14; have := sh_eq b 9
  have lt : num < 2 ^ 32 := by omega
  exact shared_word 0x06 [(0, 9)] lt (by omega) (by decide) (by decide) (fun _ => rfl) (by decide) ⟨by omega, trivial⟩
    (by rw [fld_ofNat _ 19 5 d lt (by omega), fld_ofNat _ 14 5 a lt (by omega), fld_ofNat _ 9 5 b lt (by omega)]) wfd

theorem divu (d a b) : Statement (.divu d a b) := by
  refine Statement.of rfl ?_
  intro num hfor hx wfd _
  have := d.isLt; have := a.isLt; have := b.isLt
  rw [List.sum_cons, List.sum_cons, List.sum_cons, List.sum_nil] at hx
  have := sh_eq d 19; have := sh_eq a 14; have := sh_eq b 9
  have lt : num < 2 ^ 32 := by omega
  exact shared_word 0x07 [(0, 9)] lt (by omega) (by decide) (by decide) (fun _ => rfl) (by decide) ⟨by omega, trivial⟩
    (by rw [fld_ofNat _ 19 5 d lt (by omega), fld_ofNat _ 14 5 a lt (by omega), fld_ofNat _ 9 5 b lt (by omega)]) wfd

theorem rem (d a b) : Statement (.rem d a b) := by
  refine Statement.of rfl ?_
  intro num hfor hx wfd _
  have := d.isLt; have := a.isLt; have := b.isLt
  rw [List.sum_cons, List.sum_cons, List.sum_cons, List.sum_nil] at hx
  have := sh_eq d 19; have := sh_eq a 14; have := sh_eq b 9
  have lt : num < 2 ^ 32 := by omega
  exact shared_word 0x08 [(0, 9)] lt (by omega) (by decide) (by decide) (fun _ => rfl) (by decide) ⟨by omega, trivial⟩
    (by rw [fld_ofNat _ 19 5 d lt (by omega), fld_ofNat _ 14 5 a lt (by omega), fld_ofNat _ 9 5 b lt (by omega)]) wfd

theorem remu (d a b) : Statement (.remu d a b) := by
  refine Statement.of rfl ?_
  intro num hfor hx wfd _
  have := d.isLt; have := a.isLt; have := b.isLt
  rw [List.sum_cons, List.sum_cons, List.sum_cons, List.sum_nil] at hx
  have := sh_eq d 19; have := sh_eq a 14; have := sh_eq b 9
  have lt : num < 2 ^ 32 := by omega
  exact shared_word 0x09 [(0, 9)] lt (by omega) (by decide) (by decide) (fun _ => rfl) (by decide) ⟨by omega, trivial⟩
    (by rw [fld_ofNat _ 19 5 d lt (by omega), fld_ofNat _ 14 5 a lt (by omega), fld_ofNat _ 9 5 b lt (by omega)]) wfd

theorem and (d a b) : Statement (.and d a b) := by
  refine Statement.of rfl ?_
  intro num hfor hx wfd _
  have := d.isLt; have := a.isLt; have := b.isLt
  rw [List.sum_cons, List.sum_cons, List.sum_cons, List.sum_nil] at hx
  have := sh_eq d 19; have := sh_eq a 14; have := sh_eq b 9
  have lt : num < 2 ^ 32 := by omega
  exact shared_word 0x0A [(0, 9)] lt (by omega) (by decide) (by decide) (fun _ => rfl) (by decide) ⟨by omega, trivial⟩
    (by rw [fld_ofNat _ 19 5 d lt (by omega), fld_ofNat _ 14 5 a lt (by omega), fld_ofNat _ 9 5 b lt (by omega)]) wfd

theorem or (d a b) : Statement (.or d a b) := by
  refine Statement.of rfl ?_
  intro num hfor hx wfd _
  have := d.isLt; have := a.isLt; have := b.isLt
  rw [List.sum_cons, List.sum_cons, List.sum_cons, List.sum_nil] at hx
  have := sh_eq d 19; have := sh_eq a 14; have := sh_eq b 9
  have lt : num < 2 ^ 32 := by omega
  exact shared_word 0x0B [(0, 9)] lt (by omega) (by decide) (by decide) (fun _ => rfl) (by decide) ⟨by omega, trivial⟩
    (by rw [fld_ofNat _ 19 5 d lt (by omega), fld_ofNat _ 14 5 a lt (by omega), fld_ofNat _ 9 5 b lt (by omega)]) wfd

theorem xor (d a b) : Statement (.xor d a b) := by
  refine Statement.of rfl ?_
  intro num hfor hx wfd _
  have := d.isLt; have := a.isLt; have := b.isLt
  rw [List.sum_cons, List.sum_cons, List.sum_cons, List.sum_nil] at hx
  have := sh_eq d 19; have := sh_eq a 14; have := sh_eq b 9
  have lt : num < 2 ^ 32 := by omega
  exact shared_word 0x0C [(0, 9)] lt (by omega) (by decide) (by decide) (fun _ => rfl) (by decide) ⟨by omega, trivial⟩
    (by rw [fld_ofNat _ 19 5 d lt (by omega), fld_ofNat _ 14 5 a lt (by omega), fld_ofNat _ 9 5 b lt (by omega)]) wfd

theorem andn (d a b) : Statement (.andn d a b) := by
  refine Statement.of rfl ?_
  intro num hfor hx wfd _
  have := d.isLt; have := a.isLt; have := b.isLt
  rw [List.sum_cons, List.sum_cons, List.sum_cons, List.sum_nil] at hx
  have := sh_eq d 19; have := sh_eq a 14; have := sh_eq b 9
  have lt : num < 2 ^ 32 := by omega
  exact shared_word 0x0D [(0, 9)] lt (by omega) (by decide) (by decide) (fun _ => rfl) (by decide) ⟨by omega, trivial⟩
    (by rw [fld_ofNat _ 19 5 d lt (by omega), fld_ofNat _ 14 5 a lt (by omega), fld_ofNat _ 9 5 b lt (by omega)]) wfd

theorem shl (d a b) : Statement (.shl d a b) := by
  refine Statement.of rfl ?_
  intro num hfor hx wfd _
  have := d.isLt; have := a.isLt; have := b.isLt
  rw [List.sum_cons, List.sum_cons, List.sum_cons, List.sum_nil] at hx
  have := sh_eq d 19; have := sh_eq a 14; have := sh_eq b 9
  have lt : num < 2 ^ 32 := by omega
  exact shared_word 0x0E [(0, 9)] lt (by omega) (by decide) (by decide) (fun _ => rfl) (by decide) ⟨by omega, trivial⟩
    (by rw [fld_ofNat _ 19 5 d lt (by omega), fld_ofNat _ 14 5 a lt (by omega), fld_ofNat _ 9 5 b lt (by omega)]) wfd

theorem shr (d a b) : Statement (.shr d a b) := by
  refine Statement.of rfl ?_
  intro num hfor hx wfd _
  have := d.isLt; have := a.isLt; have := b.isLt
  rw [List.sum_cons, List.sum_cons, List.sum_cons, List.sum_nil] at hx
  have := sh_eq d 19; have := sh_eq a 14; have := sh_eq b 9
  have lt : num < 2 ^ 32 := by omega
  exact shared_word 0x0F [(0, 9)] lt (by omega) (by decide) (by decide) (fun _ => rfl) (by decide) ⟨by omega, trivial⟩
    (by rw [fld_ofNat _ 19 5 d lt (by omega), fld_ofNat _ 14 5 a lt (by omega), fld_ofNat _ 9 5 b lt (by omega)]) wfd

theorem sra (d a b) : Statement (.sra d a b) := by
  refine Statement.of rfl ?_
  intro num hfor hx wfd _
  have := d.isLt; have := a.isLt; have := b.isLt
  rw [List.sum_cons, List.sum_cons, List.sum_cons, List.sum_nil] at hx
  have := sh_eq d 19; have := sh_eq a 14; have := sh_eq b 9
  have lt : num < 2 ^ 32 := by omega
  exact shared_word 0x10 [(0, 9)] lt (by omega) (by decide) (by decide) (fun _ => rfl) (by decide) ⟨by omega, trivial⟩
    (by rw [fld_ofNat _ 19 5 d lt (by omega), fld_ofNat _ 14 5 a lt (by omega), fld_ofNat _ 9 5 b lt (by omega)]) wfd

theorem rol (d a b) : Statement (.rol d a b) := by
  refine Statement.of rfl ?_
  intro num hfor hx wfd _
  have := d.isLt; have := a.isLt; have := b.isLt
  rw [List.sum_cons, List.sum_cons, List.sum_cons, List.sum_nil] at hx
  have := sh_eq d 19; have := sh_eq a 14; have := sh_eq b 9
  have lt : num < 2 ^ 32 := by omega
  exact shared_word 0x11 [(0, 9)] lt (by omega) (by decide) (by decide) (fun _ => rfl) (by decide) ⟨by omega, trivial⟩
    (by rw [fld_ofNat _ 19 5 d lt (by omega), fld_ofNat _ 14 5 a lt (by omega), fld_ofNat _ 9 5 b lt (by omega)]) wfd

theorem slt (d a b) : Statement (.slt d a b) := by
  refine Statement.of rfl ?_
  intro num hfor hx wfd _
  have := d.isLt; have := a.isLt; have := b.isLt
  rw [List.sum_cons, List.sum_cons, List.sum_cons, List.sum_nil] at hx
  have := sh_eq d 19; have := sh_eq a 14; have := sh_eq b 9
  have lt : num < 2 ^ 32 := by omega
  exact shared_word 0x12 [(0, 9)] lt (by omega) (by decide) (by decide) (fun _ => rfl) (by decide) ⟨by omega, trivial⟩
    (by rw [fld_ofNat _ 19 5 d lt (by omega), fld_ofNat _ 14 5 a lt (by omega), fld_ofNat _ 9 5 b lt (by omega)]) wfd

theorem sltu (d a b) : Statement (.sltu d a b) := by
  refine Statement.of rfl ?_
  intro num hfor hx wfd _
  have := d.isLt; have := a.isLt; have := b.isLt
  rw [List.sum_cons, List.sum_cons, List.sum_cons, List.sum_nil] at hx
  have := sh_eq d 19; have := sh_eq a 14; have := sh_eq b 9
  have lt : num < 2 ^ 32 := by omega
  exact shared_word 0x13 [(0, 9)] lt (by omega) (by decide) (by decide) (fun _ => rfl) (by decide) ⟨by omega, trivial⟩
    (by rw [fld_ofNat _ 19 5 d lt (by omega), fld_ofNat _ 14 5 a lt (by omega), fld_ofNat _ 9 5 b lt (by omega)]) wfd

theorem seq (d a b) : Statement (.seq d a b) := by
  refine Statement.of rfl ?_
  intro num hfor hx wfd _
  have := d.isLt; have := a.isLt; have := b.isLt
  rw [List.sum_cons, List.sum_cons, List.sum_cons, List.sum_nil] at hx
  have := sh_eq d 19; have := sh_eq a 14; have := sh_eq b 9
  have lt : num < 2 ^ 32 := by omega
  exact shared_word 0x14 [(0, 9)] lt (by omega) (by decide) (by decide) (fun _ => rfl) (by decide) ⟨by omega, trivial⟩
    (by rw [fld_ofNat _ 19 5 d lt (by omega), fld_ofNat _ 14 5 a lt (by omega), fld_ofNat _ 9 5 b lt (by omega)]) wfd

theorem min (d a b) : Statement (.min d a b) := by
  refine Statement.of rfl ?_
  intro num hfor hx wfd _
  have := d.isLt; have := a.isLt; have := b.isLt
  rw [List.sum_cons, List.sum_cons, List.sum_cons, List.sum_nil] at hx
  have := sh_eq d 19; have := sh_eq a 14; have := sh_eq b 9
  have lt : num < 2 ^ 32 := by omega
  exact shared_word 0x15 [(0, 9)] lt (by omega) (by decide) (by decide) (fun _ => rfl) (by decide) ⟨by omega, trivial⟩
    (by rw [fld_ofNat _ 19 5 d lt (by omega), fld_ofNat _ 14 5 a lt (by omega), fld_ofNat _ 9 5 b lt (by omega)]) wfd

theorem max (d a b) : Statement (.max d a b) := by
  refine Statement.of rfl ?_
  intro num hfor hx wfd _
  have := d.isLt; have := a.isLt; have := b.isLt
  rw [List.sum_cons, List.sum_cons, List.sum_cons, List.sum_nil] at hx
  have := sh_eq d 19; have := sh_eq a 14; have := sh_eq b 9
  have lt : num < 2 ^ 32 := by omega
  exact shared_word 0x16 [(0, 9)] lt (by omega) (by decide) (by decide) (fun _ => rfl) (by decide) ⟨by omega, trivial⟩
    (by rw [fld_ofNat _ 19 5 d lt (by omega), fld_ofNat _ 14 5 a lt (by omega), fld_ofNat _ 9 5 b lt (by omega)]) wfd

theorem minu (d a b) : Statement (.minu d a b) := by
  refine Statement.of rfl ?_
  intro num hfor hx wfd _
  have := d.isLt; have := a.isLt; have := b.isLt
  rw [List.sum_cons, List.sum_cons, List.sum_cons, List.sum_nil] at hx
  have := sh_eq d 19; have := sh_eq a 14; have := sh_eq b 9
  have lt : num < 2 ^ 32 := by omega
  exact shared_word 0x17 [(0, 9)] lt (by omega) (by decide) (by decide) (fun _ => rfl) (by decide) ⟨by omega, trivial⟩
    (by rw [fld_ofNat _ 19 5 d lt (by omega), fld_ofNat _ 14 5 a lt (by omega), fld_ofNat _ 9 5 b lt (by omega)]) wfd

theorem maxu (d a b) : Statement (.maxu d a b) := by
  refine Statement.of rfl ?_
  intro num hfor hx wfd _
  have := d.isLt; have := a.isLt; have := b.isLt
  rw [List.sum_cons, List.sum_cons, List.sum_cons, List.sum_nil] at hx
  have := sh_eq d 19; have := sh_eq a 14; have := sh_eq b 9
  have lt : num < 2 ^ 32 := by omega
  exact shared_word 0x18 [(0, 9)] lt (by omega) (by decide) (by decide) (fun _ => rfl) (by decide) ⟨by omega, trivial⟩
    (by rw [fld_ofNat _ 19 5 d lt (by omega), fld_ofNat _ 14 5 a lt (by omega), fld_ofNat _ 9 5 b lt (by omega)]) wfd

theorem clz (d a) : Statement (.clz d a) := by
  refine Statement.of rfl ?_
  intro num hfor hx wfd _
  have := d.isLt; have := a.isLt
  rw [List.sum_cons, List.sum_cons, List.sum_nil] at hx
  have := sh_eq d 19; have := sh_eq a 14
  have lt : num < 2 ^ 32 := by omega
  exact shared_word 0x19 [(0, 14)] lt (by omega) (by decide) (by decide) (fun _ => rfl) (by decide) ⟨by omega, trivial⟩
    (by rw [fld_ofNat _ 19 5 d lt (by omega), fld_ofNat _ 14 5 a lt (by omega)]) wfd

theorem popc (d a) : Statement (.popc d a) := by
  refine Statement.of rfl ?_
  intro num hfor hx wfd _
  have := d.isLt; have := a.isLt
  rw [List.sum_cons, List.sum_cons, List.sum_nil] at hx
  have := sh_eq d 19; have := sh_eq a 14
  have lt : num < 2 ^ 32 := by omega
  exact shared_word 0x1A [(0, 14)] lt (by omega) (by decide) (by decide) (fun _ => rfl) (by decide) ⟨by omega, trivial⟩
    (by rw [fld_ofNat _ 19 5 d lt (by omega), fld_ofNat _ 14 5 a lt (by omega)]) wfd

theorem idx (d a b s) : Statement (.idx d a b s) := by
  refine Statement.of rfl ?_
  intro num hfor hx wfd _
  have := d.isLt; have := a.isLt; have := b.isLt; have := s.isLt
  rw [List.sum_cons, List.sum_cons, List.sum_cons, List.sum_cons, List.sum_nil] at hx
  have := sh_eq d 19; have := sh_eq a 14; have := sh_eq b 9; have := sh_eq s 0
  have lt : num < 2 ^ 32 := by omega
  exact shared_word 0x1B [(3, 6)] lt (by omega) (by decide) (by decide) (fun _ => rfl) (by decide) ⟨by omega, trivial⟩
    (by rw [fld_ofNat _ 19 5 d lt (by omega), fld_ofNat _ 14 5 a lt (by omega), fld_ofNat _ 9 5 b lt (by omega), fld_ofNat _ 0 3 s lt (by omega)]) wfd

theorem extu (d a b w) : Statement (.extu d a b w) := by
  refine Statement.of rfl ?_
  intro num hfor hx wfd _
  have := d.isLt; have := a.isLt; have := b.isLt; have := w.isLt
  rw [List.sum_cons, List.sum_cons, List.sum_cons, List.sum_cons, List.sum_nil] at hx
  have := sh_eq d 19; have := sh_eq a 14; have := sh_eq b 9; have := sh_eq w 0
  have lt : num < 2 ^ 32 := by omega
  exact shared_word 0x1C [(6, 3)] lt (by omega) (by decide) (by decide) (fun _ => rfl) (by decide) ⟨by omega, trivial⟩
    (by rw [fld_ofNat _ 19 5 d lt (by omega), fld_ofNat _ 14 5 a lt (by omega), fld_ofNat _ 9 5 b lt (by omega), fld_ofNat _ 0 6 w lt (by omega)]) wfd

theorem sext (d a n) : Statement (.sext d a n) := by
  refine Statement.of rfl ?_
  intro num hfor hx wfd _
  have := d.isLt; have := a.isLt; have := n.isLt
  rw [List.sum_cons, List.sum_cons, List.sum_cons, List.sum_nil] at hx
  have := sh_eq d 19; have := sh_eq a 14; have := sh_eq n 0
  have lt : num < 2 ^ 32 := by omega
  exact shared_word 0x1D [(6, 8)] lt (by omega) (by decide) (by decide) (fun _ => rfl) (by decide) ⟨by omega, trivial⟩
    (by rw [fld_ofNat _ 19 5 d lt (by omega), fld_ofNat _ 14 5 a lt (by omega), fld_ofNat _ 0 6 n lt (by omega)]) wfd

theorem cmovnz (d a b) : Statement (.cmovnz d a b) := by
  refine Statement.of rfl ?_
  intro num hfor hx wfd _
  have := d.isLt; have := a.isLt; have := b.isLt
  rw [List.sum_cons, List.sum_cons, List.sum_cons, List.sum_nil] at hx
  have := sh_eq d 19; have := sh_eq a 14; have := sh_eq b 9
  have lt : num < 2 ^ 32 := by omega
  exact shared_word 0x1E [(0, 9)] lt (by omega) (by decide) (by decide) (fun _ => rfl) (by decide) ⟨by omega, trivial⟩
    (by rw [fld_ofNat _ 19 5 d lt (by omega), fld_ofNat _ 14 5 a lt (by omega), fld_ofNat _ 9 5 b lt (by omega)]) wfd

theorem addi (d a i) : Statement (.addi d a i) := by
  refine Statement.of rfl ?_
  intro num hfor hx wfd _
  have := d.isLt; have := a.isLt; have := i.isLt
  rw [List.sum_cons, List.sum_cons, List.sum_cons, List.sum_nil] at hx
  have := sh_eq d 19; have := sh_eq a 14; have := sh_eq i 0
  have lt : num < 2 ^ 32 := by omega
  exact shared_word 0x20 [] lt (by omega) (by decide) (by decide) (fun _ => rfl) (by decide) trivial
    (by rw [fld_ofNat _ 19 5 d lt (by omega), fld_ofNat _ 14 5 a lt (by omega), fld_ofNat _ 0 14 i lt (by omega)]) wfd

theorem andi (d a i) : Statement (.andi d a i) := by
  refine Statement.of rfl ?_
  intro num hfor hx wfd _
  have := d.isLt; have := a.isLt; have := i.isLt
  rw [List.sum_cons, List.sum_cons, List.sum_cons, List.sum_nil] at hx
  have := sh_eq d 19; have := sh_eq a 14; have := sh_eq i 0
  have lt : num < 2 ^ 32 := by omega
  exact shared_word 0x21 [] lt (by omega) (by decide) (by decide) (fun _ => rfl) (by decide) trivial
    (by rw [fld_ofNat _ 19 5 d lt (by omega), fld_ofNat _ 14 5 a lt (by omega), fld_ofNat _ 0 14 i lt (by omega)]) wfd

theorem ori (d a i) : Statement (.ori d a i) := by
  refine Statement.of rfl ?_
  intro num hfor hx wfd _
  have := d.isLt; have := a.isLt; have := i.isLt
  rw [List.sum_cons, List.sum_cons, List.sum_cons, List.sum_nil] at hx
  have := sh_eq d 19; have := sh_eq a 14; have := sh_eq i 0
  have lt : num < 2 ^ 32 := by omega
  exact shared_word 0x22 [] lt (by omega) (by decide) (by decide) (fun _ => rfl) (by decide) trivial
    (by rw [fld_ofNat _ 19 5 d lt (by omega), fld_ofNat _ 14 5 a lt (by omega), fld_ofNat _ 0 14 i lt (by omega)]) wfd

theorem xori (d a i) : Statement (.xori d a i) := by
  refine Statement.of rfl ?_
  intro num hfor hx wfd _
  have := d.isLt; have := a.isLt; have := i.isLt
  rw [List.sum_cons, List.sum_cons, List.sum_cons, List.sum_nil] at hx
  have := sh_eq d 19; have := sh_eq a 14; have := sh_eq i 0
  have lt : num < 2 ^ 32 := by omega
  exact shared_word 0x23 [] lt (by omega) (by decide) (by decide) (fun _ => rfl) (by decide) trivial
    (by rw [fld_ofNat _ 19 5 d lt (by omega), fld_ofNat _ 14 5 a lt (by omega), fld_ofNat _ 0 14 i lt (by omega)]) wfd

theorem shli (d a n) : Statement (.shli d a n) := by
  refine Statement.of rfl ?_
  intro num hfor hx wfd _
  have := d.isLt; have := a.isLt; have := n.isLt
  rw [List.sum_cons, List.sum_cons, List.sum_cons, List.sum_nil] at hx
  have := sh_eq d 19; have := sh_eq a 14; have := sh_eq n 0
  have lt : num < 2 ^ 32 := by omega
  exact shared_word 0x24 [(6, 8)] lt (by omega) (by decide) (by decide) (fun _ => rfl) (by decide) ⟨by omega, trivial⟩
    (by rw [fld_ofNat _ 19 5 d lt (by omega), fld_ofNat _ 14 5 a lt (by omega), fld_ofNat _ 0 6 n lt (by omega)]) wfd

theorem shri (d a n) : Statement (.shri d a n) := by
  refine Statement.of rfl ?_
  intro num hfor hx wfd _
  have := d.isLt; have := a.isLt; have := n.isLt
  rw [List.sum_cons, List.sum_cons, List.sum_cons, List.sum_nil] at hx
  have := sh_eq d 19; have := sh_eq a 14; have := sh_eq n 0
  have lt : num < 2 ^ 32 := by omega
  exact shared_word 0x25 [(6, 8)] lt (by omega) (by decide) (by decide) (fun _ => rfl) (by decide) ⟨by omega, trivial⟩
    (by rw [fld_ofNat _ 19 5 d lt (by omega), fld_ofNat _ 14 5 a lt (by omega), fld_ofNat _ 0 6 n lt (by omega)]) wfd

theorem srai (d a n) : Statement (.srai d a n) := by
  refine Statement.of rfl ?_
  intro num hfor hx wfd _
  have := d.isLt; have := a.isLt; have := n.isLt
  rw [List.sum_cons, List.sum_cons, List.sum_cons, List.sum_nil] at hx
  have := sh_eq d 19; have := sh_eq a 14; have := sh_eq n 0
  have lt : num < 2 ^ 32 := by omega
  exact shared_word 0x26 [(6, 8)] lt (by omega) (by decide) (by decide) (fun _ => rfl) (by decide) ⟨by omega, trivial⟩
    (by rw [fld_ofNat _ 19 5 d lt (by omega), fld_ofNat _ 14 5 a lt (by omega), fld_ofNat _ 0 6 n lt (by omega)]) wfd

theorem slti (d a i) : Statement (.slti d a i) := by
  refine Statement.of rfl ?_
  intro num hfor hx wfd _
  have := d.isLt; have := a.isLt; have := i.isLt
  rw [List.sum_cons, List.sum_cons, List.sum_cons, List.sum_nil] at hx
  have := sh_eq d 19; have := sh_eq a 14; have := sh_eq i 0
  have lt : num < 2 ^ 32 := by omega
  exact shared_word 0x27 [] lt (by omega) (by decide) (by decide) (fun _ => rfl) (by decide) trivial
    (by rw [fld_ofNat _ 19 5 d lt (by omega), fld_ofNat _ 14 5 a lt (by omega), fld_ofNat _ 0 14 i lt (by omega)]) wfd

theorem sltiu (d a i) : Statement (.sltiu d a i) := by
  refine Statement.of rfl ?_
  intro num hfor hx wfd _
  have := d.isLt; have := a.isLt; have := i.isLt
  rw [List.sum_cons, List.sum_cons, List.sum_cons, List.sum_nil] at hx
  have := sh_eq d 19; have := sh_eq a 14; have := sh_eq i 0
  have lt : num < 2 ^ 32 := by omega
  exact shared_word 0x28 [] lt (by omega) (by decide) (by decide) (fun _ => rfl) (by decide) trivial
    (by rw [fld_ofNat _ 19 5 d lt (by omega), fld_ofNat _ 14 5 a lt (by omega), fld_ofNat _ 0 14 i lt (by omega)]) wfd

theorem muli (d a i) : Statement (.muli d a i) := by
  refine Statement.of rfl ?_
  intro num hfor hx wfd _
  have := d.isLt; have := a.isLt; have := i.isLt
  rw [List.sum_cons, List.sum_cons, List.sum_cons, List.sum_nil] at hx
  have := sh_eq d 19; have := sh_eq a 14; have := sh_eq i 0
  have lt : num < 2 ^ 32 := by omega
  exact shared_word 0x29 [] lt (by omega) (by decide) (by decide) (fun _ => rfl) (by decide) trivial
    (by rw [fld_ofNat _ 19 5 d lt (by omega), fld_ofNat _ 14 5 a lt (by omega), fld_ofNat _ 0 14 i lt (by omega)]) wfd

theorem li (d i) : Statement (.li d i) := by
  refine Statement.of rfl ?_
  intro num hfor hx wfd _
  have := d.isLt; have := i.isLt
  rw [List.sum_cons, List.sum_cons, List.sum_nil] at hx
  have := sh_eq d 19; have := sh_eq i 0
  have lt : num < 2 ^ 32 := by omega
  exact shared_word 0x2A [] lt (by omega) (by decide) (by decide) (fun _ => rfl) (by decide) trivial
    (by rw [fld_ofNat _ 19 5 d lt (by omega), fld_ofNat _ 0 19 i lt (by omega)]) wfd

theorem lui (d i) : Statement (.lui d i) := by
  refine Statement.of rfl ?_
  intro num hfor hx wfd _
  have := d.isLt; have := i.isLt
  rw [List.sum_cons, List.sum_cons, List.sum_nil] at hx
  have := sh_eq d 19; have := sh_eq i 0
  have lt : num < 2 ^ 32 := by omega
  exact shared_word 0x2B [] lt (by omega) (by decide) (by decide) (fun _ => rfl) (by decide) trivial
    (by rw [fld_ofNat _ 19 5 d lt (by omega), fld_ofNat _ 0 19 i lt (by omega)]) wfd

theorem auipc (d i) : Statement (.auipc d i) := by
  refine Statement.of rfl ?_
  intro num hfor hx wfd _
  have := d.isLt; have := i.isLt
  rw [List.sum_cons, List.sum_cons, List.sum_nil] at hx
  have := sh_eq d 19; have := sh_eq i 0
  have lt : num < 2 ^ 32 := by omega
  exact shared_word 0x2C [] lt (by omega) (by decide) (by decide) (fun _ => rfl) (by decide) trivial
    (by rw [fld_ofNat _ 19 5 d lt (by omega), fld_ofNat _ 0 19 i lt (by omega)]) wfd

theorem beq (a b o) : Statement (.beq a b o) := by
  refine Statement.of rfl ?_
  intro num hfor hx wfd _
  have := a.isLt; have := b.isLt; have := o.isLt
  rw [List.sum_cons, List.sum_cons, List.sum_cons, List.sum_nil] at hx
  have := sh_eq a 19; have := sh_eq b 14; have := sh_eq o 0
  have lt : num < 2 ^ 32 := by omega
  exact shared_word 0x30 [] lt (by omega) (by decide) (by decide) (fun _ => rfl) (by decide) trivial
    (by rw [fld_ofNat _ 19 5 a lt (by omega), fld_ofNat _ 14 5 b lt (by omega), fld_ofNat _ 0 14 o lt (by omega)]) wfd

theorem bne (a b o) : Statement (.bne a b o) := by
  refine Statement.of rfl ?_
  intro num hfor hx wfd _
  have := a.isLt; have := b.isLt; have := o.isLt
  rw [List.sum_cons, List.sum_cons, List.sum_cons, List.sum_nil] at hx
  have := sh_eq a 19; have := sh_eq b 14; have := sh_eq o 0
  have lt : num < 2 ^ 32 := by omega
  exact shared_word 0x31 [] lt (by omega) (by decide) (by decide) (fun _ => rfl) (by decide) trivial
    (by rw [fld_ofNat _ 19 5 a lt (by omega), fld_ofNat _ 14 5 b lt (by omega), fld_ofNat _ 0 14 o lt (by omega)]) wfd

theorem blt (a b o) : Statement (.blt a b o) := by
  refine Statement.of rfl ?_
  intro num hfor hx wfd _
  have := a.isLt; have := b.isLt; have := o.isLt
  rw [List.sum_cons, List.sum_cons, List.sum_cons, List.sum_nil] at hx
  have := sh_eq a 19; have := sh_eq b 14; have := sh_eq o 0
  have lt : num < 2 ^ 32 := by omega
  exact shared_word 0x32 [] lt (by omega) (by decide) (by decide) (fun _ => rfl) (by decide) trivial
    (by rw [fld_ofNat _ 19 5 a lt (by omega), fld_ofNat _ 14 5 b lt (by omega), fld_ofNat _ 0 14 o lt (by omega)]) wfd

theorem bge (a b o) : Statement (.bge a b o) := by
  refine Statement.of rfl ?_
  intro num hfor hx wfd _
  have := a.isLt; have := b.isLt; have := o.isLt
  rw [List.sum_cons, List.sum_cons, List.sum_cons, List.sum_nil] at hx
  have := sh_eq a 19; have := sh_eq b 14; have := sh_eq o 0
  have lt : num < 2 ^ 32 := by omega
  exact shared_word 0x33 [] lt (by omega) (by decide) (by decide) (fun _ => rfl) (by decide) trivial
    (by rw [fld_ofNat _ 19 5 a lt (by omega), fld_ofNat _ 14 5 b lt (by omega), fld_ofNat _ 0 14 o lt (by omega)]) wfd

theorem bltu (a b o) : Statement (.bltu a b o) := by
  refine Statement.of rfl ?_
  intro num hfor hx wfd _
  have := a.isLt; have := b.isLt; have := o.isLt
  rw [List.sum_cons, List.sum_cons, List.sum_cons, List.sum_nil] at hx
  have := sh_eq a 19; have := sh_eq b 14; have := sh_eq o 0
  have lt : num < 2 ^ 32 := by omega
  exact shared_word 0x34 [] lt (by omega) (by decide) (by decide) (fun _ => rfl) (by decide) trivial
    (by rw [fld_ofNat _ 19 5 a lt (by omega), fld_ofNat _ 14 5 b lt (by omega), fld_ofNat _ 0 14 o lt (by omega)]) wfd

theorem bgeu (a b o) : Statement (.bgeu a b o) := by
  refine Statement.of rfl ?_
  intro num hfor hx wfd _
  have := a.isLt; have := b.isLt; have := o.isLt
  rw [List.sum_cons, List.sum_cons, List.sum_cons, List.sum_nil] at hx
  have := sh_eq a 19; have := sh_eq b 14; have := sh_eq o 0
  have lt : num < 2 ^ 32 := by omega
  exact shared_word 0x35 [] lt (by omega) (by decide) (by decide) (fun _ => rfl) (by decide) trivial
    (by rw [fld_ofNat _ 19 5 a lt (by omega), fld_ofNat _ 14 5 b lt (by omega), fld_ofNat _ 0 14 o lt (by omega)]) wfd

theorem j (o) : Statement (.j o) := by
  refine Statement.of rfl ?_
  intro num hfor hx wfd _
  have := o.isLt
  rw [List.sum_cons, List.sum_nil] at hx
  have := sh_eq o 0
  have lt : num < 2 ^ 32 := by omega
  exact shared_word 0x38 [] lt (by omega) (by decide) (by decide) (fun _ => rfl) (by decide) trivial
    (by rw [fld_ofNat _ 0 24 o lt (by omega)]) wfd

theorem call (o) : Statement (.call o) := by
  refine Statement.of rfl ?_
  intro num hfor hx wfd _
  have := o.isLt
  rw [List.sum_cons, List.sum_nil] at hx
  have := sh_eq o 0
  have lt : num < 2 ^ 32 := by omega
  exact shared_word 0x39 [] lt (by omega) (by decide) (by decide) (fun _ => rfl) (by decide) trivial
    (by rw [fld_ofNat _ 0 24 o lt (by omega)]) wfd

theorem jr (d a) : Statement (.jr d a) := by
  refine Statement.of rfl ?_
  intro num hfor hx wfd _
  have := d.isLt; have := a.isLt
  rw [List.sum_cons, List.sum_cons, List.sum_nil] at hx
  have := sh_eq d 19; have := sh_eq a 14
  have lt : num < 2 ^ 32 := by omega
  exact shared_word 0x3A [(0, 14)] lt (by omega) (by decide) (by decide) (fun _ => rfl) (by decide) ⟨by omega, trivial⟩
    (by rw [fld_ofNat _ 19 5 d lt (by omega), fld_ofNat _ 14 5 a lt (by omega)]) wfd

theorem loop (l a e) : Statement (.loop l a e) := by
  refine Statement.of rfl ?_
  intro num hfor hx wfd _
  have := l.isLt; have := a.isLt; have := e.isLt
  rw [List.sum_cons, List.sum_cons, List.sum_cons, List.sum_nil] at hx
  have := sh_eq l 22; have := sh_eq a 17; have := sh_eq e 0
  have lt : num < 2 ^ 32 := by omega
  exact shared_word 0x3C [] lt (by omega) (by decide) (by decide) (fun _ => rfl) (by decide) trivial
    (by rw [fld_ofNat _ 22 2 l lt (by omega), fld_ofNat _ 17 5 a lt (by omega), fld_ofNat _ 0 17 e lt (by omega)]) wfd

theorem loopi (l c e) : Statement (.loopi l c e) := by
  refine Statement.of rfl ?_
  intro num hfor hx wfd _
  have := l.isLt; have := c.isLt; have := e.isLt
  rw [List.sum_cons, List.sum_cons, List.sum_cons, List.sum_nil] at hx
  have := sh_eq l 22; have := sh_eq c 10; have := sh_eq e 0
  have lt : num < 2 ^ 32 := by omega
  exact shared_word 0x3D [] lt (by omega) (by decide) (by decide) (fun _ => rfl) (by decide) trivial
    (by rw [fld_ofNat _ 22 2 l lt (by omega), fld_ofNat _ 10 12 c lt (by omega), fld_ofNat _ 0 10 e lt (by omega)]) wfd

theorem leave (l s m) : Statement (.leave l s m) := by
  refine Statement.of rfl ?_
  intro num hfor hx wfd _
  have := l.isLt; have := s.isLt; have := m.isLt
  rw [List.sum_cons, List.sum_cons, List.sum_cons, List.sum_nil] at hx
  have := sh_eq l 22; have := sh_eq s 21; have := sh_eq m 16
  have lt : num < 2 ^ 32 := by omega
  exact shared_word 0x3E [(0, 16)] lt (by omega) (by decide) (by decide) (fun _ => rfl) (by decide) ⟨by omega, trivial⟩
    (by rw [fld_ofNat _ 22 2 l lt (by omega), fld_ofNat _ 21 1 s lt (by omega), fld_ofNat _ 16 5 m lt (by omega)]) wfd

theorem tkwait (d c e) : Statement (.tkwait d c e) := by
  refine Statement.of rfl ?_
  intro num hfor hx wfd _
  have := d.isLt; have := c.isLt; have := e.isLt
  rw [List.sum_cons, List.sum_cons, List.sum_cons, List.sum_nil] at hx
  have := sh_eq d 19; have := sh_eq c 3; have := sh_eq e 0
  have lt : num < 2 ^ 32 := by omega
  exact shared_word 0x40 [(4, 15)] lt (by omega) (by decide) (by decide) (fun _ => rfl) (by decide) ⟨by omega, trivial⟩
    (by rw [fld_ofNat _ 19 5 d lt (by omega), fld_ofNat _ 3 1 c lt (by omega), fld_ofNat _ 0 3 e lt (by omega)]) wfd

theorem tksig (c e) : Statement (.tksig c e) := by
  refine Statement.of rfl ?_
  intro num hfor hx wfd _
  have := c.isLt; have := e.isLt
  rw [List.sum_cons, List.sum_cons, List.sum_nil] at hx
  have := sh_eq c 3; have := sh_eq e 0
  have lt : num < 2 ^ 32 := by omega
  exact shared_word 0x41 [(4, 20)] lt (by omega) (by decide) (by decide) (fun _ => rfl) (by decide) ⟨by omega, trivial⟩
    (by rw [fld_ofNat _ 3 1 c lt (by omega), fld_ofNat _ 0 3 e lt (by omega)]) wfd

theorem rdv (n) : Statement (.rdv n) := by
  refine Statement.of rfl ?_
  intro num hfor hx wfd _
  have := n.isLt
  rw [List.sum_cons, List.sum_nil] at hx
  have := sh_eq n 0
  have lt : num < 2 ^ 32 := by omega
  exact shared_word 0x42 [(8, 16)] lt (by omega) (by decide) (by decide) (fun _ => rfl) (by decide) ⟨by omega, trivial⟩
    (by rw [fld_ofNat _ 0 8 n lt (by omega)]) wfd

theorem gfence (n) : Statement (.gfence n) := by
  refine Statement.of rfl ?_
  intro num hfor hx wfd _
  have := n.isLt
  rw [List.sum_cons, List.sum_nil] at hx
  have := sh_eq n 0
  have lt : num < 2 ^ 32 := by omega
  exact shared_word 0x43 [(8, 16)] lt (by omega) (by decide) (by decide) (fun _ => rfl) (by decide) ⟨by omega, trivial⟩
    (by rw [fld_ofNat _ 0 8 n lt (by omega)]) wfd

theorem swpt (n) : Statement (.swpt n) := by
  refine Statement.of rfl ?_
  intro num hfor hx wfd _
  have := n.isLt
  rw [List.sum_cons, List.sum_nil] at hx
  have := sh_eq n 0
  have lt : num < 2 ^ 32 := by omega
  exact shared_word 0x44 [(8, 16)] lt (by omega) (by decide) (by decide) (fun _ => rfl) (by decide) ⟨by omega, trivial⟩
    (by rw [fld_ofNat _ 0 8 n lt (by omega)]) wfd

theorem ppoint (m) : Statement (.ppoint m) := by
  refine Statement.of rfl ?_
  intro num hfor hx wfd _
  have := m.isLt
  rw [List.sum_cons, List.sum_nil] at hx
  have := sh_eq m 0
  have lt : num < 2 ^ 32 := by omega
  exact shared_word 0x45 [] lt (by omega) (by decide) (by decide) (fun _ => rfl) (by decide) trivial
    (by rw [fld_ofNat _ 0 24 m lt (by omega)]) wfd

theorem trap (c) : Statement (.trap c) := by
  refine Statement.of rfl ?_
  intro num hfor hx wfd _
  have := c.isLt
  rw [List.sum_cons, List.sum_nil] at hx
  have := sh_eq c 0
  have lt : num < 2 ^ 32 := by omega
  exact shared_word 0x48 [(8, 16)] lt (by omega) (by decide) (by decide) (fun _ => rfl) (by decide) ⟨by omega, trivial⟩
    (by rw [fld_ofNat _ 0 8 c lt (by omega)]) wfd

theorem eret : Statement (.eret) := by
  refine Statement.of rfl ?_
  intro num hfor hx wfd _
  rw [List.sum_nil] at hx
  have lt : num < 2 ^ 32 := by omega
  exact shared_word 0x49 [(0, 24)] lt (by omega) (by decide) (by decide) (fun _ => rfl) (by decide) ⟨by omega, trivial⟩
    rfl wfd

theorem mfs (d i) : Statement (.mfs d i) := by
  refine Statement.of rfl ?_
  intro num hfor hx wfd _
  have := d.isLt; have := i.isLt
  rw [List.sum_cons, List.sum_cons, List.sum_nil] at hx
  have := sh_eq d 19; have := sh_eq i 0
  have lt : num < 2 ^ 32 := by omega
  exact shared_word 0x4A [(14, 5)] lt (by omega) (by decide) (by decide) (fun _ => rfl) (by decide) ⟨by omega, trivial⟩
    (by rw [fld_ofNat _ 19 5 d lt (by omega), fld_ofNat _ 0 14 i lt (by omega)]) wfd

theorem mts (a i) : Statement (.mts a i) := by
  refine Statement.of rfl ?_
  intro num hfor hx wfd _
  have := a.isLt; have := i.isLt
  rw [List.sum_cons, List.sum_cons, List.sum_nil] at hx
  have := sh_eq a 14; have := sh_eq i 0
  have lt : num < 2 ^ 32 := by omega
  exact shared_word 0x4B [(19, 5)] lt (by omega) (by decide) (by decide) (fun _ => rfl) (by decide) ⟨by omega, trivial⟩
    (by rw [fld_ofNat _ 14 5 a lt (by omega), fld_ofNat _ 0 14 i lt (by omega)]) wfd

theorem cyc (d) : Statement (.cyc d) := by
  refine Statement.of rfl ?_
  intro num hfor hx wfd _
  have := d.isLt
  rw [List.sum_cons, List.sum_nil] at hx
  have := sh_eq d 19
  have lt : num < 2 ^ 32 := by omega
  exact shared_word 0x4C [(0, 19)] lt (by omega) (by decide) (by decide) (fun _ => rfl) (by decide) ⟨by omega, trivial⟩
    (by rw [fld_ofNat _ 19 5 d lt (by omega)]) wfd

theorem halt : Statement (.halt) := by
  refine Statement.of rfl ?_
  intro num hfor hx wfd _
  rw [List.sum_nil] at hx
  have lt : num < 2 ^ 32 := by omega
  exact shared_word 0x4D [(0, 24)] lt (by omega) (by decide) (by decide) (fun _ => rfl) (by decide) ⟨by omega, trivial⟩
    rfl wfd

theorem nop : Statement (.nop) := by
  refine Statement.of rfl ?_
  intro num hfor hx wfd _
  rw [List.sum_nil] at hx
  have lt : num < 2 ^ 32 := by omega
  exact shared_word 0x4E [(0, 24)] lt (by omega) (by decide) (by decide) (fun _ => rfl) (by decide) ⟨by omega, trivial⟩
    rfl wfd

theorem trans (h a) : Statement (.trans h a) := by
  refine Statement.of rfl ?_
  intro num hfor hx wfd _
  have := h.isLt; have := a.isLt
  rw [List.sum_cons, List.sum_cons, List.sum_nil] at hx
  have := sh_eq h 15; have := sh_eq a 10
  have lt : num < 2 ^ 32 := by omega
  exact shared_word 0x50 [(0, 10), (19, 5)] lt (by omega) (by decide) (by decide) (fun _ => rfl) (by decide) ⟨by omega, by omega, trivial⟩
    (by rw [fld_ofNat _ 15 4 h lt (by omega), fld_ofNat _ 10 5 a lt (by omega)]) wfd

theorem hrel (h) : Statement (.hrel h) := by
  refine Statement.of rfl ?_
  intro num hfor hx wfd _
  have := h.isLt
  rw [List.sum_cons, List.sum_nil] at hx
  have := sh_eq h 15
  have lt : num < 2 ^ 32 := by omega
  exact shared_word 0x51 [(0, 15), (19, 5)] lt (by omega) (by decide) (by decide) (fun _ => rfl) (by decide) ⟨by omega, by omega, trivial⟩
    (by rw [fld_ofNat _ 15 4 h lt (by omega)]) wfd

theorem hchk (d h) : Statement (.hchk d h) := by
  refine Statement.of rfl ?_
  intro num hfor hx wfd _
  have := d.isLt; have := h.isLt
  rw [List.sum_cons, List.sum_cons, List.sum_nil] at hx
  have := sh_eq d 19; have := sh_eq h 15
  have lt : num < 2 ^ 32 := by omega
  exact shared_word 0x52 [(0, 15)] lt (by omega) (by decide) (by decide) (fun _ => rfl) (by decide) ⟨by omega, trivial⟩
    (by rw [fld_ofNat _ 19 5 d lt (by omega), fld_ofNat _ 15 4 h lt (by omega)]) wfd

theorem ld (d h a z o) : Statement (.ld d h a z o) := by
  refine Statement.of rfl ?_
  intro num hfor hx wfd _
  have := d.isLt; have := h.isLt; have := a.isLt; have := z.isLt; have := o.isLt
  rw [List.sum_cons, List.sum_cons, List.sum_cons, List.sum_cons, List.sum_cons, List.sum_nil] at hx
  have := sh_eq d 19; have := sh_eq h 15; have := sh_eq a 10; have := sh_eq z 8; have := sh_eq o 0
  have lt : num < 2 ^ 32 := by omega
  exact shared_word 0x53 [] lt (by omega) (by decide) (by decide) (fun _ => rfl) (by decide) trivial
    (by rw [fld_ofNat _ 19 5 d lt (by omega), fld_ofNat _ 15 4 h lt (by omega), fld_ofNat _ 10 5 a lt (by omega), fld_ofNat _ 8 2 z lt (by omega), fld_ofNat _ 0 8 o lt (by omega)]) wfd

theorem st (s h a z o) : Statement (.st s h a z o) := by
  refine Statement.of rfl ?_
  intro num hfor hx wfd _
  have := s.isLt; have := h.isLt; have := a.isLt; have := z.isLt; have := o.isLt
  rw [List.sum_cons, List.sum_cons, List.sum_cons, List.sum_cons, List.sum_cons, List.sum_nil] at hx
  have := sh_eq s 19; have := sh_eq h 15; have := sh_eq a 10; have := sh_eq z 8; have := sh_eq o 0
  have lt : num < 2 ^ 32 := by omega
  exact shared_word 0x54 [] lt (by omega) (by decide) (by decide) (fun _ => rfl) (by decide) trivial
    (by rw [fld_ofNat _ 19 5 s lt (by omega), fld_ofNat _ 15 4 h lt (by omega), fld_ofNat _ 10 5 a lt (by omega), fld_ofNat _ 8 2 z lt (by omega), fld_ofNat _ 0 8 o lt (by omega)]) wfd

theorem lda (d h a z o) : Statement (.lda d h a z o) := by
  refine Statement.of rfl ?_
  intro num hfor hx wfd _
  have := d.isLt; have := h.isLt; have := a.isLt; have := z.isLt; have := o.isLt
  rw [List.sum_cons, List.sum_cons, List.sum_cons, List.sum_cons, List.sum_cons, List.sum_nil] at hx
  have := sh_eq d 19; have := sh_eq h 15; have := sh_eq a 10; have := sh_eq z 8; have := sh_eq o 0
  have lt : num < 2 ^ 32 := by omega
  exact shared_word 0x55 [] lt (by omega) (by decide) (by decide) (fun _ => rfl) (by decide) trivial
    (by rw [fld_ofNat _ 19 5 d lt (by omega), fld_ofNat _ 15 4 h lt (by omega), fld_ofNat _ 10 5 a lt (by omega), fld_ofNat _ 8 2 z lt (by omega), fld_ofNat _ 0 8 o lt (by omega)]) wfd

theorem stl (s h a z o) : Statement (.stl s h a z o) := by
  refine Statement.of rfl ?_
  intro num hfor hx wfd _
  have := s.isLt; have := h.isLt; have := a.isLt; have := z.isLt; have := o.isLt
  rw [List.sum_cons, List.sum_cons, List.sum_cons, List.sum_cons, List.sum_cons, List.sum_nil] at hx
  have := sh_eq s 19; have := sh_eq h 15; have := sh_eq a 10; have := sh_eq z 8; have := sh_eq o 0
  have lt : num < 2 ^ 32 := by omega
  exact shared_word 0x56 [] lt (by omega) (by decide) (by decide) (fun _ => rfl) (by decide) trivial
    (by rw [fld_ofNat _ 19 5 s lt (by omega), fld_ofNat _ 15 4 h lt (by omega), fld_ofNat _ 10 5 a lt (by omega), fld_ofNat _ 8 2 z lt (by omega), fld_ofNat _ 0 8 o lt (by omega)]) wfd

theorem ldro (d h a z o) : Statement (.ldro d h a z o) := by
  refine Statement.of rfl ?_
  intro num hfor hx wfd _
  have := d.isLt; have := h.isLt; have := a.isLt; have := z.isLt; have := o.isLt
  rw [List.sum_cons, List.sum_cons, List.sum_cons, List.sum_cons, List.sum_cons, List.sum_nil] at hx
  have := sh_eq d 19; have := sh_eq h 15; have := sh_eq a 10; have := sh_eq z 8; have := sh_eq o 0
  have lt : num < 2 ^ 32 := by omega
  exact shared_word 0x57 [] lt (by omega) (by decide) (by decide) (fun _ => rfl) (by decide) trivial
    (by rw [fld_ofNat _ 19 5 d lt (by omega), fld_ofNat _ 15 4 h lt (by omega), fld_ofNat _ 10 5 a lt (by omega), fld_ofNat _ 8 2 z lt (by omega), fld_ofNat _ 0 8 o lt (by omega)]) wfd

theorem ldlk (d h a z o) : Statement (.ldlk d h a z o) := by
  refine Statement.of rfl ?_
  intro num hfor hx wfd _
  have := d.isLt; have := h.isLt; have := a.isLt; have := z.isLt; have := o.isLt
  rw [List.sum_cons, List.sum_cons, List.sum_cons, List.sum_cons, List.sum_cons, List.sum_nil] at hx
  have := sh_eq d 19; have := sh_eq h 15; have := sh_eq a 10; have := sh_eq z 8; have := sh_eq o 0
  have lt : num < 2 ^ 32 := by omega
  exact shared_word 0x58 [] lt (by omega) (by decide) (by decide) (fun _ => rfl) (by decide) trivial
    (by rw [fld_ofNat _ 19 5 d lt (by omega), fld_ofNat _ 15 4 h lt (by omega), fld_ofNat _ 10 5 a lt (by omega), fld_ofNat _ 8 2 z lt (by omega), fld_ofNat _ 0 8 o lt (by omega)]) wfd

theorem lockGrant (x0 x1 x2) : Statement (.lockGrant x0 x1 x2) := nofun

theorem stul (s h a z o) : Statement (.stul s h a z o) := by
  refine Statement.of rfl ?_
  intro num hfor hx wfd _
  have := s.isLt; have := h.isLt; have := a.isLt; have := z.isLt; have := o.isLt
  rw [List.sum_cons, List.sum_cons, List.sum_cons, List.sum_cons, List.sum_cons, List.sum_nil] at hx
  have := sh_eq s 19; have := sh_eq h 15; have := sh_eq a 10; have := sh_eq z 8; have := sh_eq o 0
  have lt : num < 2 ^ 32 := by omega
  exact shared_word 0x59 [] lt (by omega) (by decide) (by decide) (fun _ => rfl) (by decide) trivial
    (by rw [fld_ofNat _ 19 5 s lt (by omega), fld_ofNat _ 15 4 h lt (by omega), fld_ofNat _ 10 5 a lt (by omega), fld_ofNat _ 8 2 z lt (by omega), fld_ofNat _ 0 8 o lt (by omega)]) wfd

theorem amo (d h a b p z) : Statement (.amo d h a b p z) := by
  refine Statement.of rfl ?_
  intro num hfor hx wfd _
  have := d.isLt; have := h.isLt; have := a.isLt; have := b.isLt; have := p.isLt; have := z.isLt
  rw [List.sum_cons, List.sum_cons, List.sum_cons, List.sum_cons, List.sum_cons, List.sum_cons, List.sum_nil] at hx
  have := sh_eq d 19; have := sh_eq h 15; have := sh_eq a 10; have := sh_eq b 5; have := sh_eq p 2; have := sh_eq z 0
  have lt : num < 2 ^ 32 := by omega
  exact shared_word 0x5A [] lt (by omega) (by decide) (by decide) (fun _ => rfl) (by decide) trivial
    (by rw [fld_ofNat _ 19 5 d lt (by omega), fld_ofNat _ 15 4 h lt (by omega), fld_ofNat _ 10 5 a lt (by omega), fld_ofNat _ 5 5 b lt (by omega), fld_ofNat _ 2 3 p lt (by omega), fld_ofNat _ 0 2 z lt (by omega)]) wfd

theorem lookup (d a) : Statement (.lookup d a) := by
  refine Statement.of rfl ?_
  intro num hfor hx wfd _
  have := d.isLt; have := a.isLt
  rw [List.sum_cons, List.sum_cons, List.sum_nil] at hx
  have := sh_eq d 19; have := sh_eq a 14
  have lt : num < 2 ^ 32 := by omega
  exact shared_word 0x5B [(0, 14)] lt (by omega) (by decide) (by decide) (fun _ => rfl) (by decide) ⟨by omega, trivial⟩
    (by rw [fld_ofNat _ 19 5 d lt (by omega), fld_ofNat _ 14 5 a lt (by omega)]) wfd

theorem tagset (a b) : Statement (.tagset a b) := by
  refine Statement.of rfl ?_
  intro num hfor hx wfd _
  have := a.isLt; have := b.isLt
  rw [List.sum_cons, List.sum_cons, List.sum_nil] at hx
  have := sh_eq a 14; have := sh_eq b 9
  have lt : num < 2 ^ 32 := by omega
  exact shared_word 0x5C [(0, 9), (19, 5)] lt (by omega) (by decide) (by decide) (fun _ => rfl) (by decide) ⟨by omega, by omega, trivial⟩
    (by rw [fld_ofNat _ 14 5 a lt (by omega), fld_ofNat _ 9 5 b lt (by omega)]) wfd

theorem tagclr (a) : Statement (.tagclr a) := by
  refine Statement.of rfl ?_
  intro num hfor hx wfd _
  have := a.isLt
  rw [List.sum_cons, List.sum_nil] at hx
  have := sh_eq a 14
  have lt : num < 2 ^ 32 := by omega
  exact shared_word 0x5D [(0, 14), (19, 5)] lt (by omega) (by decide) (by decide) (fun _ => rfl) (by decide) ⟨by omega, by omega, trivial⟩
    (by rw [fld_ofNat _ 14 5 a lt (by omega)]) wfd

theorem drain (p) : Statement (.drain p) := by
  refine Statement.of rfl ?_
  intro num hfor hx wfd _
  have := p.isLt
  rw [List.sum_cons, List.sum_nil] at hx
  have := sh_eq p 0
  have lt : num < 2 ^ 32 := by omega
  exact shared_word 0x5E [(3, 21)] lt (by omega) (by decide) (by decide) (fun _ => rfl) (by decide) ⟨by omega, trivial⟩
    (by rw [fld_ofNat _ 0 3 p lt (by omega)]) wfd

theorem fence (h p) : Statement (.fence h p) := by
  refine Statement.of rfl ?_
  intro num hfor hx wfd _
  have := h.isLt; have := p.isLt
  rw [List.sum_cons, List.sum_cons, List.sum_nil] at hx
  have := sh_eq h 15; have := sh_eq p 2
  have lt : num < 2 ^ 32 := by omega
  exact shared_word 0x5F [(0, 2), (5, 10), (19, 5)] lt (by omega) (by decide) (by decide) (fun _ => rfl) (by decide) ⟨by omega, by omega, by omega, trivial⟩
    (by rw [fld_ofNat _ 15 4 h lt (by omega), fld_ofNat _ 2 3 p lt (by omega)]) wfd

theorem ljoin (h a b z) : Statement (.ljoin h a b z) := by
  refine Statement.of rfl ?_
  intro num hfor hx wfd _
  have := h.isLt; have := a.isLt; have := b.isLt; have := z.isLt
  rw [List.sum_cons, List.sum_cons, List.sum_cons, List.sum_cons, List.sum_nil] at hx
  have := sh_eq h 15; have := sh_eq a 10; have := sh_eq b 5; have := sh_eq z 0
  have lt : num < 2 ^ 32 := by omega
  exact shared_word 0x60 [(2, 3), (19, 5)] lt (by omega) (by decide) (by decide) (fun _ => rfl) (by decide) ⟨by omega, by omega, trivial⟩
    (by rw [fld_ofNat _ 15 4 h lt (by omega), fld_ofNat _ 10 5 a lt (by omega), fld_ofNat _ 5 5 b lt (by omega), fld_ofNat _ 0 2 z lt (by omega)]) wfd

theorem lwait (d h a b z) : Statement (.lwait d h a b z) := by
  refine Statement.of rfl ?_
  intro num hfor hx wfd _
  have := d.isLt; have := h.isLt; have := a.isLt; have := b.isLt; have := z.isLt
  rw [List.sum_cons, List.sum_cons, List.sum_cons, List.sum_cons, List.sum_cons, List.sum_nil] at hx
  have := sh_eq d 19; have := sh_eq h 15; have := sh_eq a 10; have := sh_eq b 5; have := sh_eq z 0
  have lt : num < 2 ^ 32 := by omega
  exact shared_word 0x61 [(2, 3)] lt (by omega) (by decide) (by decide) (fun _ => rfl) (by decide) ⟨by omega, trivial⟩
    (by rw [fld_ofNat _ 19 5 d lt (by omega), fld_ofNat _ 15 4 h lt (by omega), fld_ofNat _ 10 5 a lt (by omega), fld_ofNat _ 5 5 b lt (by omega), fld_ofNat _ 0 2 z lt (by omega)]) wfd

theorem lwaitTimeout (x0) : Statement (.lwaitTimeout x0) := nofun

theorem winfo (d f) : Statement (.winfo d f) := by
  refine Statement.of rfl ?_
  intro num hfor hx wfd _
  have := d.isLt; have := f.isLt
  rw [List.sum_cons, List.sum_cons, List.sum_nil] at hx
  have := sh_eq d 19; have := sh_eq f 0
  have lt : num < 2 ^ 32 := by omega
  exact shared_word 0x62 [(1, 18)] lt (by omega) (by decide) (by decide) (fun _ => rfl) (by decide) ⟨by omega, trivial⟩
    (by rw [fld_ofNat _ 19 5 d lt (by omega), fld_ofNat _ 0 1 f lt (by omega)]) wfd

theorem trd (d h a b) : Statement (.trd d h a b) := by
  refine Statement.of rfl ?_
  intro num hfor hx wfd _
  have := d.isLt; have := h.isLt; have := a.isLt; have := b.isLt
  rw [List.sum_cons, List.sum_cons, List.sum_cons, List.sum_cons, List.sum_nil] at hx
  have := sh_eq d 19; have := sh_eq h 15; have := sh_eq a 10; have := sh_eq b 5
  have lt : num < 2 ^ 32 := by omega
  exact shared_word 0x63 [(0, 5)] lt (by omega) (by decide) (by decide) (fun _ => rfl) (by decide) ⟨by omega, trivial⟩
    (by rw [fld_ofNat _ 19 5 d lt (by omega), fld_ofNat _ 15 4 h lt (by omega), fld_ofNat _ 10 5 a lt (by omega), fld_ofNat _ 5 5 b lt (by omega)]) wfd

theorem mma (tk a b c s f) : Statement (.mma tk a b c s f) := by
  refine Statement.of rfl ?_
  intro num hfor hx wfd own
  have := tk.isLt; have := a.isLt; have := b.isLt; have := c.isLt; have := s.isLt; have := f.isLt
  rw [List.sum_cons, List.sum_cons, List.sum_cons, List.sum_cons, List.sum_cons, List.sum_cons, List.sum_nil] at hx
  have := sh_eq tk 22; have := sh_eq a 18; have := sh_eq b 14; have := sh_eq c 13; have := sh_eq s 2; have := sh_eq f 0
  have lt : num < 2 ^ 32 := by omega
  exact private_word opMx 0x00 [] lt (by omega) (fun _ => rfl) (fun _ => rfl) (by decide) trivial
    (by rw [fld_ofNat _ 22 3 tk lt (by omega), fld_ofNat _ 18 4 a lt (by omega), fld_ofNat _ 14 4 b lt (by omega), fld_ofNat _ 13 1 c lt (by omega), fld_ofNat _ 2 11 s lt (by omega), fld_ofNat _ 0 2 f lt (by omega)]) wfd own

theorem mmas (tk a b c s f) : Statement (.mmas tk a b c s f) := by
  refine Statement.of rfl ?_
  intro num hfor hx wfd own
  have := tk.isLt; have := a.isLt; have := b.isLt; have := c.isLt; have := s.isLt; have := f.isLt
  rw [List.sum_cons, List.sum_cons, List.sum_cons, List.sum_cons, List.sum_cons, List.sum_cons, List.sum_nil] at hx
  have := sh_eq tk 22; have := sh_eq a 18; have := sh_eq b 14; have := sh_eq c 13; have := sh_eq s 2; have := sh_eq f 0
  have lt : num < 2 ^ 32 := by omega
  exact private_word opMx 0x01 [] lt (by omega) (fun _ => rfl) (fun _ => rfl) (by decide) trivial
    (by rw [fld_ofNat _ 22 3 tk lt (by omega), fld_ofNat _ 18 4 a lt (by omega), fld_ofNat _ 14 4 b lt (by omega), fld_ofNat _ 13 1 c lt (by omega), fld_ofNat _ 2 11 s lt (by omega), fld_ofNat _ 0 2 f lt (by omega)]) wfd own

theorem mzero (tk c s m) : Statement (.mzero tk c s m) := by
  refine Statement.of rfl ?_
  intro num hfor hx wfd own
  have := tk.isLt; have := c.isLt; have := s.isLt; have := m.isLt
  rw [List.sum_cons, List.sum_cons, List.sum_cons, List.sum_cons, List.sum_nil] at hx
  have := sh_eq tk 22; have := sh_eq c 13; have := sh_eq s 2; have := sh_eq m 0
  have lt : num < 2 ^ 32 := by omega
  exact private_word opMx 0x02 [(1, 1), (14, 8)] lt (by omega) (fun _ => rfl) (fun _ => rfl) (by decide) ⟨by omega, by omega, trivial⟩
    (by rw [fld_ofNat _ 22 3 tk lt (by omega), fld_ofNat _ 13 1 c lt (by omega), fld_ofNat _ 2 11 s lt (by omega), fld_ofNat _ 0 1 m lt (by omega)]) wfd own

theorem mpi (tk a t u) : Statement (.mpi tk a t u) := by
  refine Statement.of rfl ?_
  intro num hfor hx wfd own
  have := tk.isLt; have := a.isLt; have := t.isLt; have := u.isLt
  rw [List.sum_cons, List.sum_cons, List.sum_cons, List.sum_cons, List.sum_nil] at hx
  have := sh_eq tk 22; have := sh_eq a 17; have := sh_eq t 13; have := sh_eq u 9
  have lt : num < 2 ^ 32 := by omega
  exact private_word opMx 0x03 [(0, 9)] lt (by omega) (fun _ => rfl) (fun _ => rfl) (by decide) ⟨by omega, trivial⟩
    (by rw [fld_ofNat _ 22 3 tk lt (by omega), fld_ofNat _ 17 5 a lt (by omega), fld_ofNat _ 13 4 t lt (by omega), fld_ofNat _ 9 4 u lt (by omega)]) wfd own

theorem mrnd (tk t c s r) : Statement (.mrnd tk t c s r) := by
  refine Statement.of rfl ?_
  intro num hfor hx wfd own
  have := tk.isLt; have := t.isLt; have := c.isLt; have := s.isLt; have := r.isLt
  rw [List.sum_cons, List.sum_cons, List.sum_cons, List.sum_cons, List.sum_cons, List.sum_nil] at hx
  have := sh_eq tk 22; have := sh_eq t 18; have := sh_eq c 13; have := sh_eq s 2; have := sh_eq r 0
  have lt : num < 2 ^ 32 := by omega
  exact private_word opMx 0x04 [(14, 4)] lt (by omega) (fun _ => rfl) (fun _ => rfl) (by decide) ⟨by omega, trivial⟩
    (by rw [fld_ofNat _ 22 3 tk lt (by omega), fld_ofNat _ 18 4 t lt (by omega), fld_ofNat _ 13 1 c lt (by omega), fld_ofNat _ 2 11 s lt (by omega), fld_ofNat _ 0 2 r lt (by omega)]) wfd own

theorem mnorm (tk c s) : Statement (.mnorm tk c s) := by
  refine Statement.of rfl ?_
  intro num hfor hx wfd own
  have := tk.isLt; have := c.isLt; have := s.isLt
  rw [List.sum_cons, List.sum_cons, List.sum_cons, List.sum_nil] at hx
  have := sh_eq tk 22; have := sh_eq c 13; have := sh_eq s 2
  have lt : num < 2 ^ 32 := by omega
  exact private_word opMx 0x05 [(0, 2), (14, 8)] lt (by omega) (fun _ => rfl) (fun _ => rfl) (by decide) ⟨by omega, by omega, trivial⟩
    (by rw [fld_ofNat _ 22 3 tk lt (by omega), fld_ofNat _ 13 1 c lt (by omega), fld_ofNat _ 2 11 s lt (by omega)]) wfd own

theorem msave (tk a c s) : Statement (.msave tk a c s) := by
  refine Statement.of rfl ?_
  intro num hfor hx wfd own
  have := tk.isLt; have := a.isLt; have := c.isLt; have := s.isLt
  rw [List.sum_cons, List.sum_cons, List.sum_cons, List.sum_cons, List.sum_nil] at hx
  have := sh_eq tk 22; have := sh_eq a 17; have := sh_eq c 13; have := sh_eq s 2
  have lt : num < 2 ^ 32 := by omega
  exact private_word opMx 0x06 [(0, 2), (14, 3)] lt (by omega) (fun _ => rfl) (fun _ => rfl) (by decide) ⟨by omega, by omega, trivial⟩
    (by rw [fld_ofNat _ 22 3 tk lt (by omega), fld_ofNat _ 17 5 a lt (by omega), fld_ofNat _ 13 1 c lt (by omega), fld_ofNat _ 2 11 s lt (by omega)]) wfd own

theorem mload (tk a c s) : Statement (.mload tk a c s) := by
  refine Statement.of rfl ?_
  intro num hfor hx wfd own
  have := tk.isLt; have := a.isLt; have := c.isLt; have := s.isLt
  rw [List.sum_cons, List.sum_cons, List.sum_cons, List.sum_cons, List.sum_nil] at hx
  have := sh_eq tk 22; have := sh_eq a 17; have := sh_eq c 13; have := sh_eq s 2
  have lt : num < 2 ^ 32 := by omega
  exact private_word opMx 0x07 [(0, 2), (14, 3)] lt (by omega) (fun _ => rfl) (fun _ => rfl) (by decide) ⟨by omega, by omega, trivial⟩
    (by rw [fld_ofNat _ 22 3 tk lt (by omega), fld_ofNat _ 17 5 a lt (by omega), fld_ofNat _ 13 1 c lt (by omega), fld_ofNat _ 2 11 s lt (by omega)]) wfd own

theorem mtd (tk t a b) : Statement (.mtd tk t a b) := by
  refine Statement.of rfl ?_
  intro num hfor hx wfd own
  have := tk.isLt; have := t.isLt; have := a.isLt; have := b.isLt
  rw [List.sum_cons, List.sum_cons, List.sum_cons, List.sum_cons, List.sum_nil] at hx
  have := sh_eq tk 22; have := sh_eq t 18; have := sh_eq a 13; have := sh_eq b 8
  have lt : num < 2 ^ 32 := by omega
  exact private_word opMx 0x08 [(0, 8)] lt (by omega) (fun _ => rfl) (fun _ => rfl) (by decide) ⟨by omega, trivial⟩
    (by rw [fld_ofNat _ 22 3 tk lt (by omega), fld_ofNat _ 18 4 t lt (by omega), fld_ofNat _ 13 5 a lt (by omega), fld_ofNat _ 8 5 b lt (by omega)]) wfd own

theorem mstb (tk a f) : Statement (.mstb tk a f) := by
  refine Statement.of rfl ?_
  intro num hfor hx wfd own
  have := tk.isLt; have := a.isLt; have := f.isLt
  rw [List.sum_cons, List.sum_cons, List.sum_cons, List.sum_nil] at hx
  have := sh_eq tk 22; have := sh_eq a 17; have := sh_eq f 0
  have lt : num < 2 ^ 32 := by omega
  exact private_word opMx 0x09 [(1, 16)] lt (by omega) (fun _ => rfl) (fun _ => rfl) (by decide) ⟨by omega, trivial⟩
    (by rw [fld_ofNat _ 22 3 tk lt (by omega), fld_ofNat _ 17 5 a lt (by omega), fld_ofNat _ 0 1 f lt (by omega)]) wfd own

theorem mtbl (tk a s) : Statement (.mtbl tk a s) := by
  refine Statement.of rfl ?_
  intro num hfor hx wfd own
  have := tk.isLt; have := a.isLt; have := s.isLt
  rw [List.sum_cons, List.sum_cons, List.sum_cons, List.sum_nil] at hx
  have := sh_eq tk 22; have := sh_eq a 17; have := sh_eq s 2
  have lt : num < 2 ^ 32 := by omega
  exact private_word opMx 0x0A [(0, 2), (13, 4)] lt (by omega) (fun _ => rfl) (fun _ => rfl) (by decide) ⟨by omega, by omega, trivial⟩
    (by rw [fld_ofNat _ 22 3 tk lt (by omega), fld_ofNat _ 17 5 a lt (by omega), fld_ofNat _ 2 11 s lt (by omega)]) wfd own

theorem mxpt (tk t g c s) : Statement (.mxpt tk t g c s) := by
  refine Statement.of rfl ?_
  intro num hfor hx wfd own
  have := tk.isLt; have := t.isLt; have := g.isLt; have := c.isLt; have := s.isLt
  rw [List.sum_cons, List.sum_cons, List.sum_cons, List.sum_cons, List.sum_cons, List.sum_nil] at hx
  have := sh_eq tk 22; have := sh_eq t 18; have := sh_eq g 14; have := sh_eq c 13; have := sh_eq s 2
  have lt : num < 2 ^ 32 := by omega
  exact private_word opMx 0x0B [(0, 2)] lt (by omega) (fun _ => rfl) (fun _ => rfl) (by decide) ⟨by omega, trivial⟩
    (by rw [fld_ofNat _ 22 3 tk lt (by omega), fld_ofNat _ 18 4 t lt (by omega), fld_ofNat _ 14 4 g lt (by omega), fld_ofNat _ 13 1 c lt (by omega), fld_ofNat _ 2 11 s lt (by omega)]) wfd own

theorem mxOccupancyEnd (x0) : Statement (.mxOccupancyEnd x0) := nofun

theorem vadd (tk d a b u s) : Statement (.vadd tk d a b u s) := by
  refine Statement.of rfl ?_
  intro num hfor hx wfd own
  have := tk.isLt; have := d.isLt; have := a.isLt; have := b.isLt; have := u.isLt; have := s.isLt
  rw [List.sum_cons, List.sum_cons, List.sum_cons, List.sum_cons, List.sum_cons, List.sum_cons, List.sum_nil] at hx
  have := sh_eq tk 22; have := sh_eq d 17; have := sh_eq a 12; have := sh_eq b 7; have := sh_eq u 1; have := sh_eq s 0
  have lt : num < 2 ^ 32 := by omega
  exact private_word opVe 0x00 [(2, 5)] lt (by omega) (fun _ => rfl) (fun _ => rfl) (by decide) ⟨by omega, trivial⟩
    (by rw [fld_ofNat _ 22 3 tk lt (by omega), fld_ofNat _ 17 5 d lt (by omega), fld_ofNat _ 12 5 a lt (by omega), fld_ofNat _ 7 5 b lt (by omega), fld_ofNat _ 1 1 u lt (by omega), fld_ofNat _ 0 1 s lt (by omega)]) wfd own

theorem vsub (tk d a b u s) : Statement (.vsub tk d a b u s) := by
  refine Statement.of rfl ?_
  intro num hfor hx wfd own
  have := tk.isLt; have := d.isLt; have := a.isLt; have := b.isLt; have := u.isLt; have := s.isLt
  rw [List.sum_cons, List.sum_cons, List.sum_cons, List.sum_cons, List.sum_cons, List.sum_cons, List.sum_nil] at hx
  have := sh_eq tk 22; have := sh_eq d 17; have := sh_eq a 12; have := sh_eq b 7; have := sh_eq u 1; have := sh_eq s 0
  have lt : num < 2 ^ 32 := by omega
  exact private_word opVe 0x01 [(2, 5)] lt (by omega) (fun _ => rfl) (fun _ => rfl) (by decide) ⟨by omega, trivial⟩
    (by rw [fld_ofNat _ 22 3 tk lt (by omega), fld_ofNat _ 17 5 d lt (by omega), fld_ofNat _ 12 5 a lt (by omega), fld_ofNat _ 7 5 b lt (by omega), fld_ofNat _ 1 1 u lt (by omega), fld_ofNat _ 0 1 s lt (by omega)]) wfd own

theorem vmul (tk d a b h u s) : Statement (.vmul tk d a b h u s) := by
  refine Statement.of rfl ?_
  intro num hfor hx wfd own
  have := tk.isLt; have := d.isLt; have := a.isLt; have := b.isLt; have := h.isLt; have := u.isLt; have := s.isLt
  rw [List.sum_cons, List.sum_cons, List.sum_cons, List.sum_cons, List.sum_cons, List.sum_cons, List.sum_cons, List.sum_nil] at hx
  have := sh_eq tk 22; have := sh_eq d 17; have := sh_eq a 12; have := sh_eq b 7; have := sh_eq h 2; have := sh_eq u 1; have := sh_eq s 0
  have lt : num < 2 ^ 32 := by omega
  exact private_word opVe 0x02 [(3, 4)] lt (by omega) (fun _ => rfl) (fun _ => rfl) (by decide) ⟨by omega, trivial⟩
    (by rw [fld_ofNat _ 22 3 tk lt (by omega), fld_ofNat _ 17 5 d lt (by omega), fld_ofNat _ 12 5 a lt (by omega), fld_ofNat _ 7 5 b lt (by omega), fld_ofNat _ 2 1 h lt (by omega), fld_ofNat _ 1 1 u lt (by omega), fld_ofNat _ 0 1 s lt (by omega)]) wfd own

theorem vmad (tk d a b u s) : Statement (.vmad tk d a b u s) := by
  refine Statement.of rfl ?_
  intro num hfor hx wfd own
  have := tk.isLt; have := d.isLt; have := a.isLt; have := b.isLt; have := u.isLt; have := s.isLt
  rw [List.sum_cons, List.sum_cons, List.sum_cons, List.sum_cons, List.sum_cons, List.sum_cons, List.sum_nil] at hx
  have := sh_eq tk 22; have := sh_eq d 17; have := sh_eq a 12; have := sh_eq b 7; have := sh_eq u 1; have := sh_eq s 0
  have lt : num < 2 ^ 32 := by omega
  exact private_word opVe 0x03 [(2, 5)] lt (by omega) (fun _ => rfl) (fun _ => rfl) (by decide) ⟨by omega, trivial⟩
    (by rw [fld_ofNat _ 22 3 tk lt (by omega), fld_ofNat _ 17 5 d lt (by omega), fld_ofNat _ 12 5 a lt (by omega), fld_ofNat _ 7 5 b lt (by omega), fld_ofNat _ 1 1 u lt (by omega), fld_ofNat _ 0 1 s lt (by omega)]) wfd own

theorem vmin (tk d a b u) : Statement (.vmin tk d a b u) := by
  refine Statement.of rfl ?_
  intro num hfor hx wfd own
  have := tk.isLt; have := d.isLt; have := a.isLt; have := b.isLt; have := u.isLt
  rw [List.sum_cons, List.sum_cons, List.sum_cons, List.sum_cons, List.sum_cons, List.sum_nil] at hx
  have := sh_eq tk 22; have := sh_eq d 17; have := sh_eq a 12; have := sh_eq b 7; have := sh_eq u 1
  have lt : num < 2 ^ 32 := by omega
  exact private_word opVe 0x04 [(0, 1), (2, 5)] lt (by omega) (fun _ => rfl) (fun _ => rfl) (by decide) ⟨by omega, by omega, trivial⟩
    (by rw [fld_ofNat _ 22 3 tk lt (by omega), fld_ofNat _ 17 5 d lt (by omega), fld_ofNat _ 12 5 a lt (by omega), fld_ofNat _ 7 5 b lt (by omega), fld_ofNat _ 1 1 u lt (by omega)]) wfd own

theorem vmax (tk d a b u) : Statement (.vmax tk d a b u) := by
  refine Statement.of rfl ?_
  intro num hfor hx wfd own
  have := tk.isLt; have := d.isLt; have := a.isLt; have := b.isLt; have := u.isLt
  rw [List.sum_cons, List.sum_cons, List.sum_cons, List.sum_cons, List.sum_cons, List.sum_nil] at hx
  have := sh_eq tk 22; have := sh_eq d 17; have := sh_eq a 12; have := sh_eq b 7; have := sh_eq u 1
  have lt : num < 2 ^ 32 := by omega
  exact private_word opVe 0x05 [(0, 1), (2, 5)] lt (by omega) (fun _ => rfl) (fun _ => rfl) (by decide) ⟨by omega, by omega, trivial⟩
    (by rw [fld_ofNat _ 22 3 tk lt (by omega), fld_ofNat _ 17 5 d lt (by omega), fld_ofNat _ 12 5 a lt (by omega), fld_ofNat _ 7 5 b lt (by omega), fld_ofNat _ 1 1 u lt (by omega)]) wfd own

theorem vand (tk d a b) : Statement (.vand tk d a b) := by
  refine Statement.of rfl ?_
  intro num hfor hx wfd own
  have := tk.isLt; have := d.isLt; have := a.isLt; have := b.isLt
  rw [List.sum_cons, List.sum_cons, List.sum_cons, List.sum_cons, List.sum_nil] at hx
  have := sh_eq tk 22; have := sh_eq d 17; have := sh_eq a 12; have := sh_eq b 7
  have lt : num < 2 ^ 32 := by omega
  exact private_word opVe 0x06 [(0, 7)] lt (by omega) (fun _ => rfl) (fun _ => rfl) (by decide) ⟨by omega, trivial⟩
    (by rw [fld_ofNat _ 22 3 tk lt (by omega), fld_ofNat _ 17 5 d lt (by omega), fld_ofNat _ 12 5 a lt (by omega), fld_ofNat _ 7 5 b lt (by omega)]) wfd own

theorem vor (tk d a b) : Statement (.vor tk d a b) := by
  refine Statement.of rfl ?_
  intro num hfor hx wfd own
  have := tk.isLt; have := d.isLt; have := a.isLt; have := b.isLt
  rw [List.sum_cons, List.sum_cons, List.sum_cons, List.sum_cons, List.sum_nil] at hx
  have := sh_eq tk 22; have := sh_eq d 17; have := sh_eq a 12; have := sh_eq b 7
  have lt : num < 2 ^ 32 := by omega
  exact private_word opVe 0x07 [(0, 7)] lt (by omega) (fun _ => rfl) (fun _ => rfl) (by decide) ⟨by omega, trivial⟩
    (by rw [fld_ofNat _ 22 3 tk lt (by omega), fld_ofNat _ 17 5 d lt (by omega), fld_ofNat _ 12 5 a lt (by omega), fld_ofNat _ 7 5 b lt (by omega)]) wfd own

theorem vxor (tk d a b) : Statement (.vxor tk d a b) := by
  refine Statement.of rfl ?_
  intro num hfor hx wfd own
  have := tk.isLt; have := d.isLt; have := a.isLt; have := b.isLt
  rw [List.sum_cons, List.sum_cons, List.sum_cons, List.sum_cons, List.sum_nil] at hx
  have := sh_eq tk 22; have := sh_eq d 17; have := sh_eq a 12; have := sh_eq b 7
  have lt : num < 2 ^ 32 := by omega
  exact private_word opVe 0x08 [(0, 7)] lt (by omega) (fun _ => rfl) (fun _ => rfl) (by decide) ⟨by omega, trivial⟩
    (by rw [fld_ofNat _ 22 3 tk lt (by omega), fld_ofNat _ 17 5 d lt (by omega), fld_ofNat _ 12 5 a lt (by omega), fld_ofNat _ 7 5 b lt (by omega)]) wfd own

theorem vshl (tk d a b i n) : Statement (.vshl tk d a b i n) := by
  refine Statement.of rfl ?_
  intro num hfor hx wfd own
  have := tk.isLt; have := d.isLt; have := a.isLt; have := b.isLt; have := i.isLt; have := n.isLt
  rw [List.sum_cons, List.sum_cons, List.sum_cons, List.sum_cons, List.sum_cons, List.sum_cons, List.sum_nil] at hx
  have := sh_eq tk 22; have := sh_eq d 17; have := sh_eq a 12; have := sh_eq b 7; have := sh_eq i 6; have := sh_eq n 0
  have lt : num < 2 ^ 32 := by omega
  exact private_word opVe 0x09 [(5, 1)] lt (by omega) (fun _ => rfl) (fun _ => rfl) (by decide) ⟨by omega, trivial⟩
    (by rw [fld_ofNat _ 22 3 tk lt (by omega), fld_ofNat _ 17 5 d lt (by omega), fld_ofNat _ 12 5 a lt (by omega), fld_ofNat _ 7 5 b lt (by omega), fld_ofNat _ 6 1 i lt (by omega), fld_ofNat _ 0 5 n lt (by omega)]) wfd own

theorem vshr (tk d a b i u n) : Statement (.vshr tk d a b i u n) := by
  refine Statement.of rfl ?_
  intro num hfor hx wfd own
  have := tk.isLt; have := d.isLt; have := a.isLt; have := b.isLt; have := i.isLt; have := u.isLt; have := n.isLt
  rw [List.sum_cons, List.sum_cons, List.sum_cons, List.sum_cons, List.sum_cons, List.sum_cons, List.sum_cons, List.sum_nil] at hx
  have := sh_eq tk 22; have := sh_eq d 17; have := sh_eq a 12; have := sh_eq b 7; have := sh_eq i 6; have := sh_eq u 5; have := sh_eq n 0
  have lt : num < 2 ^ 32 := by omega
  exact private_word opVe 0x0A [] lt (by omega) (fun _ => rfl) (fun _ => rfl) (by decide) trivial
    (by rw [fld_ofNat _ 22 3 tk lt (by omega), fld_ofNat _ 17 5 d lt (by omega), fld_ofNat _ 12 5 a lt (by omega), fld_ofNat _ 7 5 b lt (by omega), fld_ofNat _ 6 1 i lt (by omega), fld_ofNat _ 5 1 u lt (by omega), fld_ofNat _ 0 5 n lt (by omega)]) wfd own

theorem vabs (tk d a s) : Statement (.vabs tk d a s) := by
  refine Statement.of rfl ?_
  intro num hfor hx wfd own
  have := tk.isLt; have := d.isLt; have := a.isLt; have := s.isLt
  rw [List.sum_cons, List.sum_cons, List.sum_cons, List.sum_cons, List.sum_nil] at hx
  have := sh_eq tk 22; have := sh_eq d 17; have := sh_eq a 12; have := sh_eq s 0
  have lt : num < 2 ^ 32 := by omega
  exact private_word opVe 0x0B [(1, 11)] lt (by omega) (fun _ => rfl) (fun _ => rfl) (by decide) ⟨by omega, trivial⟩
    (by rw [fld_ofNat _ 22 3 tk lt (by omega), fld_ofNat _ 17 5 d lt (by omega), fld_ofNat _ 12 5 a lt (by omega), fld_ofNat _ 0 1 s lt (by omega)]) wfd own

theorem vfadd (tk d a b) : Statement (.vfadd tk d a b) := by
  refine Statement.of rfl ?_
  intro num hfor hx wfd own
  have := tk.isLt; have := d.isLt; have := a.isLt; have := b.isLt
  rw [List.sum_cons, List.sum_cons, List.sum_cons, List.sum_cons, List.sum_nil] at hx
  have := sh_eq tk 22; have := sh_eq d 17; have := sh_eq a 12; have := sh_eq b 7
  have lt : num < 2 ^ 32 := by omega
  exact private_word opVe 0x10 [(0, 7)] lt (by omega) (fun _ => rfl) (fun _ => rfl) (by decide) ⟨by omega, trivial⟩
    (by rw [fld_ofNat _ 22 3 tk lt (by omega), fld_ofNat _ 17 5 d lt (by omega), fld_ofNat _ 12 5 a lt (by omega), fld_ofNat _ 7 5 b lt (by omega)]) wfd own

theorem vfsub (tk d a b) : Statement (.vfsub tk d a b) := by
  refine Statement.of rfl ?_
  intro num hfor hx wfd own
  have := tk.isLt; have := d.isLt; have := a.isLt; have := b.isLt
  rw [List.sum_cons, List.sum_cons, List.sum_cons, List.sum_cons, List.sum_nil] at hx
  have := sh_eq tk 22; have := sh_eq d 17; have := sh_eq a 12; have := sh_eq b 7
  have lt : num < 2 ^ 32 := by omega
  exact private_word opVe 0x11 [(0, 7)] lt (by omega) (fun _ => rfl) (fun _ => rfl) (by decide) ⟨by omega, trivial⟩
    (by rw [fld_ofNat _ 22 3 tk lt (by omega), fld_ofNat _ 17 5 d lt (by omega), fld_ofNat _ 12 5 a lt (by omega), fld_ofNat _ 7 5 b lt (by omega)]) wfd own

theorem vfmul (tk d a b) : Statement (.vfmul tk d a b) := by
  refine Statement.of rfl ?_
  intro num hfor hx wfd own
  have := tk.isLt; have := d.isLt; have := a.isLt; have := b.isLt
  rw [List.sum_cons, List.sum_cons, List.sum_cons, List.sum_cons, List.sum_nil] at hx
  have := sh_eq tk 22; have := sh_eq d 17; have := sh_eq a 12; have := sh_eq b 7
  have lt : num < 2 ^ 32 := by omega
  exact private_word opVe 0x12 [(0, 7)] lt (by omega) (fun _ => rfl) (fun _ => rfl) (by decide) ⟨by omega, trivial⟩
    (by rw [fld_ofNat _ 22 3 tk lt (by omega), fld_ofNat _ 17 5 d lt (by omega), fld_ofNat _ 12 5 a lt (by omega), fld_ofNat _ 7 5 b lt (by omega)]) wfd own

theorem vfma (tk d a b na n) : Statement (.vfma tk d a b na n) := by
  refine Statement.of rfl ?_
  intro num hfor hx wfd own
  have := tk.isLt; have := d.isLt; have := a.isLt; have := b.isLt; have := na.isLt; have := n.isLt
  rw [List.sum_cons, List.sum_cons, List.sum_cons, List.sum_cons, List.sum_cons, List.sum_cons, List.sum_nil] at hx
  have := sh_eq tk 22; have := sh_eq d 17; have := sh_eq a 12; have := sh_eq b 7; have := sh_eq na 1; have := sh_eq n 0
  have lt : num < 2 ^ 32 := by omega
  exact private_word opVe 0x13 [(2, 5)] lt (by omega) (fun _ => rfl) (fun _ => rfl) (by decide) ⟨by omega, trivial⟩
    (by rw [fld_ofNat _ 22 3 tk lt (by omega), fld_ofNat _ 17 5 d lt (by omega), fld_ofNat _ 12 5 a lt (by omega), fld_ofNat _ 7 5 b lt (by omega), fld_ofNat _ 1 1 na lt (by omega), fld_ofNat _ 0 1 n lt (by omega)]) wfd own

theorem vfmax (tk d a b) : Statement (.vfmax tk d a b) := by
  refine Statement.of rfl ?_
  intro num hfor hx wfd own
  have := tk.isLt; have := d.isLt; have := a.isLt; have := b.isLt
  rw [List.sum_cons, List.sum_cons, List.sum_cons, List.sum_cons, List.sum_nil] at hx
  have := sh_eq tk 22; have := sh_eq d 17; have := sh_eq a 12; have := sh_eq b 7
  have lt : num < 2 ^ 32 := by omega
  exact private_word opVe 0x14 [(0, 7)] lt (by omega) (fun _ => rfl) (fun _ => rfl) (by decide) ⟨by omega, trivial⟩
    (by rw [fld_ofNat _ 22 3 tk lt (by omega), fld_ofNat _ 17 5 d lt (by omega), fld_ofNat _ 12 5 a lt (by omega), fld_ofNat _ 7 5 b lt (by omega)]) wfd own

theorem vfmin (tk d a b) : Statement (.vfmin tk d a b) := by
  refine Statement.of rfl ?_
  intro num hfor hx wfd own
  have := tk.isLt; have := d.isLt; have := a.isLt; have := b.isLt
  rw [List.sum_cons, List.sum_cons, List.sum_cons, List.sum_cons, List.sum_nil] at hx
  have := sh_eq tk 22; have := sh_eq d 17; have := sh_eq a 12; have := sh_eq b 7
  have lt : num < 2 ^ 32 := by omega
  exact private_word opVe 0x15 [(0, 7)] lt (by omega) (fun _ => rfl) (fun _ => rfl) (by decide) ⟨by omega, trivial⟩
    (by rw [fld_ofNat _ 22 3 tk lt (by omega), fld_ofNat _ 17 5 d lt (by omega), fld_ofNat _ 12 5 a lt (by omega), fld_ofNat _ 7 5 b lt (by omega)]) wfd own

theorem vsfn (tk d a f) : Statement (.vsfn tk d a f) := by
  refine Statement.of rfl ?_
  intro num hfor hx wfd own
  have := tk.isLt; have := d.isLt; have := a.isLt; have := f.isLt
  rw [List.sum_cons, List.sum_cons, List.sum_cons, List.sum_cons, List.sum_nil] at hx
  have := sh_eq tk 22; have := sh_eq d 17; have := sh_eq a 12; have := sh_eq f 0
  have lt : num < 2 ^ 32 := by omega
  exact private_word opVe 0x16 [(4, 8)] lt (by omega) (fun _ => rfl) (fun _ => rfl) (by decide) ⟨by omega, trivial⟩
    (by rw [fld_ofNat _ 22 3 tk lt (by omega), fld_ofNat _ 17 5 d lt (by omega), fld_ofNat _ 12 5 a lt (by omega), fld_ofNat _ 0 4 f lt (by omega)]) wfd own

theorem vcvt (tk d a p s) : Statement (.vcvt tk d a p s) := by
  refine Statement.of rfl ?_
  intro num hfor hx wfd own
  have := tk.isLt; have := d.isLt; have := a.isLt; have := p.isLt; have := s.isLt
  rw [List.sum_cons, List.sum_cons, List.sum_cons, List.sum_cons, List.sum_cons, List.sum_nil] at hx
  have := sh_eq tk 22; have := sh_eq d 17; have := sh_eq a 12; have := sh_eq p 4; have := sh_eq s 0
  have lt : num < 2 ^ 32 := by omega
  exact private_word opVe 0x18 [(6, 6)] lt (by omega) (fun _ => rfl) (fun _ => rfl) (by decide) ⟨by omega, trivial⟩
    (by rw [fld_ofNat _ 22 3 tk lt (by omega), fld_ofNat _ 17 5 d lt (by omega), fld_ofNat _ 12 5 a lt (by omega), fld_ofNat _ 4 2 p lt (by omega), fld_ofNat _ 0 4 s lt (by omega)]) wfd own

theorem vqnt (tk d a b m p) : Statement (.vqnt tk d a b m p) := by
  refine Statement.of rfl ?_
  intro num hfor hx wfd own
  have := tk.isLt; have := d.isLt; have := a.isLt; have := b.isLt; have := m.isLt; have := p.isLt
  rw [List.sum_cons, List.sum_cons, List.sum_cons, List.sum_cons, List.sum_cons, List.sum_cons, List.sum_nil] at hx
  have := sh_eq tk 22; have := sh_eq d 17; have := sh_eq a 12; have := sh_eq b 7; have := sh_eq m 2; have := sh_eq p 0
  have lt : num < 2 ^ 32 := by omega
  exact private_word opVe 0x19 [(4, 3)] lt (by omega) (fun _ => rfl) (fun _ => rfl) (by decide) ⟨by omega, trivial⟩
    (by rw [fld_ofNat _ 22 3 tk lt (by omega), fld_ofNat _ 17 5 d lt (by omega), fld_ofNat _ 12 5 a lt (by omega), fld_ofNat _ 7 5 b lt (by omega), fld_ofNat _ 2 2 m lt (by omega), fld_ofNat _ 0 2 p lt (by omega)]) wfd own

theorem vdq (tk d a b p) : Statement (.vdq tk d a b p) := by
  refine Statement.of rfl ?_
  intro num hfor hx wfd own
  have := tk.isLt; have := d.isLt; have := a.isLt; have := b.isLt; have := p.isLt
  rw [List.sum_cons, List.sum_cons, List.sum_cons, List.sum_cons, List.sum_cons, List.sum_nil] at hx
  have := sh_eq tk 22; have := sh_eq d 17; have := sh_eq a 12; have := sh_eq b 7; have := sh_eq p 0
  have lt : num < 2 ^ 32 := by omega
  exact private_word opVe 0x1A [(2, 5)] lt (by omega) (fun _ => rfl) (fun _ => rfl) (by decide) ⟨by omega, trivial⟩
    (by rw [fld_ofNat _ 22 3 tk lt (by omega), fld_ofNat _ 17 5 d lt (by omega), fld_ofNat _ 12 5 a lt (by omega), fld_ofNat _ 7 5 b lt (by omega), fld_ofNat _ 0 2 p lt (by omega)]) wfd own

theorem vred (tk d a o) : Statement (.vred tk d a o) := by
  refine Statement.of rfl ?_
  intro num hfor hx wfd own
  have := tk.isLt; have := d.isLt; have := a.isLt; have := o.isLt
  rw [List.sum_cons, List.sum_cons, List.sum_cons, List.sum_cons, List.sum_nil] at hx
  have := sh_eq tk 22; have := sh_eq d 17; have := sh_eq a 12; have := sh_eq o 0
  have lt : num < 2 ^ 32 := by omega
  exact private_word opVe 0x1B [(3, 9)] lt (by omega) (fun _ => rfl) (fun _ => rfl) (by decide) ⟨by omega, trivial⟩
    (by rw [fld_ofNat _ 22 3 tk lt (by omega), fld_ofNat _ 17 5 d lt (by omega), fld_ofNat _ 12 5 a lt (by omega), fld_ofNat _ 0 3 o lt (by omega)]) wfd own

theorem vshuf (tk d a b z) : Statement (.vshuf tk d a b z) := by
  refine Statement.of rfl ?_
  intro num hfor hx wfd own
  have := tk.isLt; have := d.isLt; have := a.isLt; have := b.isLt; have := z.isLt
  rw [List.sum_cons, List.sum_cons, List.sum_cons, List.sum_cons, List.sum_cons, List.sum_nil] at hx
  have := sh_eq tk 22; have := sh_eq d 17; have := sh_eq a 12; have := sh_eq b 7; have := sh_eq z 0
  have lt : num < 2 ^ 32 := by omega
  exact private_word opVe 0x1C [(1, 6)] lt (by omega) (fun _ => rfl) (fun _ => rfl) (by decide) ⟨by omega, trivial⟩
    (by rw [fld_ofNat _ 22 3 tk lt (by omega), fld_ofNat _ 17 5 d lt (by omega), fld_ofNat _ 12 5 a lt (by omega), fld_ofNat _ 7 5 b lt (by omega), fld_ofNat _ 0 1 z lt (by omega)]) wfd own

theorem vsel (tk d a b) : Statement (.vsel tk d a b) := by
  refine Statement.of rfl ?_
  intro num hfor hx wfd own
  have := tk.isLt; have := d.isLt; have := a.isLt; have := b.isLt
  rw [List.sum_cons, List.sum_cons, List.sum_cons, List.sum_cons, List.sum_nil] at hx
  have := sh_eq tk 22; have := sh_eq d 17; have := sh_eq a 12; have := sh_eq b 7
  have lt : num < 2 ^ 32 := by omega
  exact private_word opVe 0x1D [(0, 7)] lt (by omega) (fun _ => rfl) (fun _ => rfl) (by decide) ⟨by omega, trivial⟩
    (by rw [fld_ofNat _ 22 3 tk lt (by omega), fld_ofNat _ 17 5 d lt (by omega), fld_ofNat _ 12 5 a lt (by omega), fld_ofNat _ 7 5 b lt (by omega)]) wfd own

theorem vcmp (tk d a b u c) : Statement (.vcmp tk d a b u c) := by
  refine Statement.of rfl ?_
  intro num hfor hx wfd own
  have := tk.isLt; have := d.isLt; have := a.isLt; have := b.isLt; have := u.isLt; have := c.isLt
  rw [List.sum_cons, List.sum_cons, List.sum_cons, List.sum_cons, List.sum_cons, List.sum_cons, List.sum_nil] at hx
  have := sh_eq tk 22; have := sh_eq d 17; have := sh_eq a 12; have := sh_eq b 7; have := sh_eq u 3; have := sh_eq c 0
  have lt : num < 2 ^ 32 := by omega
  exact private_word opVe 0x1E [(4, 3)] lt (by omega) (fun _ => rfl) (fun _ => rfl) (by decide) ⟨by omega, trivial⟩
    (by rw [fld_ofNat _ 22 3 tk lt (by omega), fld_ofNat _ 17 5 d lt (by omega), fld_ofNat _ 12 5 a lt (by omega), fld_ofNat _ 7 5 b lt (by omega), fld_ofNat _ 3 1 u lt (by omega), fld_ofNat _ 0 3 c lt (by omega)]) wfd own

theorem vimm (tk d i) : Statement (.vimm tk d i) := by
  refine Statement.of rfl ?_
  intro num hfor hx wfd own
  have := tk.isLt; have := d.isLt; have := i.isLt
  rw [List.sum_cons, List.sum_cons, List.sum_cons, List.sum_nil] at hx
  have := sh_eq tk 22; have := sh_eq d 17; have := sh_eq i 0
  have lt : num < 2 ^ 32 := by omega
  exact private_word opVe 0x1F [(16, 1)] lt (by omega) (fun _ => rfl) (fun _ => rfl) (by decide) ⟨by omega, trivial⟩
    (by rw [fld_ofNat _ 22 3 tk lt (by omega), fld_ofNat _ 17 5 d lt (by omega), fld_ofNat _ 0 16 i lt (by omega)]) wfd own

theorem vmpush (tk a) : Statement (.vmpush tk a) := by
  refine Statement.of rfl ?_
  intro num hfor hx wfd own
  have := tk.isLt; have := a.isLt
  rw [List.sum_cons, List.sum_cons, List.sum_nil] at hx
  have := sh_eq tk 22; have := sh_eq a 12
  have lt : num < 2 ^ 32 := by omega
  exact private_word opVe 0x20 [(0, 12), (17, 5)] lt (by omega) (fun _ => rfl) (fun _ => rfl) (by decide) ⟨by omega, by omega, trivial⟩
    (by rw [fld_ofNat _ 22 3 tk lt (by omega), fld_ofNat _ 12 5 a lt (by omega)]) wfd own

theorem vminv (tk) : Statement (.vminv tk) := by
  refine Statement.of rfl ?_
  intro num hfor hx wfd own
  have := tk.isLt
  rw [List.sum_cons, List.sum_nil] at hx
  have := sh_eq tk 22
  have lt : num < 2 ^ 32 := by omega
  exact private_word opVe 0x21 [(0, 22)] lt (by omega) (fun _ => rfl) (fun _ => rfl) (by decide) ⟨by omega, trivial⟩
    (by rw [fld_ofNat _ 22 3 tk lt (by omega)]) wfd own

theorem vmpop (tk) : Statement (.vmpop tk) := by
  refine Statement.of rfl ?_
  intro num hfor hx wfd own
  have := tk.isLt
  rw [List.sum_cons, List.sum_nil] at hx
  have := sh_eq tk 22
  have lt : num < 2 ^ 32 := by omega
  exact private_word opVe 0x22 [(0, 22)] lt (by omega) (fun _ => rfl) (fun _ => rfl) (by decide) ⟨by omega, trivial⟩
    (by rw [fld_ofNat _ 22 3 tk lt (by omega)]) wfd own

theorem vbmz (tk o) : Statement (.vbmz tk o) := by
  refine Statement.of rfl ?_
  intro num hfor hx wfd own
  have := tk.isLt; have := o.isLt
  rw [List.sum_cons, List.sum_cons, List.sum_nil] at hx
  have := sh_eq tk 22; have := sh_eq o 0
  have lt : num < 2 ^ 32 := by omega
  exact private_word opVe 0x23 [] lt (by omega) (fun _ => rfl) (fun _ => rfl) (by decide) trivial
    (by rw [fld_ofNat _ 22 3 tk lt (by omega), fld_ofNat _ 0 22 o lt (by omega)]) wfd own

theorem vget (tk d a b s) : Statement (.vget tk d a b s) := by
  refine Statement.of rfl ?_
  intro num hfor hx wfd own
  have := tk.isLt; have := d.isLt; have := a.isLt; have := b.isLt; have := s.isLt
  rw [List.sum_cons, List.sum_cons, List.sum_cons, List.sum_cons, List.sum_cons, List.sum_nil] at hx
  have := sh_eq tk 22; have := sh_eq d 17; have := sh_eq a 12; have := sh_eq b 7; have := sh_eq s 0
  have lt : num < 2 ^ 32 := by omega
  exact private_word opVe 0x24 [(1, 6)] lt (by omega) (fun _ => rfl) (fun _ => rfl) (by decide) ⟨by omega, trivial⟩
    (by rw [fld_ofNat _ 22 3 tk lt (by omega), fld_ofNat _ 17 5 d lt (by omega), fld_ofNat _ 12 5 a lt (by omega), fld_ofNat _ 7 5 b lt (by omega), fld_ofNat _ 0 1 s lt (by omega)]) wfd own

theorem vput (tk d a b) : Statement (.vput tk d a b) := by
  refine Statement.of rfl ?_
  intro num hfor hx wfd own
  have := tk.isLt; have := d.isLt; have := a.isLt; have := b.isLt
  rw [List.sum_cons, List.sum_cons, List.sum_cons, List.sum_cons, List.sum_nil] at hx
  have := sh_eq tk 22; have := sh_eq d 17; have := sh_eq a 12; have := sh_eq b 7
  have lt : num < 2 ^ 32 := by omega
  exact private_word opVe 0x25 [(0, 7)] lt (by omega) (fun _ => rfl) (fun _ => rfl) (by decide) ⟨by omega, trivial⟩
    (by rw [fld_ofNat _ 22 3 tk lt (by omega), fld_ofNat _ 17 5 d lt (by omega), fld_ofNat _ 12 5 a lt (by omega), fld_ofNat _ 7 5 b lt (by omega)]) wfd own

theorem vscan (tk d a x) : Statement (.vscan tk d a x) := by
  refine Statement.of rfl ?_
  intro num hfor hx wfd own
  have := tk.isLt; have := d.isLt; have := a.isLt; have := x.isLt
  rw [List.sum_cons, List.sum_cons, List.sum_cons, List.sum_cons, List.sum_nil] at hx
  have := sh_eq tk 22; have := sh_eq d 17; have := sh_eq a 12; have := sh_eq x 0
  have lt : num < 2 ^ 32 := by omega
  exact private_word opVe 0x26 [(1, 11)] lt (by omega) (fun _ => rfl) (fun _ => rfl) (by decide) ⟨by omega, trivial⟩
    (by rw [fld_ofNat _ 22 3 tk lt (by omega), fld_ofNat _ 17 5 d lt (by omega), fld_ofNat _ 12 5 a lt (by omega), fld_ofNat _ 0 1 x lt (by omega)]) wfd own

theorem vcfg (tk c r t) : Statement (.vcfg tk c r t) := by
  refine Statement.of rfl ?_
  intro num hfor hx wfd own
  have := tk.isLt; have := c.isLt; have := r.isLt; have := t.isLt
  rw [List.sum_cons, List.sum_cons, List.sum_cons, List.sum_cons, List.sum_nil] at hx
  have := sh_eq tk 22; have := sh_eq c 6; have := sh_eq r 4; have := sh_eq t 0
  have lt : num < 2 ^ 32 := by omega
  exact private_word opVe 0x27 [(7, 15)] lt (by omega) (fun _ => rfl) (fun _ => rfl) (by decide) ⟨by omega, trivial⟩
    (by rw [fld_ofNat _ 22 3 tk lt (by omega), fld_ofNat _ 6 1 c lt (by omega), fld_ofNat _ 4 2 r lt (by omega), fld_ofNat _ 0 4 t lt (by omega)]) wfd own

theorem vld (tk h a o) : Statement (.vld tk h a o) := by
  refine Statement.of rfl ?_
  intro num hfor hx wfd own
  have := tk.isLt; have := h.isLt; have := a.isLt; have := o.isLt
  rw [List.sum_cons, List.sum_cons, List.sum_cons, List.sum_cons, List.sum_nil] at hx
  have := sh_eq tk 22; have := sh_eq h 18; have := sh_eq a 13; have := sh_eq o 0
  have lt : num < 2 ^ 32 := by omega
  exact private_word opVl 0x00 [] lt (by omega) (fun _ => rfl) (fun _ => rfl) (by decide) trivial
    (by rw [fld_ofNat _ 22 3 tk lt (by omega), fld_ofNat _ 18 4 h lt (by omega), fld_ofNat _ 13 5 a lt (by omega), fld_ofNat _ 0 13 o lt (by omega)]) wfd own

theorem vldh (tk h a b e c) : Statement (.vldh tk h a b e c) := by
  refine Statement.of rfl ?_
  intro num hfor hx wfd own
  have := tk.isLt; have := h.isLt; have := a.isLt; have := b.isLt; have := e.isLt; have := c.isLt
  rw [List.sum_cons, List.sum_cons, List.sum_cons, List.sum_cons, List.sum_cons, List.sum_cons, List.sum_nil] at hx
  have := sh_eq tk 22; have := sh_eq h 18; have := sh_eq a 13; have := sh_eq b 8; have := sh_eq e 6; have := sh_eq c 0
  have lt : num < 2 ^ 32 := by omega
  exact private_word opVl 0x01 [] lt (by omega) (fun _ => rfl) (fun _ => rfl) (by decide) trivial
    (by rw [fld_ofNat _ 22 3 tk lt (by omega), fld_ofNat _ 18 4 h lt (by omega), fld_ofNat _ 13 5 a lt (by omega), fld_ofNat _ 8 5 b lt (by omega), fld_ofNat _ 6 2 e lt (by omega), fld_ofNat _ 0 6 c lt (by omega)]) wfd own

theorem vst (tk h a o) : Statement (.vst tk h a o) := by
  refine Statement.of rfl ?_
  intro num hfor hx wfd own
  have := tk.isLt; have := h.isLt; have := a.isLt; have := o.isLt
  rw [List.sum_cons, List.sum_cons, List.sum_cons, List.sum_cons, List.sum_nil] at hx
  have := sh_eq tk 22; have := sh_eq h 18; have := sh_eq a 13; have := sh_eq o 0
  have lt : num < 2 ^ 32 := by omega
  exact private_word opVl 0x02 [] lt (by omega) (fun _ => rfl) (fun _ => rfl) (by decide) trivial
    (by rw [fld_ofNat _ 22 3 tk lt (by omega), fld_ofNat _ 18 4 h lt (by omega), fld_ofNat _ 13 5 a lt (by omega), fld_ofNat _ 0 13 o lt (by omega)]) wfd own

theorem vsth (tk h a b e c) : Statement (.vsth tk h a b e c) := by
  refine Statement.of rfl ?_
  intro num hfor hx wfd own
  have := tk.isLt; have := h.isLt; have := a.isLt; have := b.isLt; have := e.isLt; have := c.isLt
  rw [List.sum_cons, List.sum_cons, List.sum_cons, List.sum_cons, List.sum_cons, List.sum_cons, List.sum_nil] at hx
  have := sh_eq tk 22; have := sh_eq h 18; have := sh_eq a 13; have := sh_eq b 8; have := sh_eq e 6; have := sh_eq c 0
  have lt : num < 2 ^ 32 := by omega
  exact private_word opVl 0x03 [] lt (by omega) (fun _ => rfl) (fun _ => rfl) (by decide) trivial
    (by rw [fld_ofNat _ 22 3 tk lt (by omega), fld_ofNat _ 18 4 h lt (by omega), fld_ofNat _ 13 5 a lt (by omega), fld_ofNat _ 8 5 b lt (by omega), fld_ofNat _ 6 2 e lt (by omega), fld_ofNat _ 0 6 c lt (by omega)]) wfd own

theorem vgth (tk h a e) : Statement (.vgth tk h a e) := by
  refine Statement.of rfl ?_
  intro num hfor hx wfd own
  have := tk.isLt; have := h.isLt; have := a.isLt; have := e.isLt
  rw [List.sum_cons, List.sum_cons, List.sum_cons, List.sum_cons, List.sum_nil] at hx
  have := sh_eq tk 22; have := sh_eq h 18; have := sh_eq a 13; have := sh_eq e 11
  have lt : num < 2 ^ 32 := by omega
  exact private_word opVl 0x04 [(0, 11)] lt (by omega) (fun _ => rfl) (fun _ => rfl) (by decide) ⟨by omega, trivial⟩
    (by rw [fld_ofNat _ 22 3 tk lt (by omega), fld_ofNat _ 18 4 h lt (by omega), fld_ofNat _ 13 5 a lt (by omega), fld_ofNat _ 11 2 e lt (by omega)]) wfd own

theorem vsct (tk h a e) : Statement (.vsct tk h a e) := by
  refine Statement.of rfl ?_
  intro num hfor hx wfd own
  have := tk.isLt; have := h.isLt; have := a.isLt; have := e.isLt
  rw [List.sum_cons, List.sum_cons, List.sum_cons, List.sum_cons, List.sum_nil] at hx
  have := sh_eq tk 22; have := sh_eq h 18; have := sh_eq a 13; have := sh_eq e 11
  have lt : num < 2 ^ 32 := by omega
  exact private_word opVl 0x05 [(0, 11)] lt (by omega) (fun _ => rfl) (fun _ => rfl) (by decide) ⟨by omega, trivial⟩
    (by rw [fld_ofNat _ 22 3 tk lt (by omega), fld_ofNat _ 18 4 h lt (by omega), fld_ofNat _ 13 5 a lt (by omega), fld_ofNat _ 11 2 e lt (by omega)]) wfd own

theorem vldt (tk h a b s) : Statement (.vldt tk h a b s) := by
  refine Statement.of rfl ?_
  intro num hfor hx wfd own
  have := tk.isLt; have := h.isLt; have := a.isLt; have := b.isLt; have := s.isLt
  rw [List.sum_cons, List.sum_cons, List.sum_cons, List.sum_cons, List.sum_cons, List.sum_nil] at hx
  have := sh_eq tk 22; have := sh_eq h 18; have := sh_eq a 13; have := sh_eq b 8; have := sh_eq s 0
  have lt : num < 2 ^ 32 := by omega
  exact private_word opVl 0x06 [(1, 7)] lt (by omega) (fun _ => rfl) (fun _ => rfl) (by decide) ⟨by omega, trivial⟩
    (by rw [fld_ofNat _ 22 3 tk lt (by omega), fld_ofNat _ 18 4 h lt (by omega), fld_ofNat _ 13 5 a lt (by omega), fld_ofNat _ 8 5 b lt (by omega), fld_ofNat _ 0 1 s lt (by omega)]) wfd own

theorem vqsync (tk) : Statement (.vqsync tk) := by
  refine Statement.of rfl ?_
  intro num hfor hx wfd own
  have := tk.isLt
  rw [List.sum_cons, List.sum_nil] at hx
  have := sh_eq tk 22
  have lt : num < 2 ^ 32 := by omega
  exact private_word opVl 0x07 [(0, 22)] lt (by omega) (fun _ => rfl) (fun _ => rfl) (by decide) ⟨by omega, trivial⟩
    (by rw [fld_ofNat _ 22 3 tk lt (by omega)]) wfd own

theorem vlLoadFill (x0 x1) : Statement (.vlLoadFill x0 x1) := nofun

theorem vlStorePerform (x0) : Statement (.vlStorePerform x0) := nofun

theorem cpy (tk p h a q j b) : Statement (.cpy tk p h a q j b) := by
  refine Statement.of rfl ?_
  intro num hfor hx wfd own
  have := tk.isLt; have := p.isLt; have := h.isLt; have := a.isLt; have := q.isLt; have := j.isLt; have := b.isLt
  rw [List.sum_cons, List.sum_cons, List.sum_cons, List.sum_cons, List.sum_cons, List.sum_cons, List.sum_cons, List.sum_nil] at hx
  have := sh_eq tk 22; have := sh_eq p 20; have := sh_eq h 16; have := sh_eq a 11; have := sh_eq q 9; have := sh_eq j 5; have := sh_eq b 0
  have lt : num < 2 ^ 32 := by omega
  exact private_word opCx 0x00 [] lt (by omega) (fun _ => rfl) (fun _ => rfl) (by decide) trivial
    (by rw [fld_ofNat _ 22 3 tk lt (by omega), fld_ofNat _ 20 2 p lt (by omega), fld_ofNat _ 16 4 h lt (by omega), fld_ofNat _ 11 5 a lt (by omega), fld_ofNat _ 9 2 q lt (by omega), fld_ofNat _ 5 4 j lt (by omega), fld_ofNat _ 0 5 b lt (by omega)]) wfd own

theorem cpy3 (tk p h a q j b) : Statement (.cpy3 tk p h a q j b) := by
  refine Statement.of rfl ?_
  intro num hfor hx wfd own
  have := tk.isLt; have := p.isLt; have := h.isLt; have := a.isLt; have := q.isLt; have := j.isLt; have := b.isLt
  rw [List.sum_cons, List.sum_cons, List.sum_cons, List.sum_cons, List.sum_cons, List.sum_cons, List.sum_cons, List.sum_nil] at hx
  have := sh_eq tk 22; have := sh_eq p 20; have := sh_eq h 16; have := sh_eq a 11; have := sh_eq q 9; have := sh_eq j 5; have := sh_eq b 0
  have lt : num < 2 ^ 32 := by omega
  exact private_word opCx 0x01 [] lt (by omega) (fun _ => rfl) (fun _ => rfl) (by decide) trivial
    (by rw [fld_ofNat _ 22 3 tk lt (by omega), fld_ofNat _ 20 2 p lt (by omega), fld_ofNat _ 16 4 h lt (by omega), fld_ofNat _ 11 5 a lt (by omega), fld_ofNat _ 9 2 q lt (by omega), fld_ofNat _ 5 4 j lt (by omega), fld_ofNat _ 0 5 b lt (by omega)]) wfd own

theorem cpyenc (tk a) : Statement (.cpyenc tk a) := by
  refine Statement.of rfl ?_
  intro num hfor hx wfd own
  have := tk.isLt; have := a.isLt
  rw [List.sum_cons, List.sum_cons, List.sum_nil] at hx
  have := sh_eq tk 22; have := sh_eq a 17
  have lt : num < 2 ^ 32 := by omega
  exact private_word opCx 0x02 [(0, 17)] lt (by omega) (fun _ => rfl) (fun _ => rfl) (by decide) ⟨by omega, trivial⟩
    (by rw [fld_ofNat _ 22 3 tk lt (by omega), fld_ofNat _ 17 5 a lt (by omega)]) wfd own

theorem cfill (tk p h a b) : Statement (.cfill tk p h a b) := by
  refine Statement.of rfl ?_
  intro num hfor hx wfd own
  have := tk.isLt; have := p.isLt; have := h.isLt; have := a.isLt; have := b.isLt
  rw [List.sum_cons, List.sum_cons, List.sum_cons, List.sum_cons, List.sum_cons, List.sum_nil] at hx
  have := sh_eq tk 22; have := sh_eq p 20; have := sh_eq h 16; have := sh_eq a 11; have := sh_eq b 0
  have lt : num < 2 ^ 32 := by omega
  exact private_word opCx 0x03 [(5, 6)] lt (by omega) (fun _ => rfl) (fun _ => rfl) (by decide) ⟨by omega, trivial⟩
    (by rw [fld_ofNat _ 22 3 tk lt (by omega), fld_ofNat _ 20 2 p lt (by omega), fld_ofNat _ 16 4 h lt (by omega), fld_ofNat _ 11 5 a lt (by omega), fld_ofNat _ 0 5 b lt (by omega)]) wfd own

theorem crmt (tk a q j b) : Statement (.crmt tk a q j b) := by
  refine Statement.of rfl ?_
  intro num hfor hx wfd own
  have := tk.isLt; have := a.isLt; have := q.isLt; have := j.isLt; have := b.isLt
  rw [List.sum_cons, List.sum_cons, List.sum_cons, List.sum_cons, List.sum_cons, List.sum_nil] at hx
  have := sh_eq tk 22; have := sh_eq a 11; have := sh_eq q 9; have := sh_eq j 5; have := sh_eq b 0
  have lt : num < 2 ^ 32 := by omega
  exact private_word opCx 0x04 [(16, 6)] lt (by omega) (fun _ => rfl) (fun _ => rfl) (by decide) ⟨by omega, trivial⟩
    (by rw [fld_ofNat _ 22 3 tk lt (by omega), fld_ofNat _ 11 5 a lt (by omega), fld_ofNat _ 9 2 q lt (by omega), fld_ofNat _ 5 4 j lt (by omega), fld_ofNat _ 0 5 b lt (by omega)]) wfd own

theorem cfetch (tk h a b) : Statement (.cfetch tk h a b) := by
  refine Statement.of rfl ?_
  intro num hfor hx wfd own
  have := tk.isLt; have := h.isLt; have := a.isLt; have := b.isLt
  rw [List.sum_cons, List.sum_cons, List.sum_cons, List.sum_cons, List.sum_nil] at hx
  have := sh_eq tk 22; have := sh_eq h 18; have := sh_eq a 13; have := sh_eq b 8
  have lt : num < 2 ^ 32 := by omega
  exact private_word opCx 0x05 [(0, 8)] lt (by omega) (fun _ => rfl) (fun _ => rfl) (by decide) ⟨by omega, trivial⟩
    (by rw [fld_ofNat _ 22 3 tk lt (by omega), fld_ofNat _ 18 4 h lt (by omega), fld_ofNat _ 13 5 a lt (by omega), fld_ofNat _ 8 5 b lt (by omega)]) wfd own

theorem cevict (tk h a b keep) : Statement (.cevict tk h a b keep) := by
  refine Statement.of rfl ?_
  intro num hfor hx wfd own
  have := tk.isLt; have := h.isLt; have := a.isLt; have := b.isLt; have := keep.isLt
  rw [List.sum_cons, List.sum_cons, List.sum_cons, List.sum_cons, List.sum_cons, List.sum_nil] at hx
  have := sh_eq tk 22; have := sh_eq h 18; have := sh_eq a 13; have := sh_eq b 8; have := sh_eq keep 0
  have lt : num < 2 ^ 32 := by omega
  exact private_word opCx 0x06 [(1, 7)] lt (by omega) (fun _ => rfl) (fun _ => rfl) (by decide) ⟨by omega, trivial⟩
    (by rw [fld_ofNat _ 22 3 tk lt (by omega), fld_ofNat _ 18 4 h lt (by omega), fld_ofNat _ 13 5 a lt (by omega), fld_ofNat _ 8 5 b lt (by omega), fld_ofNat _ 0 1 keep lt (by omega)]) wfd own

theorem cxCommandFinish (x0) : Statement (.cxCommandFinish x0) := nofun

theorem nsend (tk h a b s) : Statement (.nsend tk h a b s) := by
  refine Statement.of rfl ?_
  intro num hfor hx wfd own
  have := tk.isLt; have := h.isLt; have := a.isLt; have := b.isLt; have := s.isLt
  rw [List.sum_cons, List.sum_cons, List.sum_cons, List.sum_cons, List.sum_cons, List.sum_nil] at hx
  have := sh_eq tk 22; have := sh_eq h 18; have := sh_eq a 13; have := sh_eq b 8; have := sh_eq s 0
  have lt : num < 2 ^ 32 := by omega
  exact private_word opNx 0x00 [(1, 7)] lt (by omega) (fun _ => rfl) (fun _ => rfl) (by decide) ⟨by omega, trivial⟩
    (by rw [fld_ofNat _ 22 3 tk lt (by omega), fld_ofNat _ 18 4 h lt (by omega), fld_ofNat _ 13 5 a lt (by omega), fld_ofNat _ 8 5 b lt (by omega), fld_ofNat _ 0 1 s lt (by omega)]) wfd own

theorem nrecv (tk h a b d s) : Statement (.nrecv tk h a b d s) := by
  refine Statement.of rfl ?_
  intro num hfor hx wfd own
  have := tk.isLt; have := h.isLt; have := a.isLt; have := b.isLt; have := d.isLt; have := s.isLt
  rw [List.sum_cons, List.sum_cons, List.sum_cons, List.sum_cons, List.sum_cons, List.sum_cons, List.sum_nil] at hx
  have := sh_eq tk 22; have := sh_eq h 18; have := sh_eq a 13; have := sh_eq b 8; have := sh_eq d 3; have := sh_eq s 0
  have lt : num < 2 ^ 32 := by omega
  exact private_word opNx 0x01 [(1, 2)] lt (by omega) (fun _ => rfl) (fun _ => rfl) (by decide) ⟨by omega, trivial⟩
    (by rw [fld_ofNat _ 22 3 tk lt (by omega), fld_ofNat _ 18 4 h lt (by omega), fld_ofNat _ 13 5 a lt (by omega), fld_ofNat _ 8 5 b lt (by omega), fld_ofNat _ 3 5 d lt (by omega), fld_ofNat _ 0 1 s lt (by omega)]) wfd own

theorem nmatch (tk h a b c s) : Statement (.nmatch tk h a b c s) := by
  refine Statement.of rfl ?_
  intro num hfor hx wfd own
  have := tk.isLt; have := h.isLt; have := a.isLt; have := b.isLt; have := c.isLt; have := s.isLt
  rw [List.sum_cons, List.sum_cons, List.sum_cons, List.sum_cons, List.sum_cons, List.sum_cons, List.sum_nil] at hx
  have := sh_eq tk 22; have := sh_eq h 18; have := sh_eq a 13; have := sh_eq b 8; have := sh_eq c 3; have := sh_eq s 0
  have lt : num < 2 ^ 32 := by omega
  exact private_word opNx 0x02 [(1, 2)] lt (by omega) (fun _ => rfl) (fun _ => rfl) (by decide) ⟨by omega, trivial⟩
    (by rw [fld_ofNat _ 22 3 tk lt (by omega), fld_ofNat _ 18 4 h lt (by omega), fld_ofNat _ 13 5 a lt (by omega), fld_ofNat _ 8 5 b lt (by omega), fld_ofNat _ 3 5 c lt (by omega), fld_ofNat _ 0 1 s lt (by omega)]) wfd own

theorem nred (tk h a b s o) : Statement (.nred tk h a b s o) := by
  refine Statement.of rfl ?_
  intro num hfor hx wfd own
  have := tk.isLt; have := h.isLt; have := a.isLt; have := b.isLt; have := s.isLt; have := o.isLt
  rw [List.sum_cons, List.sum_cons, List.sum_cons, List.sum_cons, List.sum_cons, List.sum_cons, List.sum_nil] at hx
  have := sh_eq tk 22; have := sh_eq h 18; have := sh_eq a 13; have := sh_eq b 8; have := sh_eq s 4; have := sh_eq o 0
  have lt : num < 2 ^ 32 := by omega
  exact private_word opNx 0x03 [(5, 3)] lt (by omega) (fun _ => rfl) (fun _ => rfl) (by decide) ⟨by omega, trivial⟩
    (by rw [fld_ofNat _ 22 3 tk lt (by omega), fld_ofNat _ 18 4 h lt (by omega), fld_ofNat _ 13 5 a lt (by omega), fld_ofNat _ 8 5 b lt (by omega), fld_ofNat _ 4 1 s lt (by omega), fld_ofNat _ 0 4 o lt (by omega)]) wfd own

theorem nbar (tk) : Statement (.nbar tk) := by
  refine Statement.of rfl ?_
  intro num hfor hx wfd own
  have := tk.isLt
  rw [List.sum_cons, List.sum_nil] at hx
  have := sh_eq tk 22
  have lt : num < 2 ^ 32 := by omega
  exact private_word opNx 0x04 [(0, 22)] lt (by omega) (fun _ => rfl) (fun _ => rfl) (by decide) ⟨by omega, trivial⟩
    (by rw [fld_ofNat _ 22 3 tk lt (by omega)]) wfd own

theorem nbarRelease (x0) : Statement (.nbarRelease x0) := nofun

theorem nroute (tk d a) : Statement (.nroute tk d a) := by
  refine Statement.of rfl ?_
  intro num hfor hx wfd own
  have := tk.isLt; have := d.isLt; have := a.isLt
  rw [List.sum_cons, List.sum_cons, List.sum_cons, List.sum_nil] at hx
  have := sh_eq tk 22; have := sh_eq d 17; have := sh_eq a 12
  have lt : num < 2 ^ 32 := by omega
  exact private_word opNx 0x05 [(0, 12)] lt (by omega) (fun _ => rfl) (fun _ => rfl) (by decide) ⟨by omega, trivial⟩
    (by rw [fld_ofNat _ 22 3 tk lt (by omega), fld_ofNat _ 17 5 d lt (by omega), fld_ofNat _ 12 5 a lt (by omega)]) wfd own

theorem nrouteFillJoin (x0) : Statement (.nrouteFillJoin x0) := nofun

theorem npend (tk d) : Statement (.npend tk d) := by
  refine Statement.of rfl ?_
  intro num hfor hx wfd own
  have := tk.isLt; have := d.isLt
  rw [List.sum_cons, List.sum_cons, List.sum_nil] at hx
  have := sh_eq tk 22; have := sh_eq d 17
  have lt : num < 2 ^ 32 := by omega
  exact private_word opNx 0x06 [(0, 17)] lt (by omega) (fun _ => rfl) (fun _ => rfl) (by decide) ⟨by omega, trivial⟩
    (by rw [fld_ofNat _ 22 3 tk lt (by omega), fld_ofNat _ 17 5 d lt (by omega)]) wfd own

theorem nxHeaderArrival (x0 x1) : Statement (.nxHeaderArrival x0 x1) := nofun

theorem nxHeaderRetry (x0 x1) : Statement (.nxHeaderRetry x0 x1) := nofun

theorem nxDelivery (x0 x1) : Statement (.nxDelivery x0 x1) := nofun

theorem nsendAck (x0 x1) : Statement (.nsendAck x0 x1) := nofun

theorem tenc (h a j b) : Statement (.tenc h a j b) := by
  refine Statement.of rfl ?_
  intro num hfor hx wfd own
  have := h.isLt; have := a.isLt; have := j.isLt; have := b.isLt
  rw [List.sum_cons, List.sum_cons, List.sum_cons, List.sum_cons, List.sum_nil] at hx
  have := sh_eq h 18; have := sh_eq a 13; have := sh_eq j 9; have := sh_eq b 4
  have lt : num < 2 ^ 32 := by omega
  exact private_word opTe 0x00 [(0, 4), (22, 3)] lt (by omega) (fun _ => rfl) (fun _ => rfl) (by decide) ⟨by omega, by omega, trivial⟩
    (by rw [fld_ofNat _ 18 4 h lt (by omega), fld_ofNat _ 13 5 a lt (by omega), fld_ofNat _ 9 4 j lt (by omega), fld_ofNat _ 4 5 b lt (by omega)]) wfd own

theorem tdec (h a j b) : Statement (.tdec h a j b) := by
  refine Statement.of rfl ?_
  intro num hfor hx wfd own
  have := h.isLt; have := a.isLt; have := j.isLt; have := b.isLt
  rw [List.sum_cons, List.sum_cons, List.sum_cons, List.sum_cons, List.sum_nil] at hx
  have := sh_eq h 18; have := sh_eq a 13; have := sh_eq j 9; have := sh_eq b 4
  have lt : num < 2 ^ 32 := by omega
  exact private_word opTe 0x01 [(0, 4), (22, 3)] lt (by omega) (fun _ => rfl) (fun _ => rfl) (by decide) ⟨by omega, by omega, trivial⟩
    (by rw [fld_ofNat _ 18 4 h lt (by omega), fld_ofNat _ 13 5 a lt (by omega), fld_ofNat _ 9 4 j lt (by omega), fld_ofNat _ 4 5 b lt (by omega)]) wfd own

theorem tstat (d f) : Statement (.tstat d f) := by
  refine Statement.of rfl ?_
  intro num hfor hx wfd own
  have := d.isLt; have := f.isLt
  rw [List.sum_cons, List.sum_cons, List.sum_nil] at hx
  have := sh_eq d 17; have := sh_eq f 0
  have lt : num < 2 ^ 32 := by omega
  exact private_word opTe 0x02 [(2, 15), (22, 3)] lt (by omega) (fun _ => rfl) (fun _ => rfl) (by decide) ⟨by omega, by omega, trivial⟩
    (by rw [fld_ofNat _ 17 5 d lt (by omega), fld_ofNat _ 0 2 f lt (by omega)]) wfd own

theorem jpost (a b) : Statement (.jpost a b) := by
  refine Statement.of rfl ?_
  intro num hfor hx wfd own
  have := a.isLt; have := b.isLt
  rw [List.sum_cons, List.sum_cons, List.sum_nil] at hx
  have := sh_eq a 12; have := sh_eq b 7
  have lt : num < 2 ^ 32 := by omega
  exact private_word opLc 0x00 [(0, 7), (17, 8)] lt (by omega) (fun _ => rfl) (fun _ => rfl) (by decide) ⟨by omega, by omega, trivial⟩
    (by rw [fld_ofNat _ 12 5 a lt (by omega), fld_ofNat _ 7 5 b lt (by omega)]) wfd own

theorem jprep (h a b) : Statement (.jprep h a b) := by
  refine Statement.of rfl ?_
  intro num hfor hx wfd own
  have := h.isLt; have := a.isLt; have := b.isLt
  rw [List.sum_cons, List.sum_cons, List.sum_cons, List.sum_nil] at hx
  have := sh_eq h 18; have := sh_eq a 13; have := sh_eq b 8
  have lt : num < 2 ^ 32 := by omega
  exact private_word opLc 0x01 [(0, 8), (22, 3)] lt (by omega) (fun _ => rfl) (fun _ => rfl) (by decide) ⟨by omega, by omega, trivial⟩
    (by rw [fld_ofNat _ 18 4 h lt (by omega), fld_ofNat _ 13 5 a lt (by omega), fld_ofNat _ 8 5 b lt (by omega)]) wfd own

theorem sxfer (h a d) : Statement (.sxfer h a d) := by
  refine Statement.of rfl ?_
  intro num hfor hx wfd own
  have := h.isLt; have := a.isLt; have := d.isLt
  rw [List.sum_cons, List.sum_cons, List.sum_cons, List.sum_nil] at hx
  have := sh_eq h 18; have := sh_eq a 13; have := sh_eq d 3
  have lt : num < 2 ^ 32 := by omega
  exact private_word opLc 0x02 [(0, 3), (8, 5), (22, 3)] lt (by omega) (fun _ => rfl) (fun _ => rfl) (by decide) ⟨by omega, by omega, by omega, trivial⟩
    (by rw [fld_ofNat _ 18 4 h lt (by omega), fld_ofNat _ 13 5 a lt (by omega), fld_ofNat _ 3 5 d lt (by omega)]) wfd own

theorem krun (d a b) : Statement (.krun d a b) := by
  refine Statement.of rfl ?_
  intro num hfor hx wfd own
  have := d.isLt; have := a.isLt; have := b.isLt
  rw [List.sum_cons, List.sum_cons, List.sum_cons, List.sum_nil] at hx
  have := sh_eq d 17; have := sh_eq a 12; have := sh_eq b 7
  have lt : num < 2 ^ 32 := by omega
  exact private_word opLc 0x03 [(0, 7), (22, 3)] lt (by omega) (fun _ => rfl) (fun _ => rfl) (by decide) ⟨by omega, by omega, trivial⟩
    (by rw [fld_ofNat _ 17 5 d lt (by omega), fld_ofNat _ 12 5 a lt (by omega), fld_ofNat _ 7 5 b lt (by omega)]) wfd own

theorem sbwait (d a) : Statement (.sbwait d a) := by
  refine Statement.of rfl ?_
  intro num hfor hx wfd own
  have := d.isLt; have := a.isLt
  rw [List.sum_cons, List.sum_cons, List.sum_nil] at hx
  have := sh_eq d 17; have := sh_eq a 12
  have lt : num < 2 ^ 32 := by omega
  exact private_word opLc 0x04 [(0, 12), (22, 3)] lt (by omega) (fun _ => rfl) (fun _ => rfl) (by decide) ⟨by omega, by omega, trivial⟩
    (by rw [fld_ofNat _ 17 5 d lt (by omega), fld_ofNat _ 12 5 a lt (by omega)]) wfd own

theorem rpush (a) : Statement (.rpush a) := by
  refine Statement.of rfl ?_
  intro num hfor hx wfd own
  have := a.isLt
  rw [List.sum_cons, List.sum_nil] at hx
  have := sh_eq a 12
  have lt : num < 2 ^ 32 := by omega
  exact private_word opLc 0x05 [(0, 12), (17, 8)] lt (by omega) (fun _ => rfl) (fun _ => rfl) (by decide) ⟨by omega, by omega, trivial⟩
    (by rw [fld_ofNat _ 12 5 a lt (by omega)]) wfd own

theorem rpop (d) : Statement (.rpop d) := by
  refine Statement.of rfl ?_
  intro num hfor hx wfd own
  have := d.isLt
  rw [List.sum_cons, List.sum_nil] at hx
  have := sh_eq d 17
  have lt : num < 2 ^ 32 := by omega
  exact private_word opLc 0x06 [(0, 17), (22, 3)] lt (by omega) (fun _ => rfl) (fun _ => rfl) (by decide) ⟨by omega, by omega, trivial⟩
    (by rw [fld_ofNat _ 17 5 d lt (by omega)]) wfd own

theorem ovly (h a m) : Statement (.ovly h a m) := by
  refine Statement.of rfl ?_
  intro num hfor hx wfd own
  have := h.isLt; have := a.isLt; have := m.isLt
  rw [List.sum_cons, List.sum_cons, List.sum_cons, List.sum_nil] at hx
  have := sh_eq h 18; have := sh_eq a 13; have := sh_eq m 0
  have lt : num < 2 ^ 32 := by omega
  exact private_word opLc 0x07 [(5, 8), (22, 3)] lt (by omega) (fun _ => rfl) (fun _ => rfl) (by decide) ⟨by omega, by omega, trivial⟩
    (by rw [fld_ofNat _ 18 4 h lt (by omega), fld_ofNat _ 13 5 a lt (by omega), fld_ofNat _ 0 5 m lt (by omega)]) wfd own

theorem codset (h a b) : Statement (.codset h a b) := by
  refine Statement.of rfl ?_
  intro num hfor hx wfd own
  have := h.isLt; have := a.isLt; have := b.isLt
  rw [List.sum_cons, List.sum_cons, List.sum_cons, List.sum_nil] at hx
  have := sh_eq h 18; have := sh_eq a 13; have := sh_eq b 8
  have lt : num < 2 ^ 32 := by omega
  exact private_word opLc 0x08 [(0, 8), (22, 3)] lt (by omega) (fun _ => rfl) (fun _ => rfl) (by decide) ⟨by omega, by omega, trivial⟩
    (by rw [fld_ofNat _ 18 4 h lt (by omega), fld_ofNat _ 13 5 a lt (by omega), fld_ofNat _ 8 5 b lt (by omega)]) wfd own

theorem cmm (d a) : Statement (.cmm d a) := by
  refine Statement.of rfl ?_
  intro num hfor hx wfd own
  have := d.isLt; have := a.isLt
  rw [List.sum_cons, List.sum_cons, List.sum_nil] at hx
  have := sh_eq d 17; have := sh_eq a 12
  have lt : num < 2 ^ 32 := by omega
  exact private_word opLc 0x09 [(0, 12), (22, 3)] lt (by omega) (fun _ => rfl) (fun _ => rfl) (by decide) ⟨by omega, by omega, trivial⟩
    (by rw [fld_ofNat _ 17 5 d lt (by omega), fld_ofNat _ 12 5 a lt (by omega)]) wfd own

theorem cdwait (d a) : Statement (.cdwait d a) := by
  refine Statement.of rfl ?_
  intro num hfor hx wfd own
  have := d.isLt; have := a.isLt
  rw [List.sum_cons, List.sum_cons, List.sum_nil] at hx
  have := sh_eq d 17; have := sh_eq a 12
  have lt : num < 2 ^ 32 := by omega
  exact private_word opLc 0x0A [(0, 12), (22, 3)] lt (by omega) (fun _ => rfl) (fun _ => rfl) (by decide) ⟨by omega, by omega, trivial⟩
    (by rw [fld_ofNat _ 17 5 d lt (by omega), fld_ofNat _ 12 5 a lt (by omega)]) wfd own

theorem watch (h a d) : Statement (.watch h a d) := by
  refine Statement.of rfl ?_
  intro num hfor hx wfd own
  have := h.isLt; have := a.isLt; have := d.isLt
  rw [List.sum_cons, List.sum_cons, List.sum_cons, List.sum_nil] at hx
  have := sh_eq h 18; have := sh_eq a 13; have := sh_eq d 3
  have lt : num < 2 ^ 32 := by omega
  exact private_word opLc 0x0B [(0, 3), (8, 5), (22, 3)] lt (by omega) (fun _ => rfl) (fun _ => rfl) (by decide) ⟨by omega, by omega, by omega, trivial⟩
    (by rw [fld_ofNat _ 18 4 h lt (by omega), fld_ofNat _ 13 5 a lt (by omega), fld_ofNat _ 3 5 d lt (by omega)]) wfd own

theorem unwatch (a) : Statement (.unwatch a) := by
  refine Statement.of rfl ?_
  intro num hfor hx wfd own
  have := a.isLt
  rw [List.sum_cons, List.sum_nil] at hx
  have := sh_eq a 12
  have lt : num < 2 ^ 32 := by omega
  exact private_word opLc 0x0C [(0, 12), (17, 8)] lt (by omega) (fun _ => rfl) (fun _ => rfl) (by decide) ⟨by omega, by omega, trivial⟩
    (by rw [fld_ofNat _ 12 5 a lt (by omega)]) wfd own

theorem lxset (h a d) : Statement (.lxset h a d) := by
  refine Statement.of rfl ?_
  intro num hfor hx wfd own
  have := h.isLt; have := a.isLt; have := d.isLt
  rw [List.sum_cons, List.sum_cons, List.sum_cons, List.sum_nil] at hx
  have := sh_eq h 18; have := sh_eq a 13; have := sh_eq d 3
  have lt : num < 2 ^ 32 := by omega
  exact private_word opLc 0x0D [(0, 3), (8, 5), (22, 3)] lt (by omega) (fun _ => rfl) (fun _ => rfl) (by decide) ⟨by omega, by omega, by omega, trivial⟩
    (by rw [fld_ofNat _ 18 4 h lt (by omega), fld_ofNat _ 13 5 a lt (by omega), fld_ofNat _ 3 5 d lt (by omega)]) wfd own

theorem layset (h a b) : Statement (.layset h a b) := by
  refine Statement.of rfl ?_
  intro num hfor hx wfd own
  have := h.isLt; have := a.isLt; have := b.isLt
  rw [List.sum_cons, List.sum_cons, List.sum_cons, List.sum_nil] at hx
  have := sh_eq h 18; have := sh_eq a 13; have := sh_eq b 8
  have lt : num < 2 ^ 32 := by omega
  exact private_word opLc 0x0E [(0, 8), (22, 3)] lt (by omega) (fun _ => rfl) (fun _ => rfl) (by decide) ⟨by omega, by omega, trivial⟩
    (by rw [fld_ofNat _ 18 4 h lt (by omega), fld_ofNat _ 13 5 a lt (by omega), fld_ofNat _ 8 5 b lt (by omega)]) wfd own

theorem ptoken (d a b) : Statement (.ptoken d a b) := by
  refine Statement.of rfl ?_
  intro num hfor hx wfd own
  have := d.isLt; have := a.isLt; have := b.isLt
  rw [List.sum_cons, List.sum_cons, List.sum_cons, List.sum_nil] at hx
  have := sh_eq d 17; have := sh_eq a 12; have := sh_eq b 7
  have lt : num < 2 ^ 32 := by omega
  exact private_word opLc 0x0F [(0, 7), (22, 3)] lt (by omega) (fun _ => rfl) (fun _ => rfl) (by decide) ⟨by omega, by omega, trivial⟩
    (by rw [fld_ofNat _ 17 5 d lt (by omega), fld_ofNat _ 12 5 a lt (by omega), fld_ofNat _ 7 5 b lt (by omega)]) wfd own

theorem jqpush (x0 x1) : Statement (.jqpush x0 x1) := nofun

theorem done (x0 x1) : Statement (.done x0 x1) := nofun

theorem faultq (x0) : Statement (.faultq x0) := nofun

theorem resumeRetry (x0) : Statement (.resumeRetry x0) := nofun

theorem resumeHandler (x0) : Statement (.resumeHandler x0) := nofun

theorem abort (x0) : Statement (.abort x0) := nofun

theorem inval (x0) : Statement (.inval x0) := nofun

theorem invalidationComplete (x0) : Statement (.invalidationComplete x0) := nofun

theorem migcmdStart (x0) : Statement (.migcmdStart x0) := nofun

theorem migcmdEnd (x0) : Statement (.migcmdEnd x0) := nofun

theorem migrationSectorCopy (x0) : Statement (.migrationSectorCopy x0) := nofun

theorem bncq (x0) : Statement (.bncq x0) := nofun

theorem bncdone (x0) : Statement (.bncdone x0) := nofun

theorem bounceDelivery (x0) : Statement (.bounceDelivery x0) := nofun

theorem hostirq (x0) : Statement (.hostirq x0) := nofun

theorem registerWrite (x0 x1 x2) : Statement (.registerWrite x0 x1 x2) := nofun

theorem walkComplete (x0 x1) : Statement (.walkComplete x0 x1) := nofun

theorem walkLockRetry (x0 x1) : Statement (.walkLockRetry x0 x1) := nofun

theorem streamTransferFinish (x0 x1) : Statement (.streamTransferFinish x0 x1) := nofun

theorem cardReady (x0 x1) : Statement (.cardReady x0 x1) := nofun

theorem queueIssue (x0) : Statement (.queueIssue x0) := nofun

theorem jobStart (x0) : Statement (.jobStart x0) := nofun

theorem jobComplete (x0 x1) : Statement (.jobComplete x0 x1) := nofun

theorem completionEntryAppend (x0) : Statement (.completionEntryAppend x0) := nofun

theorem rdvRelease (x0 x1) : Statement (.rdvRelease x0 x1) := nofun

theorem switchPointRelease (x0) : Statement (.switchPointRelease x0) := nofun

theorem ppcReallotment (x0) : Statement (.ppcReallotment x0) := nofun

theorem permitBoundary (x0) : Statement (.permitBoundary x0) := nofun

theorem permitRefill (x0) : Statement (.permitRefill x0) := nofun

theorem forcedDrop (x0) : Statement (.forcedDrop x0) := nofun

theorem forcedDropLevelTake (x0) : Statement (.forcedDropLevelTake x0) := nofun

theorem profileSample (x0 x1) : Statement (.profileSample x0 x1) := nofun

theorem purseEarn : Statement (.purseEarn) := nofun

theorem preemptionDecision (x0) : Statement (.preemptionDecision x0) := nofun

theorem cutStopPointsReached (x0) : Statement (.cutStopPointsReached x0) := nofun

theorem cutSave (x0) : Statement (.cutSave x0) := nofun

theorem kernelWithdrawal (x0 x1) : Statement (.kernelWithdrawal x0 x1) := nofun

theorem deadlineMissReport (x0) : Statement (.deadlineMissReport x0) := nofun

theorem reportedCauseDelivery (x0 x1) : Statement (.reportedCauseDelivery x0 x1) := nofun

theorem holdNoticePost (x0) : Statement (.holdNoticePost x0) := nofun

theorem watchTrigger : Statement (.watchTrigger) := nofun

theorem rateWindowStart : Statement (.rateWindowStart) := nofun

theorem exchangeRoundStart : Statement (.exchangeRoundStart) := nofun

theorem exchangeLineJoin (x0) : Statement (.exchangeLineJoin x0) := nofun

theorem outerExchangeRound (x0) : Statement (.outerExchangeRound x0) := nofun

theorem codedPost (x0 x1) : Statement (.codedPost x0 x1) := nofun

theorem tileDecision (x0 x1) : Statement (.tileDecision x0 x1) := nofun

theorem tileDecode (x0) : Statement (.tileDecode x0) := nofun

theorem operatorEnd (x0) : Statement (.operatorEnd x0) := nofun

theorem operatorDeadline (x0) : Statement (.operatorDeadline x0) := nofun

theorem seamFlitReceive (x0 x1) : Statement (.seamFlitReceive x0 x1) := nofun

theorem seamReplay (x0) : Statement (.seamReplay x0) := nofun

theorem hbmTransferRetry (x0 x1 x2 x3 x4) : Statement (.hbmTransferRetry x0 x1 x2 x3 x4) := nofun

theorem hbmWriteReattempt (x0 x1 x2) : Statement (.hbmWriteReattempt x0 x1 x2) := nofun

theorem laneSwap (x0 x1 x2) : Statement (.laneSwap x0 x1 x2) := nofun

theorem laneSwapResume (x0 x1) : Statement (.laneSwapResume x0 x1) := nofun

theorem scrubVisit (x0 x1) : Statement (.scrubVisit x0 x1) := nofun

theorem ppsEdge : Statement (.ppsEdge) := nofun

theorem ptptod (x0 x1) : Statement (.ptptod x0 x1) := nofun

theorem thermalSample (x0) : Statement (.thermalSample x0) := nofun

theorem powerOn (x0) : Statement (.powerOn x0) := nofun

theorem restart (x0) : Statement (.restart x0) := nofun

theorem cfgwr (x0) : Statement (.cfgwr x0) := nofun

theorem cfgstat (x0) : Statement (.cfgstat x0) := nofun

theorem programLoad (x0 x1 x2) : Statement (.programLoad x0 x1 x2) := nofun

theorem contextLoad (x0 x1 x2 x3) : Statement (.contextLoad x0 x1 x2 x3) := nofun

theorem hostCardWindowWrite (x0 x1) : Statement (.hostCardWindowWrite x0 x1) := nofun

theorem hostApertureRead (x0 x1) : Statement (.hostApertureRead x0 x1) := nofun

theorem hostApertureWrite (x0 x1) : Statement (.hostApertureWrite x0 x1) := nofun

theorem hostAtomicFetchadd (x0 x1 x2) : Statement (.hostAtomicFetchadd x0 x1 x2) := nofun

theorem hostAtomicSwap (x0 x1 x2) : Statement (.hostAtomicSwap x0 x1 x2) := nofun

theorem hostAtomicCas (x0 x1 x2 x3) : Statement (.hostAtomicCas x0 x1 x2 x3) := nofun

theorem writePerformed (x0) : Statement (.writePerformed x0) := nofun

theorem flitBoundaryArbitration (x0 x1 x2) : Statement (.flitBoundaryArbitration x0 x1 x2) := nofun

theorem presentPackagesChange (x0) : Statement (.presentPackagesChange x0) := nofun

theorem teStreamStart (x0 x1 x2) : Statement (.teStreamStart x0 x1 x2) := nofun

end Sys2Proof.Laws.Encoding
end

