-- ==== Sys2Proof/Safety.lean ====
section
/-!
DEFINITION. What the claims about runs speak of: a run that neither faults nor is refused, and the invariant of
the reachable states.
-/

namespace Sys2Proof.Machine

/-- An outcome that is a next state. -/
def isNext : Host.Outcome State Fault Refusal → Prop
  | .next _ => True
  | .fault _ => False
  | .refused _ => False

/-- Every one of the first n steps answers a next state. -/
def SafeRun (n : Nat) (s : State) : Prop := isNext (core.run n s)

/-- Every memory stands in its canonical form. -/
def State.MemOk (s : State) : Prop := Mem.wf s.mem = true

end Sys2Proof.Machine
end

