-- ==== Sys2Proof/Tests/Slice0.lean ====
section
/-!
SUPPORT. The model's own tests: words of the spec decode, ill-formed terms are refused, results of the spec's own examples, and for
every statement with hypotheses a state and operands that meet them (theorems `meets_<statement>`).
-/

namespace Sys2Proof.Tests

set_option Elab.async false
open Sys2Proof Sys2Proof.Machine Sys2Proof.Claim

set_option maxRecDepth 20000

/-! ### Ill-formed terms, one for each check of wellFormed -/

theorem smoke_shared : [Instr.leave 0 0 1, .tkwait 1 0 6, .tksig 0 7, .drain 6, .fence 0 3, .amo 1 2 3 4 0 1].all
    (fun i => !wellFormed i) = true := by decide

theorem smoke_vector : [Instr.vshl 0 1 2 3 1 4, .vshl 0 1 2 3 0 4, .vshr 0 1 2 3 1 0 4, .vshr 0 1 2 3 0 0 4, .vldh 0 1 2 3 3 0,
    .vsth 0 1 2 3 3 0, .vgth 0 1 2 3, .vsct 0 1 2 3].all (fun i => !wellFormed i) = true := by decide

theorem smoke_places : [Instr.cpy 0 3 0 1 0 1 2, .cpy 0 1 4 1 0 1 2, .cpy 0 0 1 1 2 0 2, .cpy 0 0 1 1 1 4 2, .cpy3 0 3 0 1 0 1 2,
    .cpy3 0 0 1 1 2 0 2, .cfill 0 3 0 1 2, .crmt 0 1 2 0 3, .nsend 0 1 2 3 1, .nrecv 0 1 2 3 4 1, .nmatch 0 1 2 3 4 1,
    .nred 0 1 2 3 1 0, .nred 0 1 2 3 0 7].all (fun i => !wellFormed i) = true := by decide

theorem smoke_units : [Instr.lockGrant 32 0 0, .lockGrant 0 32 0, .lockGrant 0 0 64, .lwaitTimeout (.eng .cx 32), .mxOccupancyEnd 32,
    .vlLoadFill 32 0, .vlLoadFill 0 16, .vlStorePerform 32, .cxCommandFinish 32, .nrouteFillJoin 8, .nxHeaderRetry 8 0,
    .nxDelivery 8 0, .nsendAck 8 0, .migrationSectorCopy 4, .walkComplete (.nx 8) 0, .walkLockRetry (.ctx 18 .l) 0,
    .nxHeaderArrival 8 default, .nxHeaderArrival 0 { (default : NxHeader) with pkg := 64 },
    .nxHeaderArrival 0 { (default : NxHeader) with die := 8 }, .nxHeaderArrival 0 { (default : NxHeader) with tag := 2 ^ 32 }].all
    (fun i => !wellFormed i) = true := by decide

theorem smoke_jobs : [Instr.streamTransferFinish 18 0, .streamTransferFinish 0 64, .cardReady 18 0, .cardReady 0 64, .queueIssue 32,
    .jobStart 32, .jobComplete 32 0, .completionEntryAppend 32, .switchPointRelease 32, .permitBoundary 8, .permitRefill 8,
    .forcedDrop 32, .forcedDropLevelTake 32, .profileSample 32 0, .profileSample 0 65536, .preemptionDecision 32,
    .cutStopPointsReached 32, .cutSave 32, .kernelWithdrawal 18 0, .kernelWithdrawal 0 64, .reportedCauseDelivery 18 .l,
    .holdNoticePost (.nx 8), .tileDecision 64 0, .tileDecode 4, .operatorEnd 64, .operatorDeadline 64].all
    (fun i => !wellFormed i) = true := by decide

theorem smoke_package : [Instr.seamFlitReceive 18 (List.replicate 256 0), .seamFlitReceive 0 [0], .seamReplay (18, []),
    .flitBoundaryArbitration 18 0 (List.replicate 240 0), .flitBoundaryArbitration 0 0 [0], .hbmTransferRetry 8 0 0 false false, .hbmTransferRetry 0 32 0 false false,
    .hbmWriteReattempt 8 0 false, .hbmWriteReattempt 0 32 false, .laneSwap 8 0 0, .laneSwap 0 32 0, .laneSwap 0 0 64,
    .laneSwapResume 8 0, .laneSwapResume 0 32, .scrubVisit 9 0, .scrubVisit 0 32, .ptptod 0 1000000000,
    .thermalSample [300]].all (fun i => !wellFormed i) = true := by decide

theorem smoke_loading : [Instr.programLoad (.lc 18) 0 [], .programLoad .te 2 [], .programLoad .te 131068 [0, 0],
    .programLoad (.lc 0) 262144 [0], .contextLoad 18 .l 0 0, .contextLoad 0 .l 2 0,
    .hostCardWindowWrite 0x800000 [0], .hostApertureRead 0x1000000000 1, .hostApertureWrite 0x1000000000 [0],
    .hostAtomicFetchadd 0x1000000000 4 0, .hostAtomicSwap 0x1000000000 4 0, .hostAtomicCas 0x1000000000 4 0 0,
    .presentPackagesChange [(64, [])], .teStreamStart 18 0 0, .teStreamStart 0 2 0].all (fun i => !wellFormed i) = true := by decide

/-- Ill-formed words raise ILLEGAL at their fetch: they decode to nothing. -/
theorem smoke_illformed_words : [0x5E000006, 0x5F000000 + 12, 0x5A191400, 0x3E010000].all
    (fun w => match classify .cx (BitVec.ofNat 32 w) with | .bad (.illFormed _) => true | _ => false) = true := by decide

/-- Words of the register forms, from the layouts of R57 to R59 (spec/02) and the examples there. -/
theorem decodes_register_forms :
    classify .vl 0x0118C400 = .instr (.add 3 3 2)
    ∧ classify .ve 0x022A1600 = .instr (.sub 5 8 11)
    ∧ classify .mx 0x032A1600 = .instr (.mul 5 8 11)
    ∧ classify .nx 0x042A1600 = .instr (.mulh 5 8 11)
    ∧ classify .te 0x052A1600 = .instr (.mulhu 5 8 11)
    ∧ classify .lc 0x062A1600 = .instr (.div 5 8 11)
    ∧ classify .cx 0x072A1600 = .instr (.divu 5 8 11)
    ∧ classify .vl 0x082A1600 = .instr (.rem 5 8 11)
    ∧ classify .ve 0x092A1600 = .instr (.remu 5 8 11)
    ∧ classify .mx 0x0A2A1600 = .instr (.and 5 8 11)
    ∧ classify .nx 0x0B2A1600 = .instr (.or 5 8 11)
    ∧ classify .te 0x0C2A1600 = .instr (.xor 5 8 11)
    ∧ classify .lc 0x0D2A1600 = .instr (.andn 5 8 11)
    ∧ classify .cx 0x0E2A1600 = .instr (.shl 5 8 11)
    ∧ classify .vl 0x0F2A1600 = .instr (.shr 5 8 11)
    ∧ classify .ve 0x102A1600 = .instr (.sra 5 8 11)
    ∧ classify .mx 0x112A1600 = .instr (.rol 5 8 11)
    ∧ classify .nx 0x122A1600 = .instr (.slt 5 8 11)
    ∧ classify .te 0x132A1600 = .instr (.sltu 5 8 11)
    ∧ classify .lc 0x142A1600 = .instr (.seq 5 8 11)
    ∧ classify .cx 0x152A1600 = .instr (.min 5 8 11)
    ∧ classify .vl 0x162A1600 = .instr (.max 5 8 11)
    ∧ classify .ve 0x172A1600 = .instr (.minu 5 8 11)
    ∧ classify .mx 0x182A1600 = .instr (.maxu 5 8 11)
    ∧ classify .nx 0x192A0000 = .instr (.clz 5 8)
    ∧ classify .te 0x1A414000 = .instr (.popc 8 5)
    ∧ classify .lc 0x1B2A1606 = .instr (.idx 5 8 11 6)
    ∧ classify .cx 0x1C2A160E = .instr (.extu 5 8 11 14)
    ∧ classify .vl 0x1D2A000B = .instr (.sext 5 8 11)
    ∧ classify .ve 0x1E2A1600 = .instr (.cmovnz 5 8 11) := by decide

/-- Words of the immediate forms, the branches and the jumps. -/
theorem decodes_immediate_forms :
    classify .vl 0x202A000B = .instr (.addi 5 8 11)
    ∧ classify .ve 0x212A000B = .instr (.andi 5 8 11)
    ∧ classify .mx 0x22295EF0 = .instr (.ori 5 5 7920)
    ∧ classify .nx 0x232A000B = .instr (.xori 5 8 11)
    ∧ classify .te 0x2420C001 = .instr (.shli 4 3 1)
    ∧ classify .lc 0x25294001 = .instr (.shri 5 5 1)
    ∧ classify .cx 0x262A000B = .instr (.srai 5 8 11)
    ∧ classify .vl 0x272A000B = .instr (.slti 5 8 11)
    ∧ classify .ve 0x282A000B = .instr (.sltiu 5 8 11)
    ∧ classify .mx 0x292A000B = .instr (.muli 5 8 11)
    ∧ classify .nx 0x2A1493E0 = .instr (.li 2 300000)
    ∧ classify .te 0x2B2C5678 = .instr (.lui 5 284280)
    ∧ classify .lc 0x2C280008 = .instr (.auipc 5 8)
    ∧ classify .cx 0x302A000B = .instr (.beq 5 8 11)
    ∧ classify .vl 0x312A000B = .instr (.bne 5 8 11)
    ∧ classify .ve 0x322A000B = .instr (.blt 5 8 11)
    ∧ classify .mx 0x332A000B = .instr (.bge 5 8 11)
    ∧ classify .nx 0x342A000B = .instr (.bltu 5 8 11)
    ∧ classify .te 0x352A000B = .instr (.bgeu 5 8 11)
    ∧ classify .lc 0x38000005 = .instr (.j 5)
    ∧ classify .cx 0x39000003 = .instr (.call 3)
    ∧ classify .vl 0x3A07C000 = .instr (.jr 0 31) := by decide

/-- Words of the loop, token, meeting and system instructions. -/
theorem decodes_control :
    classify .vl 0x3C4C0002 = .instr (.loop 1 6 2)
    ∧ classify .ve 0x3D000C01 = .instr (.loopi 0 3 1)
    ∧ classify .mx 0x3E650000 = .instr (.leave 1 1 5)
    ∧ classify .nx 0x4028000B = .instr (.tkwait 5 1 3)
    ∧ classify .te 0x41000009 = .instr (.tksig 1 1)
    ∧ classify .lc 0x42000005 = .instr (.rdv 5)
    ∧ classify .cx 0x43000005 = .instr (.gfence 5)
    ∧ classify .vl 0x44000005 = .instr (.swpt 5)
    ∧ classify .ve 0x45000005 = .instr (.ppoint 5)
    ∧ classify .mx 0x48000005 = .instr (.trap 5)
    ∧ classify .nx 0x49000000 = .instr .eret
    ∧ classify .te 0x4A280008 = .instr (.mfs 5 8)
    ∧ classify .lc 0x4B014008 = .instr (.mts 5 8)
    ∧ classify .cx 0x4C280000 = .instr (.cyc 5)
    ∧ classify .vl 0x4D000000 = .instr .halt
    ∧ classify .ve 0x4E000000 = .instr .nop := by decide

/-- Words of the handle, memory and lattice instructions; R155 (spec/04) gives most of them. -/
theorem decodes_memory :
    classify .vl 0x50008400 = .instr (.trans 1 1)
    ∧ classify .ve 0x51028000 = .instr (.hrel 5)
    ∧ classify .mx 0x52188000 = .instr (.hchk 3 1)
    ∧ classify .nx 0x53191604 = .instr (.ld 3 2 5 2 4)
    ∧ classify .te 0x542C2E11 = .instr (.st 5 8 11 2 17)
    ∧ classify .lc 0x552C2E11 = .instr (.lda 5 8 11 2 17)
    ∧ classify .cx 0x56208210 = .instr (.stl 4 1 0 2 16)
    ∧ classify .vl 0x572C2E11 = .instr (.ldro 5 8 11 2 17)
    ∧ classify .ve 0x582C2E11 = .instr (.ldlk 5 8 11 2 17)
    ∧ classify .mx 0x592C2E11 = .instr (.stul 5 8 11 2 17)
    ∧ classify .nx 0x5A1914DF = .instr (.amo 3 2 5 6 7 3)
    ∧ classify .te 0x5B2A0000 = .instr (.lookup 5 8)
    ∧ classify .lc 0x5C010A00 = .instr (.tagset 4 5)
    ∧ classify .cx 0x5D014000 = .instr (.tagclr 5)
    ∧ classify .vl 0x5E000003 = .instr (.drain 3)
    ∧ classify .ve 0x5F008004 = .instr (.fence 1 1)
    ∧ classify .mx 0x600114C2 = .instr (.ljoin 2 5 6 2)
    ∧ classify .nx 0x612100A2 = .instr (.lwait 4 2 0 5 2)
    ∧ classify .te 0x62180001 = .instr (.winfo 3 1)
    ∧ classify .lc 0x631910A0 = .instr (.trd 3 2 4 5) := by decide

/-- Words of MX, the examples of spec/05. -/
theorem decodes_mx :
    classify .mx 0x80004041 = .instr (.mma 0 0 1 0 16 1)
    ∧ classify .mx 0x82144003 = .instr (.mmas 0 5 1 0 0 3)
    ∧ classify .mx 0x84002001 = .instr (.mzero 0 1 0 1)
    ∧ classify .mx 0x86060200 = .instr (.mpi 0 3 0 1)
    ∧ classify .mx 0x880C0820 = .instr (.mrnd 0 3 0 520 0)
    ∧ classify .mx 0x8A002000 = .instr (.mnorm 0 1 0)
    ∧ classify .mx 0x8C080000 = .instr (.msave 0 4 0 0)
    ∧ classify .mx 0x8E082040 = .instr (.mload 0 4 1 16)
    ∧ classify .mx 0x900C8500 = .instr (.mtd 0 3 4 5)
    ∧ classify .mx 0x92080001 = .instr (.mstb 0 4 1)
    ∧ classify .mx 0x94080020 = .instr (.mtbl 0 4 8)
    ∧ classify .mx 0x9619C000 = .instr (.mxpt 0 6 7 0 0) := by decide

/-- Words of VE, from the layouts and examples of spec/06. -/
theorem decodes_ve_1 :
    classify .ve 0x8150B703 = .instr (.vadd 5 8 11 14 1 1)
    ∧ classify .ve 0x8350B703 = .instr (.vsub 5 8 11 14 1 1)
    ∧ classify .ve 0x8550B707 = .instr (.vmul 5 8 11 14 1 1 1)
    ∧ classify .ve 0x8750B703 = .instr (.vmad 5 8 11 14 1 1)
    ∧ classify .ve 0x8950B702 = .instr (.vmin 5 8 11 14 1)
    ∧ classify .ve 0x8B50B702 = .instr (.vmax 5 8 11 14 1)
    ∧ classify .ve 0x8D50B700 = .instr (.vand 5 8 11 14)
    ∧ classify .ve 0x8E03F000 = .instr (.vor 0 1 31 0)
    ∧ classify .ve 0x9150B700 = .instr (.vxor 5 8 11 14)
    ∧ classify .ve 0x9350B054 = .instr (.vshl 5 8 11 0 1 20)
    ∧ classify .ve 0x9550B077 = .instr (.vshr 5 8 11 0 1 1 23)
    ∧ classify .ve 0x9750B001 = .instr (.vabs 5 8 11 1)
    ∧ classify .ve 0xA0061F80 = .instr (.vfadd 0 3 1 31)
    ∧ classify .ve 0xA350B700 = .instr (.vfsub 5 8 11 14)
    ∧ classify .ve 0xA550B700 = .instr (.vfmul 5 8 11 14)
    ∧ classify .ve 0xA6BE4281 = .instr (.vfma 2 31 4 5 0 1)
    ∧ classify .ve 0xA950B700 = .instr (.vfmax 5 8 11 14)
    ∧ classify .ve 0xAB50B700 = .instr (.vfmin 5 8 11 14) := by decide

/-- Words of VE, from the layouts and examples of spec/06. -/
theorem decodes_ve_2 :
    classify .ve 0xAD50B00E = .instr (.vsfn 5 8 11 14)
    ∧ classify .ve 0xB150B021 = .instr (.vcvt 5 8 11 2 1)
    ∧ classify .ve 0xB2061004 = .instr (.vqnt 0 3 1 0 1 0)
    ∧ classify .ve 0xB550B701 = .instr (.vdq 5 8 11 14 1)
    ∧ classify .ve 0xB60DF000 = .instr (.vred 0 6 31 0)
    ∧ classify .ve 0xB950B701 = .instr (.vshuf 5 8 11 14 1)
    ∧ classify .ve 0xBB50B700 = .instr (.vsel 5 8 11 14)
    ∧ classify .ve 0xBD50B70C = .instr (.vcmp 5 8 11 14 1 4)
    ∧ classify .ve 0xBE003F80 = .instr (.vimm 0 0 16256)
    ∧ classify .ve 0xC0002000 = .instr (.vmpush 0 2)
    ∧ classify .ve 0xC3400000 = .instr (.vminv 5)
    ∧ classify .ve 0xC5400000 = .instr (.vmpop 5)
    ∧ classify .ve 0xC6000003 = .instr (.vbmz 0 3)
    ∧ classify .ve 0xC80A3301 = .instr (.vget 0 5 3 6 1)
    ∧ classify .ve 0xCB50B700 = .instr (.vput 5 8 11 14)
    ∧ classify .ve 0xCD50B001 = .instr (.vscan 5 8 11 1)
    ∧ classify .ve 0xCE000007 = .instr (.vcfg 0 0 0 7) := by decide

/-- Words of VL, the examples of spec/06. -/
theorem decodes_vl :
    classify .vl 0x80040008 = .instr (.vld 0 1 0 8)
    ∧ classify .vl 0x8204C48F = .instr (.vldh 0 1 6 4 2 15)
    ∧ classify .vl 0x84444002 = .instr (.vst 1 1 2 2)
    ∧ classify .vl 0x86050541 = .instr (.vsth 0 1 8 5 1 1)
    ∧ classify .vl 0x880CD000 = .instr (.vgth 0 3 6 2)
    ∧ classify .vl 0x8A0CD000 = .instr (.vsct 0 3 6 2)
    ∧ classify .vl 0x8C088501 = .instr (.vldt 0 2 4 5 1)
    ∧ classify .vl 0x8E000000 = .instr (.vqsync 0) := by decide

/-- Words of CX, the examples of spec/07. -/
theorem decodes_cx :
    classify .cx 0x80102045 = .instr (.cpy 0 1 0 4 0 2 5)
    ∧ classify .cx 0x82603207 = .instr (.cpy3 1 2 0 6 1 0 7)
    ∧ classify .cx 0x84120000 = .instr (.cpyenc 0 9)
    ∧ classify .cx 0x86102006 = .instr (.cfill 0 1 0 4 6)
    ∧ classify .cx 0x88004209 = .instr (.crmt 0 8 1 0 9)
    ∧ classify .cx 0x8A0C8500 = .instr (.cfetch 0 3 4 5)
    ∧ classify .cx 0x8C0C8501 = .instr (.cevict 0 3 4 5 1) := by decide

/-- Words of NX, the examples of spec/07. -/
theorem decodes_nx :
    classify .nx 0x80044300 = .instr (.nsend 0 1 2 3 0)
    ∧ classify .nx 0x82044338 = .instr (.nrecv 0 1 2 3 7 0)
    ∧ classify .nx 0x84044320 = .instr (.nmatch 0 1 2 3 4 0)
    ∧ classify .nx 0x86044302 = .instr (.nred 0 1 2 3 0 2)
    ∧ classify .nx 0x88000000 = .instr (.nbar 0)
    ∧ classify .nx 0x8A0A6000 = .instr (.nroute 0 5 6)
    ∧ classify .nx 0x8C0A0000 = .instr (.npend 0 5) := by decide

/-- Words of TE, the examples of spec/07. -/
theorem decodes_te :
    classify .te 0x80086850 = .instr (.tenc 2 3 4 5)
    ∧ classify .te 0x82086850 = .instr (.tdec 2 3 4 5)
    ∧ classify .te 0x840C0000 = .instr (.tstat 6 0) := by decide

/-- Words of the control cores, the examples of spec/08. -/
theorem decodes_lc :
    classify .lc 0x80005300 = .instr (.jpost 5 6)
    ∧ classify .lc 0x82044300 = .instr (.jprep 1 2 3)
    ∧ classify .lc 0x84040020 = .instr (.sxfer 1 0 4)
    ∧ classify .lc 0x860E5300 = .instr (.krun 7 5 6)
    ∧ classify .lc 0x88104000 = .instr (.sbwait 8 4)
    ∧ classify .lc 0x8A004000 = .instr (.rpush 4)
    ∧ classify .lc 0x8C080000 = .instr (.rpop 4)
    ∧ classify .lc 0x8E08600C = .instr (.ovly 2 3 12)
    ∧ classify .lc 0x90044300 = .instr (.codset 1 2 3)
    ∧ classify .lc 0x920E3000 = .instr (.cmm 7 3)
    ∧ classify .lc 0x94103000 = .instr (.cdwait 8 3)
    ∧ classify .lc 0x96044048 = .instr (.watch 1 2 9)
    ∧ classify .lc 0x98009000 = .instr (.unwatch 9)
    ∧ classify .lc 0x9A044050 = .instr (.lxset 1 2 10)
    ∧ classify .lc 0x9C044300 = .instr (.layset 1 2 3)
    ∧ classify .lc 0x9E165300 = .instr (.ptoken 11 5 6) := by decide
/-! ### Small states -/

/-- A result that a check holds of. -/
def okAnd {α : Type} (r : M α) (p : α → Bool) : Bool :=
  match r with
  | .ok a => p a
  | .error _ => false

/-- Registers: the named ones, 0 for the rest. -/
def regs (l : Tab Nat DWord) : Vector DWord 32 := Vector.ofFn fun i => Tab.get l i.val 0

/-- A running stream with registers. -/
def runs (l : Tab Nat DWord) : Stream := { Stream.reset with run := .running, g := regs l }

/-- The reset machine with one stream, which executes. -/
def mk (u : UnitId) (x : Stream) : State := { State.reset with cur := u, streams := [(u, x)] }

/-- A page of 64 KiB at physical address 0x10000, VA 0x40000. -/
def page : Page := ⟨0x40000, 16, 0x10000, 0, false, false, 0, 0, 0, true, none, 0⟩

def handleOf (p : Page) : Handle := ⟨0, BitVec.ofNat 64 p.va, .valid p, false⟩

/-- The stream with a handle in h1. -/
def withPage (x : Stream) (p : Page) : Stream := x.wh 1 (some (handleOf p))

/-- No upset waits for a triple-issued word. -/
theorem calm (s : State) (h : s.tmrUpset = []) : Unvoted s := fun _ _ => by rw [h]; rfl

/-- A card that keeps the layout: flags, place, RDVN, SCHED, dies, cores, engines; each engine's prologue at 0. -/
def cardOf (flags place rdvn sched dies cores engines : Nat) : List Word :=
  (List.range 32).map fun i => BitVec.ofNat 32 <|
    if i = 0 then 2 ^ 24 + 2 ^ 8 * flags + engines
    else if i = 2 then 1
    else if i = 3 then 2 ^ 24 * sched + 2 ^ 16 * rdvn + 2 ^ 8 * dies + 2 ^ 4 * cores + place
    else if 4 ≤ i ∧ i < 19 then (if (i - 4) % 3 = 0 ∧ engines.testBit ((i - 4) / 3) then 0 else 0xFFFFFFFF)
    else 0

/-- Job 1 of a card on core 0. -/
def jobOf (ws : List Word) (st : InstState) : Job :=
  { newJob 5 ws (.post 0 .c) 0 0 0 false 0 Clock.empty with insts := [⟨0, 0, st, 0, 0, 0⟩] }

/-- A machine with a stream of job 1 on core 0. -/
def inJob1 (u : UnitId) (x : Stream) (ws : List Word) : State :=
  { mk u { x with job := some 1 } with jobs := [(1, jobOf ws .running)], nextJob := 2,
                                       cards := [(5, ⟨ws, .running, 0, Clock.empty⟩)] }

/-- The bytes of words. -/
def bytesOf (ws : List Nat) : List Byte := ws.flatMap (leBytes 4)

/-- Memory that holds bytes from an address on. -/
def memAt (a : Nat) (bs : List Byte) : Mem := Mem.setAll [] (cellsAt a bs)

/-- The context C of LC0 with h1 on the page and bytes in it. -/
def ctxAt (i : Nat) (k : Ctx) (l : Tab Nat DWord) (bs : List Byte) : State :=
  { mk (.ctx i k) (withPage (runs l) page) with mem := memAt 0x10000 bs }

/-- The state that an outcome leads to. -/
def after (o : Host.Outcome State Fault Refusal) : State :=
  match o with
  | .next t => t
  | _ => State.reset

theorem maskEnds_zero : ∀ e : Endpoint, maskEnds e 0 = [] := by intro e; cases e <;> decide

/-- A command without token operands takes none. -/
theorem no_pops {s : State} (hp : (s.me.capture 0 s.now).pops = 0) (hq : (s.me.capture 0 s.now).pushes = 0)
    (hc : s.setCore (s.coreOf s.cur) (s.core (s.coreOf s.cur)) = s) : Popped s 0 s := by
  have hd : s.discardInto (s.coreOf s.cur) s.cur.endpoint (maskEnds s.cur.endpoint 0) (s.me.capture 0 s.now).tag = s := by
    rw [maskEnds_zero]; exact hc
  unfold Popped
  extract_lets c e q s0
  have h0 : q.pops = 0 := hp
  have h1 : q.pushes = 0 := hq
  have h2 : s0 = s := by simp only [s0, h0]; exact hd
  rw [h0, h1, h2, maskEnds_zero]
  exact ⟨fun _ he => absurd he List.not_mem_nil, rfl, rfl⟩

theorem no_tokens {s : State} (hp : (s.me.capture 0 s.now).pops = 0) (hq : (s.me.capture 0 s.now).pushes = 0)
    (hc : s.setCore (s.coreOf s.cur) (s.core (s.coreOf s.cur)) = s) : Tokens s 0 s :=
  ⟨no_pops hp hq hc, fun h => absurd hq h⟩

/-- The tables of root 0: VA 0x40000 is the page, its frame writable and here; the frame of VA 0x50000 is not resident. -/
def tableCells : List (Nat × Byte) :=
  ([(0x20000, 0x22003), (0x22000, 0x24003), (0x24000, 0x26003), (0x26020, 0x1000F), (0x26028, 0x3000D)] : Tab Nat Nat).flatMap
    fun e => cellsAt e.1 (leBytes 8 e.2)

def withTables (s : State) : State :=
  { (s.setLc 0 { s.lc 0 with rootReg := 0x20001 }) with mem := Mem.setAll s.mem tableCells }

/-! ### The statements' hypotheses are met -/

/-- CX of core 0 with corner operands: −2^63, −1, 7, −7, 0x1006, 0. -/
def sInt : State := mk (.eng .cx 0) (runs [(1, BitVec.intMin 64), (2, BitVec.allOnes 64), (3, 7), (4, -7), (5, 0x1006), (6, 0x1000)])

/-- The same under a TMR prefix with kind 0 payload. -/
def sTmr (up : Tab (UnitId × Bool) Bool) : State :=
  { sInt.setMe { sInt.me with pfx := { Pfx.nil with tmr := true, imm := some 0xFFFFF } } with tmrUpset := up }

theorem meets_IntegerRegisterResults : Unvoted sInt ∧ Unvoted (sTmr []) := ⟨calm _ rfl, calm _ rfl⟩

theorem meets_DivisionResults : Unvoted sInt ∧ sInt.rg 7 = 0 ∧ sInt.rg 1 = BitVec.intMin 64 ∧ sInt.rg 2 = BitVec.allOnes 64
    ∧ sInt.rg 3 ≠ 0 ∧ ¬(sInt.rg 1 = BitVec.intMin 64 ∧ sInt.rg 3 = BitVec.allOnes 64) :=
  ⟨calm _ rfl, by decide⟩

/-- Both forms of the immediate: −8192 of the field, −8192 widened. -/
theorem meets_ImmediateResults : sInt.me.pfx.imm = none ∧ (0x2000 : BitVec 14).toInt = -8192
    ∧ (sTmr []).me.pfx.imm = some 0xFFFFF ∧ ((0xFFFFF : BitVec 20) ++ (0x2000 : BitVec 14)).toInt = -8192 ∧ Unvoted (sTmr []) :=
  ⟨by decide, by decide, by decide, by decide, calm _ rfl⟩

theorem meets_RegisterWordFrame : integerDest (.cyc 0) = some 0 ∧ integerDest (.div 3 1 2) = some 3 ∧ Unvoted sInt
    ∧ (∃ t, exec (.cyc 0) sInt = .next t) ∧ ∃ t, exec (.div 3 1 2) sInt = .next t :=
  ⟨rfl, rfl, calm _ rfl, ⟨_, rfl⟩, ⟨_, rfl⟩⟩

/-- JR's target: word-aligned in g6, not in g5. -/
theorem meets_BranchesAndJumps : Unvoted sInt ∧ (sInt.rg 6).toNat % 4 = 0 ∧ (sInt.rg 5).toNat % 4 ≠ 0 ∧ sInt.me.pfx.imm = none
    ∧ (sTmr []).me.pfx.imm = some 0xFFFFF :=
  ⟨calm _ rfl, by decide⟩

/-- A stream at 0x20 in loops 1 (outer, from 0x10) and 0 (inner, from 0x18) that both end there. -/
def sLoop (inner outer : DWord) : Stream :=
  { runs [(1, 2)] with a := 0x20, pc := 0x20, lp := #v[⟨inner, 0x18, 0x20⟩, ⟨outer, 0x10, 0x20⟩, ⟨0, 0, 0⟩, ⟨3, 0, 0x40⟩] }

theorem meets_Loops : NoJobLoopEnds (sLoop 2 1) ∧ NoLoopEnds (sLoop 0 0)
    ∧ (∀ m : Fin 4, m ≠ 0 → ((sLoop 2 1).lp.get m).count = 0 ∨ ((sLoop 2 1).lp.get m).stop ≠ (sLoop 2 1).a
        ∨ ((sLoop 2 1).lp.get m).start < ((sLoop 2 1).lp.get 0).start) ∧ 1 < ((sLoop 2 1).lp.get 0).count.toNat
    ∧ ((sLoop 0 1).lp.get 1).stop = (sLoop 0 1).a ∧ ((sLoop 0 1).lp.get 1).count = 1
    ∧ (∀ m : Fin 4, m ≠ 1 → ((sLoop 0 1).lp.get m).count = 0 ∨ ((sLoop 0 1).lp.get m).stop ≠ (sLoop 0 1).a)
    ∧ Unvoted (mk (.eng .cx 0) (sLoop 2 1)) ∧ (mk (.eng .cx 0) (sLoop 2 1)).jobOf (.eng .cx 0) = none :=
  ⟨(fun _ h => nomatch h), (by unfold NoLoopEnds; decide), by decide, by decide, by decide, by decide, by decide, calm _ rfl, by decide⟩

/-- CX under a TMR prefix with a page, at its last word. -/
def sTmrLoad (up : Tab (UnitId × Bool) Bool) : State :=
  { mk (.eng .cx 0) { withPage (runs [(2, 0xFFFC)]) page with pfx := { Pfx.nil with tmr := true } } with tmrUpset := up }

theorem meets_TripleIssue : (sTmr []).me.pfx.tmr = true ∧ Tab.find? (sTmr []).tmrUpset ((sTmr []).cur, false) = none
    ∧ Tab.find? (sTmr [((.eng .cx 0, false), false)]).tmrUpset (.eng .cx 0, false) = some false
    ∧ Tab.find? (sTmr [((.eng .cx 0, false), true)]).tmrUpset (.eng .cx 0, false) = some true
    ∧ (sTmrLoad []).me.pfx.tmr = true
    ∧ okAnd (loadVia (sTmrLoad []) .plain 3 1 2 2 0) (fun t => (Tab.find? t.tmrUpset (t.cur, true)).isNone) = true
    ∧ Tab.find? (sTmrLoad [((.eng .cx 0, true), true)]).tmrUpset (.eng .cx 0, false) = none
    ∧ okAnd (loadVia (sTmrLoad [((.eng .cx 0, true), true)]) .plain 3 1 2 2 0) (fun _ => true) = true
    ∧ Tab.find? (sTmrLoad [((.eng .cx 0, true), true)]).tmrUpset (.eng .cx 0, true) = some true := by decide

/-- VE of core 0 whose queue from VL holds one token, whose queue from MX is closed, with 15 and 16 tokens in its queues to CX and
VL. -/
def sTok : State :=
  let full := fun n => (⟨List.replicate n ⟨0, false, Clock.empty⟩, 0, []⟩ : TokenQueue)
  let s := (mk (.eng .ve 0) (runs [])).setStream (.eng .mx 0) { Stream.reset with gen := 1, left := [0] }
  s.setCore 0 { Core.reset with tokens := [((.vl, .ve), full 1), ((.ve, .cx), full 15), ((.ve, .vl), full 16)] }

theorem meets_TokenWords : Unvoted sTok ∧ (lining sTok).toOption.isSome = true ∧ sTok.allPerformed sTok.cur = true
    ∧ okAnd (tokenPlace sTok 0 2) (fun x => decide (x = (0, .ve, .vl))
        && decide ((sTok.discardInto 0 .ve [.vl] sTok.me.gen).offer 0 .vl .ve 0 = .head ⟨0, false, Clock.empty⟩)) = true
    ∧ okAnd (tokenPlace sTok 0 4) (fun x => decide (x = (0, .ve, .mx))
        && decide ((sTok.discardInto 0 .ve [.mx] sTok.me.gen).offer 0 .mx .ve 0 = .closed)) = true
    ∧ sTok.earlierWaiter 0 2 = false ∧ sTok.earlierWaiter 0 4 = false
    ∧ okAnd (tokenPlace sTok 0 1) (fun x => decide (x = (0, .ve, .cx))) = true ∧ ((sTok.core 0).queue .ve .cx).toks.length = 15
    ∧ ((sTok.core 0).queue .ve .vl).toks.length = 16 :=
  ⟨calm _ rfl, by decide⟩

/-- VE in a job with one rendezvous and the last schedule, at generation 3; while a checkpoint seeks stop points, or not. -/
def sMeet (cut : Bool) : State :=
  let s := inJob1 (.eng .ve 0) { runs [] with gen := 3 } (cardOf 0 0 1 127 0 0 4)
  if cut then ({ s with jobs := [(1, { jobOf (cardOf 0 0 1 127 0 0 4) .running with phase := some .seeking })] }).setCore 0
      { Core.reset with cut := some 1 }
  else s

/-- A context, outside any job. -/
def sCtx (k : Ctx) (l : Tab Nat DWord) : State := mk (.ctx 0 k) (runs l)

theorem meets_MeetingPoints : Unvoted (sCtx .c []) ∧ (sCtx .c []).cur.isEngine = false ∧ Unvoted (sMeet false)
    ∧ okAnd (inJob (sMeet false)) (fun x => decide (cardRdvn x.2.words = 1) && decide (cardSched x.2.words = 127)) = true
    ∧ (4 - (sMeet false).me.gen).toNat = 1 ∧ (130 - (sMeet false).me.gen).toNat = 127 ∧ (131 - (sMeet false).me.gen).toNat = 128
    ∧ (3 - (sMeet false).me.gen).toNat = 0
    ∧ (sMeet false).cutPending (.eng .ve 0) = false ∧ (sMeet true).cutPending (.eng .ve 0) = true :=
  ⟨calm _ rfl, by decide, calm _ rfl, by decide⟩

theorem meets_TrapInstruction : Unvoted (sMeet false) ∧ Unvoted (sCtx .c []) := ⟨calm _ rfl, calm _ rfl⟩

theorem meets_ExceptionReturn : Unvoted (mk (.ctx 0 .c) { runs [] with th := true, epc := 0x40 })
    ∧ (mk (.ctx 0 .c) { runs [] with th := true, epc := 0x40 }).me.th = true ∧ (sCtx .c []).me.th = false :=
  ⟨calm _ rfl, by decide, by decide⟩

/-- VT takes the rounding and type 7; 8 is reserved. -/
theorem meets_SystemWords : Unvoted (sCtx .c [(1, 7)]) ∧ (sCtx .c [(1, 7)]).sysRead (.ctx 0 .c) 0x041 = some 64
    ∧ ((mk (.eng .ve 0) (runs [(1, 7)])).sysRead (.eng .ve 0) 0x020).isSome = true
    ∧ dbits ((mk (.eng .ve 0) (runs [(1, 7)])).rg 1) 3 0 < 8
    ∧ (lining (sCtx .c [])).toOption.isSome = true ∧ ∃ t, exec .halt (sCtx .c []) = .next t :=
  ⟨calm _ rfl, by decide, by decide, by decide, by decide, ⟨_, rfl⟩⟩

/-- CX with a handle in h1, of a page, and memory. -/
def sPage (p : Page) (l : Tab Nat DWord) : State :=
  { mk (.eng .cx 0) (withPage (runs l) p) with mem := [(0x1FFFC, 0x11), (0x1FFFD, 0x22)] }

/-- The last word of a page passes, one byte more does not, a half-word at an odd place does not. -/
theorem meets_Handles : (sPage page []).me.hr 0 = none ∧ (sPage page []).me.hr 1 = some (handleOf page)
    ∧ (handleOf page).state = .valid page ∧ ((handleOf page).revoked = false)
    ∧ { handleOf page with revoked := true }.revoked = true
    ∧ 0xFFFC + 4 ≤ 2 ^ page.bits ∧ 2 ^ page.bits < 0xFFFD + 4 ∧ 0xFFFC % 4 = 0 ∧ 0xFFFB % 2 ≠ 0
    ∧ { page with trellis := true }.trellis = true ∧ { page with writable := false }.writable = false
    ∧ Unvoted (sPage page []) ∧ (sPage page []).cur.half ≠ .mx ∧ (mk (.eng .mx 0) (runs [])).cur.half = .mx :=
  ⟨by decide, by decide, by decide, by decide, by decide, by decide, by decide, by decide, by decide, by decide, by decide,
   calm _ rfl, by decide, by decide⟩

/-- A page that has bytes in an uncorrectable codeword. -/
def sBad : State := { sPage page [(2, 0xFFFC)] with ecc := [(0x1FFE0, 3)] }

/-- A byte of the page that the host wrote and that nothing orders before CX's load. -/
def sEarly : State := { sPage page [(2, 0xFFFC)] with hist := [⟨0, ({ who := .host } : Writer), [(0x1FFFC, 0)]⟩] }

theorem meets_Loads : Unvoted (sPage page [(2, 0xFFFC)]) ∧ (sPage page []).cur.half ≠ .mx
    ∧ okAnd (access (sPage page [(2, 0xFFFC)]) 1 ((sPage page [(2, 0xFFFC)]).smOff 2 0 2) 4 false) (fun x =>
        okAnd (x.go (sPage page [(2, 0xFFFC)])) (fun _ => true) && decide ((sPage page []).firstBad x.pas = none)
        && decide (x.page.ltype = 0)) = true
    ∧ okAnd (access sBad 1 (sBad.smOff 2 0 2) 4 false) (fun x =>
        okAnd (x.go sBad) (fun _ => true) && decide (sBad.firstBad x.pas = some 0)) = true
    ∧ (sPage page []).cur.isEngine = true ∧ (sCtx .c []).cur.isEngine = false
    ∧ ((sEarly.unbound (.unit (.eng .cx 0) 0) Clock.empty [0x1FFFC]).length, (sPage page []).unbound (.unit (.eng .cx 0) 0) Clock.empty [0x1FFFC]) = (1, []) := by
  exact ⟨calm _ rfl, by decide⟩

/-- A store that waits to be performed. -/
def pend (bytes : List (Nat × Byte)) : Pending :=
  ⟨0, .eng .cx 0, some 0, 1, .store, bytes, 0x4FFFC, false, none, 0, 0, 0x40000, 0⟩

theorem meets_Stores : Unvoted (sPage page [(2, 0xFFFC)])
    ∧ okAnd (access (sPage page [(2, 0xFFFC)]) 1 ((sPage page [(2, 0xFFFC)]).smOff 2 0 2) 4 true) (fun x =>
        okAnd (x.go (sPage page [(2, 0xFFFC)])) (fun _ => true) && decide (x.page.ltype = 0)) = true
    ∧ (sPage page []).trackerUsed 0 = 0
    ∧ ({ sPage page [] with pending := [pend [(0x1FFFC, 0), (0x1FFFD, 9)]] } : State).mayPerform 0
        (pend [(0x1FFFC, 0), (0x1FFFD, 9)]) = true ∧ Mem.wf (sPage page []).mem = true
    ∧ ([(0x1FFFC, (0 : Byte)), (0x1FFFD, 9)].map fun c => (sPage page []).direct c.1).Nodup :=
  ⟨calm _ rfl, by decide⟩

theorem meets_LatticeLaws : 1 ≤ 7 ∧ 7 ≤ 8 ∧ 2 ^ 64 - 1 < 2 ^ (8 * accessSize 7) ∧ 2 ^ 32 - 1 < 2 ^ (8 * accessSize 1) := by decide

theorem meets_AtomicOperations : Unvoted (sPage page [(2, 0xFFF8)])
    ∧ okAnd (access (sPage page [(2, 0xFFF8)]) 1 ((sPage page [(2, 0xFFF8)]).rg 2).toNat 8 true) (fun x =>
        decide (x.page.ltype = 0) && okAnd (x.go (sPage page [(2, 0xFFF8)])) (fun _ => true)
        && decide ((sPage page []).firstBad x.pas = none) && decide (x.page.hash = 0)) = true
    ∧ (sPage page [(2, 0xFFF8)]).allPerformed (sPage page [(2, 0xFFF8)]).cur = true := ⟨calm _ rfl, by decide, by decide⟩

/-- The page of core 0's scratchpad from offset 0. -/
def spPage : Page := { page with pa := scratchPa 0 0 0 }

/-- CX with a handle of the scratchpad; locks held by it, or by VL with CX waiting. -/
def sLock (own : Nat) : State :=
  let held := fun (n : Nat) => (⟨1, n, .eng .cx 0, none, false, none⟩ : Lock)
  (sPage spPage [(2, 0x40)]).setCore 0 { Core.reset with locks := (List.range own).map held }

def sWait : State :=
  ((mk (.eng .cx 0) { withPage (runs [(2, 0x40)]) spPage with waiting := some ⟨0, none⟩ }).setCore 0
    { Core.reset with lockWaiters := [(3, 5, .eng .cx 0)] })

theorem meets_Locks : Unvoted (sLock 0)
    ∧ okAnd (access (sLock 0) 1 ((sLock 0).smOff 2 0 3) 8 false) (fun x => okAnd (x.go (sLock 0)) (fun _ => true)
        && okAnd (lockPlace (sLock 0) x) (fun p => decide (((sLock 0).locksOf (.eng .cx 0)).length = 0)
          && decide ((sLock 0).lockAt p.1 p.2.1 p.2.2 = none)
          && decide ((sLock 1).lockAt p.1 p.2.1 p.2.2 = none))
        && decide ((sLock 0).firstBad x.pas = none)) = true
    ∧ ((sLock 1).locksOf (.eng .cx 0)).length = 1 ∧ ((sLock 2).locksOf (.eng .cx 0)).length = 2
    ∧ okAnd (access (sLock 2) 1 ((sLock 2).smOff 2 0 3) 8 false) (fun x => okAnd (x.go (sLock 2)) (fun _ => true)) = true
    ∧ okAnd (access (sLock 1) 1 ((sLock 1).smOff 2 0 3) 8 true) (fun x => okAnd (x.go (sLock 1)) (fun _ => true)) = true
    ∧ sWait.lockAt 0 3 5 = none
    ∧ ((sWait.core 0).lockWaiters.find? fun w => decide (w.1 = 3) && decide (w.2.1 = 5)
        && decide ((sWait.stream w.2.2).run = .running) && (sWait.stream w.2.2).waiting.isSome) = some (3, 5, .eng .cx 0) :=
  ⟨calm _ rfl, by decide⟩

/-- CX with a set of the tag table: one filling way, or four ways; slot 6143 and 6144 in g2 and g3. -/
def sTags (n : Nat) : State :=
  (mk (.eng .cx 0) (runs [(1, 0x10000), (2, 6143), (3, 6144)])).setCore 0
    { Core.reset with ways := (List.range n).map fun i => ⟨(tagKey 0x10000).1, i, (tagKey 0x10000).2 + 1 + i, i, .valid, 0, none⟩ }

theorem meets_TagTable : Unvoted (sTags 4) ∧ okAnd (onlyCore (sTags 4)) (fun c => decide (c = 0)) = true
    ∧ wayOf ((sTags 4).core 0).ways 0x10000 = none ∧ putWay ((sTags 4).core 0).ways 0x10000 6143 .valid 0 = none
    ∧ (putWay ((sTags 3).core 0).ways 0x10000 6143 .valid 0).isSome = true
    ∧ (((putWay ((sTags 3).core 0).ways 0x10000 6143 .valid 0).bind fun ws => wayOf ws 0x10000).map (·.slot)) = some 6143
    ∧ ((sTags 4).rg 2).toNat < 6144 := ⟨calm _ rfl, by decide⟩

theorem meets_DrainAndFence : Unvoted (sPage page []) ∧ (sPage page []).cur.half ≠ .mx ∧ (5 : BitVec 3).toNat < 6
    ∧ (sPage page []).me.waiting = none ∧ (sPage page []).drained 0 5 (sPage page []).cmdSeq = true
    ∧ (sPage page []).me.hr 1 = some (handleOf page) ∧ (sPage page []).allPerformed (.eng .cx 0) = true
    ∧ (sCtx .c []).drained 0 5 (sCtx .c []).cmdSeq = true ∧ (sCtx .c []).drained 1 5 (sCtx .c []).cmdSeq = true := by
  exact ⟨calm _ rfl, by decide⟩

/-- CX with a lattice page in h1: its type, g2 its cell, g3 the value 5; memory holds 5 in the cell. -/
def sCell (t : Nat) : State :=
  { mk (.eng .cx 0) (withPage (runs [(2, 0x80), (3, 5), (4, 6), (5, 4)]) { page with ltype := t }) with mem := [(0x10080, 5)] }

/-- MAXU32 takes the value it holds and a greater one, not a smaller one; a half-word store to it has the wrong size. -/
theorem meets_LatticeCells_stores : Unvoted (sCell 1)
    ∧ ([(3 : BitVec 5), 4, 5].map fun r => okAnd (access (sCell 1) 1 ((sCell 1).smOff 2 0 2) 4 true) fun x =>
        okAnd (x.go (sCell 1)) (fun _ => true) && decide (x.page.ltype ≠ 0) && decide (4 = accessSize x.page.ltype)
        && geq 1 (((sCell 1).rg r).toNat) (leNat ((sCell 1).rdAll x.pas))) = [true, true, false]
    ∧ okAnd (access (sCell 1) 1 ((sCell 1).smOff 2 0 1) 2 true) (fun x => decide (2 ≠ accessSize x.page.ltype)) = true :=
  ⟨calm _ rfl, by decide, by decide⟩

/-- LWAIT of the cell, at its timeout. -/
def sLate : State := (sCell 1).setMe { (sCell 1).me with waiting := some ⟨0, some 0⟩, word := 0x61208882 }

/-- LJOIN of MAXU32 and of GCNT64; LWAIT for the value held, not for a greater one; a wait that has run out. -/
theorem meets_LatticeCells_joins : okAnd (latticeCell (sCell 1) 1 2 2 true) (fun x => decide (x.page.ltype = 1)) = true
    ∧ okAnd (latticeCell (sCell 7) 1 2 3 true) (fun x => decide (x.page.ltype = 7)) = true
    ∧ (sCell 1).allPerformed (.eng .cx 0) = true
    ∧ okAnd (latticeCell (sCell 1) 1 2 2 false) (fun x => decide ((sCell 1).firstBad x.pas = none)
        && ((sCell 1).cellReached x 4 5).2.1 && !((sCell 1).cellReached x 4 6).2.1) = true
    ∧ sLate.mayRun (.eng .cx 0) = true ∧ 0 ≤ sLate.tick ∧ (decode .cx sLate.me.word).toOption = some (.lwait 4 1 2 4 2) := by decide

/-- The image of R154's example at the page's start: TCW1, bell, K = 512, N = 2, streams of zeros, scales 1.0. -/
def trdBytes : List Byte :=
  bytesOf [1, 4, 512, 2, 0, 0, 0, 0, 0, 0, 0, 0, 0, 0, 0, 0]
    ++ (List.range 4).flatMap fun _ => leBytes 4 0x0007F1FC ++ List.replicate 32 0

def sTrd : State :=
  { mk (.eng .cx 0) ((runs [(5, 0x0100012C), (6, 0x2000000)]).wh 2 (some (handleOf page))) with mem := memAt 0x10000 trdBytes }

/-- R154's example: column 1 and k = 300 give the value 4 under the scale 1.0. -/
theorem test_trd_example : (match exec (.trd 3 2 4 5) sTrd with | .next t => t.me.rg 3 | _ => 0) = 0x000001FC00000004 := by decide +kernel

/-- R154's example: n = 2 raises FORMAT with EINFO the operand. -/
theorem test_trd_bound : (match exec (.trd 3 2 4 6) sTrd with | .next t => (t.me.cause, t.me.einfo) | _ => (0, 0))
    = (BitVec.ofNat 64 (Cause.format.code + 3 * 4096), 0x2000000) := by decide +kernel

theorem meets_InfoAndTrellisRead : Unvoted sTrd ∧ dbits (sTrd.rg 5) 63 48 = 0
    ∧ okAnd (handle sTrd 2 0 64 false true) (fun x => okAnd (readTcwHeader sTrd x.2 0) fun y =>
        decide (dbits (sTrd.rg 5) 23 0 < y.2.k) && decide (dbits (sTrd.rg 5) 47 24 < y.2.n) && !y.2.table
        && decide (y.2.blockAt 1 1 + y.2.mode.bytes ≤ 2 ^ x.2.bits)
        && okAnd (readPage y.1 x.2 (y.2.blockAt 1 1) 36) fun z => decide (bits (wordAt z.2 0) 31 20 = 0)) = true
    ∧ okAnd (onlyCore sTrd) (fun c => decide (c = 0)) = true ∧ sTrd.jobOf sTrd.cur = none
    ∧ (let j : Job := { jobOf (cardOf 4 2 0 0 0 0 1) .running with origin := .watch 0 0 .c, pend := 3 }
      { inJob1 (.eng .cx 0) (runs []) j.words with jobs := [(1, j)] }.jobOf (.eng .cx 0) = some j) :=
  ⟨calm _ rfl, by decide +kernel, by decide +kernel, by decide +kernel, by decide +kernel, rfl⟩

/-- A context of LC0 posts card 5; of LC16 uses the firmware's ports. -/
def sPost : State := { sCtx .c [(1, 5), (2, 0)] with cards := [(5, ⟨cardOf 0 0 0 0 0 0 1, .prepared, 0, Clock.empty⟩)] }

def sFirm (l : Tab Nat DWord) : State := mk (.ctx 16 .c) (runs l)

theorem meets_CommandPorts : (lining sPost).toOption.isSome = true ∧ sPost.allPerformed (.ctx 0 .c) = true
    ∧ okAnd (Machine.post sPost 0 .c 5 0) (fun _ => true) = true
    ∧ (lining (sFirm [])).toOption.isSome = true ∧ (sFirm []).allPerformed (.ctx 16 .c) = true
    ∧ dbits ((sFirm [(1, 0x100)]).rg 1) 9 8 = 1 ∧ dbits ((sFirm []).rg 1) 9 8 = 0 ∧ dbits ((sFirm [(1, 17)]).rg 1) 4 0 < 18
    ∧ 18 ≤ dbits ((sFirm [(1, 18)]).rg 1) 4 0 ∧ (sFirm []).invals.length < 64 ∧ dbits ((sFirm [(1, 1)]).rg 1) 1 0 = 1
    ∧ dbits ((sFirm [(1, 2)]).rg 1) 1 0 = 2
    ∧ { sFirm [] with host := { HostSide.reset with irqPend := 1 } }.host.irqPend.getLsbD (dbits 0 5 0) = true
    ∧ (sFirm []).host.irqPend.getLsbD (dbits 63 5 0) = false := by decide

theorem meets_QueuePorts : (∀ i k, sPost.cur = .ctx i k → i < 16) ∧ (∀ i k, sTrd.cur = .ctx i k → i < 16) :=
  ⟨fun _ _ h => by cases h; decide, fun _ _ h => nomatch h⟩

/-- CX held in slot 54, from where the pool is the engines'. -/
def sHeld (double : Bool) : State :=
  { mk (.eng .cx 0) { runs [] with run := .held 54, epc := 0x40 } with
    saved := [holdEntry 54 1 (.eng .cx 0) none 0 1 0 double false] }

theorem meets_Resume : (sHeld false).saved.find? (fun y => decide (y.slot = 54) && !y.ending)
      = some (holdEntry 54 1 (.eng .cx 0) none 0 1 0 false false)
    ∧ ((sHeld false).stream (.eng .cx 0)).run = .held 54
    ∧ (sHeld false).slotIntact (holdEntry 54 1 (.eng .cx 0) none 0 1 0 false false) = true
    ∧ (sHeld true).saved.find? (fun y => decide (y.slot = 54) && !y.ending)
      = some (holdEntry 54 1 (.eng .cx 0) none 0 1 0 true false)
    ∧ ∀ y ∈ (sHeld true).saved, y.slot = 55 → y.ending = true := by decide

theorem meets_RegisterWriteRow : okAnd (mts (sCtx .c []) 0x002 0x40) (fun t => decide (t.me.epc = 0x40)) = true
    ∧ dbits 17 4 0 < 18 := by decide

/-- The context C of LC0 with a record in its page, card 5 prepared, card 9 empty, g1 = 5, g2 = 9. -/
def sPrep (ws : List Word) (st : SlotState) : State :=
  { ctxAt 0 .c [(1, 5), (2, 9)] (bytesOf (ws.map (·.toNat))) with cards := [(5, ⟨cardOf 0 0 0 0 0 0 1, .prepared, 0, Clock.empty⟩), (9, ⟨ws, st, 0, Clock.empty⟩)] }

theorem meets_CardsPreparedAndPosted_prep : (lining (sPrep (cardOf 0 0 0 0 0 0 1) .prepared)).toOption.isSome = true
    ∧ okAnd (readRecord (sPrep (cardOf 0 0 0 0 0 0 1) .prepared) 1 0 128) (fun x =>
        decide (firstWord (cardChecks (wordsOf x.2.2 32)) = none) && !(x.1.isTemplate 9) && decide ((x.1.card 9).state = .prepared))
      = true
    ∧ okAnd (readRecord (sPrep (cardOf 0 0 0 0 0 0 0) .empty) 1 0 128) (fun x =>
        decide (firstWord (cardChecks (wordsOf x.2.2 32)) = some 0)) = true
    ∧ (sPrep [] .empty).allPerformed (.ctx 0 .c) = true := by decide +kernel

theorem meets_CardsPreparedAndPosted_post : sPost.prepared 5 = true ∧ (sPost.card 5).state = .prepared
    ∧ ([1, 2, 3, 4].map fun n => cardFlag (sPost.card 5).words n) = [false, false, false, false]
    ∧ cardPlace (sPost.card 5).words = 0 ∧ (sPost.core 0).gated = false ∧ (sPost.core 0).jobq.length < 16
    ∧ (sPost.core 0).cut = none ∧ (sPost.core 0).posters = [] := by decide

/-- A finished kernel's entry in the scoreboard, one word in the pop ring. -/
def sBoard : State :=
  let s := sPrep (cardOf 0 0 0 0 0 0 1) .prepared
  s.setLc 0 { Lc.reset with scb := [⟨0, 0, 0, Clock.empty, .c, some 1, 0, 5, false, 0, [], [], 0, false, true, 0, []⟩], ringLC := [(7, Clock.empty)] }

theorem meets_ControlCoreWords : (lining sBoard).toOption.isSome = true ∧ dbits (sBoard.rg 1) 63 17 = 0
    ∧ sBoard.allPerformed (.ctx 0 .c) = true ∧ ((sBoard.lc 0).pushRing .c).length < 64 ∧ (sBoard.lc 0).popRing .c = (7, Clock.empty) :: []
    ∧ (sBoard.lc 0).scb.find? (fun e => e.kernel.isSome && decide (e.card = 5)) ≠ none
    ∧ (sBoard.lc 0).scb.find? (fun e => e.kernel.isNone && decide (e.id = 5)) = none
    ∧ sBoard.prepared 5 = true := by decide

/-- A transfer's record: 64 bytes from VA 0x40000 to the scratchpad of core 1. -/
def xferRec (core : Nat) : List Nat := [0x40000, 0, core, 0x100, 64, 1, 64, 64]

/-- The context C submits card 5 to core 0. -/
def sKrun (ws : List Word) : State :=
  { sCtx .c [(1, 5), (2, 0)] with cards := [(5, ⟨ws, .prepared, 0, Clock.empty⟩)] }

def kernelCard : List Word := cardOf 0 0 0 0 0 0 1

/-- An overlay image of one word, HALT, at the start of overlay memory. -/
def sOvly : State := ctxAt 0 .c [] (bytesOf [1, 0, 0, 0, 0x4D000000])

theorem meets_TransfersKernelsOverlays_xfer : okAnd (readRecord (ctxAt 0 .l [] (bytesOf (xferRec 1))) 1 0 32) (fun x =>
      decide (firstWord (xferChecks 0 (wordsOf x.2.2 8)) = none) && decide ((x.1.lc 0).freeEntry = some 0)) = true
    ∧ okAnd (readRecord (ctxAt 0 .l [] (bytesOf (xferRec 2))) 1 0 32) (fun x =>
      decide (firstWord (xferChecks 0 (wordsOf x.2.2 8)) = some 2)) = true := by decide

/-- An estimate of 1 is admitted, one of 0 refused. -/
theorem meets_TransfersKernelsOverlays_kernel : (sKrun kernelCard).prepared 5 = true
    ∧ okAnd (cellCheck (sKrun kernelCard) 0 kernelCard) (fun c => decide (c.2 = none)) = true
    ∧ (((sKrun kernelCard).lc 0).freeEntry = some 0) ∧ ((sKrun kernelCard).admission 0 0 kernelCard).isSome = true
    ∧ (sKrun (kernelCard.set 2 0)).prepared 5 = true ∧ (sKrun (kernelCard.set 2 0)).admission 0 0 (kernelCard.set 2 0) = none
    ∧ ((sKrun kernelCard).rg 2).toNat / 2 = 0 := by decide

theorem meets_TransfersKernelsOverlays_overlay : okAnd (readVia sOvly 1 0 16 16) (fun x =>
      let ws := wordsOf x.2.2 4
      decide (wd ws 0 = 1) && decide (0 + 16 + 4 ≤ 2 ^ x.2.1.bits) && decide (wd ws 1 % 16 = 0) && decide (wd ws 2 < 4)
        && decide (wd ws 3 = 0) && ((setBits 5 31).all fun e => !(x.1.engineBusyFor 0 0 e) && !(x.1.engineBusyFor 0 1 e))
        && okAnd (readVia x.1 1 16 4 4) fun y => decide (y.2.2.length = 4)) = true := by decide

/-- A handle of h1 whose walk is pending, at its first entry, or at a locked one. -/
def sWalk (retries : Nat) : State :=
  mk (.eng .cx 0) ((runs []).wh 1 (some ⟨0, 0x40000, .pending ⟨3, 0x2000, retries, 0⟩, false⟩))

/-- A delivery of four bytes on its way to the bounce buffer of die 0. -/
def sBounce : State := { mk (.eng .cx 0) (runs []) with toBounce := [⟨0, 0, 0x40000, 0, 4, [1, 2, 3, 4], .cx 0 0⟩] }

/-- A unit that moves a frame, at its last sector; one that an error has stopped and that copies back. -/
def sMig (cause cursor : Nat) (ending : Bool) : State :=
  (mk (.eng .cx 0) (runs [])).setMig 0 ⟨0x10000, 0x20000, false, true, false, cause, cursor, ending⟩

theorem meets_MemoryRows : (sWalk 0).me.hr 1 = some ⟨0, 0x40000, .pending ⟨3, 0x2000, 0, 0⟩, false⟩ ∧ 0 ≤ (sWalk 0).tick
    ∧ (sWalk 1).me.hr 1 = some ⟨0, 0x40000, .pending ⟨3, 0x2000, 1, 0⟩, false⟩
    ∧ sBounce.toBounce[0]? = some ⟨0, 0, 0x40000, 0, 4, [1, 2, 3, 4], .cx 0 0⟩
    ∧ (({ sBounce with toBounce := sBounce.toBounce.drop 1 } : State).bounceIn ⟨0, 0, 0x40000, 0, 4, [1, 2, 3, 4], .cx 0 0⟩).isSome
      = true
    ∧ (let m := (sMig 0 63 false).mig 0
      m.busy = true ∧ m.done = false ∧ m.cause = 0 ∧ paExists (framePa m.src + 1024 * m.cursor) = true
        ∧ paExists (framePa m.dst + 1024 * m.cursor) = true)
    ∧ (let m := (sMig 19 1 true).mig 0
      m.busy = true ∧ m.cursor ≠ 0 ∧ paExists (framePa m.dst + 1024 * (m.cursor - 1)) = true
        ∧ paExists (framePa m.src + 1024 * (m.cursor - 1)) = true) := by decide

theorem meets_MemoryRows_open (cause cursor : Nat) (ending : Bool) (pas : List Nat) :
    (sMig cause cursor ending).chanShut pas none = false ∧ (sMig cause cursor ending).ecc = [] := ⟨rfl, rfl⟩

/-- A kernel submitted, ready, issued, and started. -/
def sSubmitted : State := after (exec (.krun 3 1 2) (sKrun kernelCard))
def sReady : State := after (exec (.cardReady 0 0) sSubmitted)
def sIssued : State := after (exec (.queueIssue 0) sReady)
def sStarted : State := after (exec (.jobStart 0) sIssued)

theorem meets_JobsStart : ((sSubmitted.kernelAt 0 0).map fun x => sSubmitted.readyNow 0 x.2) = some true
    ∧ ((sReady.nextIssue 0).map (·.1)) = some 1
    ∧ ((sIssued.starts 0).map fun x => (x.1, x.2.2.core, x.2.2.state)) = some (1, 0, .queued) := by decide

/-- The stream of the kernel runs from its reset registers. -/
theorem test_job_runs : (sStarted.stream (.eng .cx 0)).run = .running ∧ (sStarted.stream (.eng .cx 0)).job = some 1
    ∧ (sStarted.card 5).state = .running := by decide

/-- The submitted kernel at its latest start, the started one at its deadline. -/
def sLatest : State :=
  { sSubmitted with now := 10 * (((sSubmitted.kernelAt 0 0).map fun x => x.2.deadline - x.2.est).getD 0) }

def sOver : State := { sStarted with now := 10 * (((sStarted.job? 1).map (·.deadline)).getD 0) }

/-- A context that is owed a cause. -/
def sOwed : State := (sCtx .c []).setLc 0 { Lc.reset with owedC := [⟨.deadlineMiss, 5, 0⟩] }

theorem meets_JobsMeetCompleteAndReport_causes :
    ((sLatest.kernelAt 0 0).map fun x => (x.1, x.2.origin, sLatest.withdrawNow x.2)) = some (1, .krun 0 .c 0, true)
    ∧ ((sOver.job? 1).map fun j => (j.origin, sOver.missNow j)) = some (.krun 0 .c 0, true)
    ∧ sOwed.owed 0 .c = ⟨.deadlineMiss, 5, 0⟩ :: [] ∧ (sOwed.stream (.ctx 0 .c)).run = .running
    ∧ (sOwed.stream (.ctx 0 .c)).waiting = none
    ∧ (sHeld false).saved.find? (fun y => decide (y.unit = .eng .cx 0) && !y.noticed && decide (y.kind = 1 ∨ y.kind = 3))
      = some (holdEntry 54 1 (.eng .cx 0) none 0 1 0 false false)
    ∧ (sHeld false).faultq.length < 256 ∧ periodDue 108800 (max 1 State.reset.ports.purseRate.toNat) State.reset.served.purse = true := by
  decide

/-- The streams of a job at a rendezvous, at a switch point, halted; an entry that waits for room. -/
def sRdv : State := after (exec (.rdv 0) (sMeet false))
def sSwpt : State := (after (exec (.swpt 63) (sMeet false))).setCore 0 { Core.reset with jobq := [1] }
def sHalted : State := after (exec .halt (sMeet false))
def sFifo : State := (sCtx .c []).setCore 0 { Core.reset with doneWait := [(5, 1, 7)], done := List.replicate 63 (1, 1) }

theorem meets_JobsMeetCompleteAndReport_meeting : sRdv.liveStreams 1 = [.eng .ve 0]
    ∧ (sRdv.job? 1).map (·.allStarted) = some true ∧ (sRdv.stream (.eng .ve 0)).run = .parked (.rdv 0)
    ∧ sRdv.allPerformed (.eng .ve 0) = true ∧ sSwpt.switchDue 0 = some (1, 63)
    ∧ ((sHalted.job? 1).map fun j => j.insts.any fun i => decide (i.core = 0) && decide (i.state = .halted)) = some true
    ∧ sHalted.instDone 1 0 = true ∧ ((sHalted.job? 1).map fun j => j.insts.all fun i => decide (i.core = 0)) = some true
    ∧ (sFifo.core 0).doneWait = (5, 1, 7) :: [] ∧ (sFifo.core 0).done.length < 64 := by decide

/-- The reset machine at a tick. -/
def atTick (n : Nat) : State := { State.reset with now := 10 * n }

/-- A core that fell from a level one dwell ago, and one whose forced drop waits. -/
def sFall : State := (atTick 3400).setCore 0 { Core.reset with level := 3, grant := 1, fallFrom := some 0 }
def sDrop : State := (atTick 12).setCore 0 { Core.reset with level := 3, grant := 1, mxHold := true, drops := [⟨0, 1⟩] }

theorem meets_PowerAndPreemptionRows_power : periodDue (atTick 13600).tick 13600 State.reset.served.reallot = true
    ∧ periodDue (atTick 6800).tick 6800 (servedOf State.reset.served.boundary 0) = true
    ∧ periodDue (atTick 6800).tick 13600 State.reset.served.reallot = false
    ∧ periodDue (atTick 27200).tick 27200 (servedOf State.reset.served.refill 7) = true
    ∧ sFall.fallDue 0 = some 3400 ∧ sDrop.takeDue 0 = true ∧ (sDrop.core 0).drops = [⟨0, 1⟩]
    ∧ (atTick 4096).sampleDue 31 = true := by decide

/-- Job 1 runs on core 0 with an estimate; job 2, of a higher priority, is ready and holds tokens. -/
def sNewcomer (flags est : Nat) : State :=
  let low := (cardOf flags 0 0 0 0 0 4).set 2 (BitVec.ofNat 32 est)
  let high := (cardOf 0 0 0 0 0 0 4).set 0 0x013F0004
  let j1 := { jobOf low .running with started := true, issued := true }
  let j2 := { newJob 6 high (.post 0 .c) 0 0 0 false 0 Clock.empty with ready := true }
  let s := inJob1 (.eng .ve 0) (runs []) low
  ({ s with jobs := [(1, j1), (2, j2)], nextJob := 3, cards := [(5, ⟨low, .running, 0, Clock.empty⟩), (6, ⟨high, .ready, 16, Clock.empty⟩)],
            ports := { Ports.reset with saveSlots := 56 } }).setCore 0 { Core.reset with jobq := [1] }

/-- The three policies: a job that ends soon is drained, a long one that may be is killed, another checkpointed. -/
theorem meets_PowerAndPreemptionRows_decision :
    ([(0, 1), (0, 1000), (1, 2000)].map fun x => ((sNewcomer x.1 x.2).preemptor 0).map fun y => (y.1, y.2.2.1, y.2.2.2.1))
      = [some (1, 2, .drain), some (1, 2, .checkpoint), some (1, 2, .kill)] := by decide

/-- The checkpointed job's stream at its stop point; the cut arrived. -/
def sStop : State := after (exec (.ppoint 4) (after (exec (.preemptionDecision 0) (sNewcomer 0 1000))))
def sArrived : State := after (exec (.cutStopPointsReached 0) sStop)

theorem meets_PowerAndPreemptionRows_cut : (sStop.core 0).cut = some 1 ∧ (sStop.job? 1).map (·.phase) = some (some .seeking)
    ∧ (((sStop.instStreams 1 0).1.mapM (sStop.stopLive (sStop.instStreams 1 0).2)) = some [4])
    ∧ (((((sStop.instStreams 1 0).1.filter fun u => (sStop.stream u).run.live).map fun u => (sStop.stream u).gen).eraseDups).length
      ≤ 1)
    ∧ (sArrived.core 0).cut = some 1 ∧ (sArrived.job? 1).map (·.phase) = some (some (.arrived 4 0))
    ∧ sArrived.cutDrained 1 0 4 = true := by decide

/-! ### The matrix engine -/

/-- A tile descriptor: format, rows, K-blocks or columns (their fields less one), base; a plane and a pitch where the format has
them. -/
def tileBits (fmt rows kb base plane pitch : Nat) : BitVec 128 :=
  BitVec.ofNat 128 (fmt * 2 ^ 28 + base / 16 + (rows * 2 ^ 24 + kb * 2 ^ 12) * 2 ^ 32 + plane / 16 * 2 ^ 64
    + pitch / 16 * 2 ^ 112)

/-- MX of core 0: SXI8 operands in td0 and td1, CODED16 in td2, outputs SXI8, FP32, TWRout in td3 to td5; g1 is an offset. -/
def sMx (fa : Bool) : State :=
  let tds := Vector.ofFn fun i : Fin 16 =>
    if i.val ≤ 1 then tileBits 0 0 0 0x100 0x180 32 else if i.val = 2 then tileBits 2 0 0 0x100 0x180 64
    else if i.val = 3 then tileBits 7 0 0 0x200 0x280 32
    else if i.val = 4 then tileBits 6 0 0 0x200 0 16 else tileBits 8 0 0 0x200 0 0
  let m := { MxState.reset with td := tds, acc0 := { Acc.reset with fa := fa } }
  (mk (.eng .mx 0) (runs [(1, 0x400)])).setCore 0 { Core.reset with mx := m }

/-- What its command captures, and the state at its edge. -/
def qMx (s : State) : Queued := { s.me.capture 0 s.now with delta := s.me.pfx.delta 0, stamped := true }
def tMx (s : State) : State := s.moveT 0 (s.stampTick 0 (qMx s).delta)

theorem edge_mx (fa : Bool) : AtEdge (sMx fa) 0 0 0 (qMx (sMx fa)) (tMx (sMx fa)) :=
  ⟨rfl, rfl, rfl, by cases fa <;> decide, by cases fa <;> decide, by cases fa <;> decide, rfl, rfl⟩

theorem noPops_mx (fa : Bool) : maskEnds .mx (qMx (sMx fa)).pops = [] ∧ (qMx (sMx fa)).pushes = 0
    ∧ (qMx (sMx fa)).reached = 0 ∧ ((tMx (sMx fa)).core 0).mx.tref = 0 := by
  cases fa <;> decide

/-- A plan that misses no deadline, with no tokens, is in time. -/
theorem inTime_mx (fa : Bool) (p : MxPlan) (h : (tMx (sMx fa)).missCause 0 p false false = 0) :
    InTime (tMx (sMx fa)) 0 (qMx (sMx fa)) p := by
  have n := noPops_mx fa
  unfold InTime
  rw [n.1, n.2.1, n.2.2.1, n.2.2.2]
  exact ⟨fun e he => absurd he (List.not_mem_nil), h, rfl⟩

/-- Zeroing, the table, an export and rounding, normalising, saving and loading, in time. -/
theorem meets_StampedCommands_plans : AtEdge (sMx true) 0 0 0 (qMx (sMx true)) (tMx (sMx true))
    ∧ (∀ r, InTime (tMx (sMx true)) 0 (qMx (sMx true)) { array := false, cycles := 16, buf := some true, needsFinal := true, run := r })
    ∧ (∀ o r, InTime (tMx (sMx true)) 0 (qMx (sMx true))
        { array := true, cycles := 8, buf := none, needsFinal := false, reads := [(false, 0x400, 256)], op := o, run := r })
    ∧ (∀ d o r, InTime (tMx (sMx false)) 0 (qMx (sMx false))
        { array := false, cycles := 73, buf := some false, needsFinal := true, td := d, op := o, run := r })
    ∧ (∀ d o r, InTime (tMx (sMx false)) 0 (qMx (sMx false))
        { array := false, cycles := 65, buf := some false, needsFinal := true, td := d, op := o, run := r })
    ∧ (∀ r, InTime (tMx (sMx true)) 0 (qMx (sMx true)) { array := false, cycles := 256, buf := some false, needsFinal := true, run := r })
    ∧ (∀ r, InTime (tMx (sMx true)) 0 (qMx (sMx true))
        { array := false, cycles := 1088, buf := some false, needsFinal := true, image := true, run := r })
    ∧ (∀ o r, InTime (tMx (sMx true)) 0 (qMx (sMx true))
        { array := false, cycles := 4672, buf := some false, needsFinal := true, reads := [(false, 0x400, imageSize false)],
          image := true, op := o, run := r }) :=
  ⟨edge_mx true, fun _ => inTime_mx _ _ rfl, fun _ _ => inTime_mx _ _ rfl, fun _ _ _ => inTime_mx _ _ rfl,
    fun _ _ _ => inTime_mx _ _ rfl, fun _ => inTime_mx _ _ rfl, fun _ => inTime_mx _ _ rfl, fun _ _ => inTime_mx _ _ rfl⟩

/-- The multiplications have a plan that runs and is in time. -/
theorem meets_StampedCommands_multiply :
    okAnd (multiply (tMx (sMx false)) 0 ⟨0, 0, 0⟩ 0 1 false true true none) (fun p =>
      decide ((tMx (sMx false)).missCause 0 p false false = 0) && okAnd p.run fun _ => true) = true
    ∧ okAnd (multiply (tMx (sMx false)) 0 ⟨0, 0, 0⟩ 2 0 false true false (some 1)) (fun p =>
      decide ((tMx (sMx false)).missCause 0 p false false = 0) && okAnd p.run fun _ => true) = true := by decide

/-- The outputs pass their checks, the buffer flushes, the images lie in the scratchpad. -/
theorem meets_StampedCommands_checks :
    ([3, 4, 5].map fun d => okAnd (checkTile ⟨0, 0, d⟩ ((tMx (sMx false)).td 0 (BitVec.ofNat 4 d)) .out) fun o =>
      decide (o.fmt = d + (if d = 3 then 4 else if d = 4 then 2 else 3))) = [true, true, true]
    ∧ (((tMx (sMx false)).core 0).mx.buf false).flush.isSome = true
    ∧ ((((tMx (sMx true)).core 0).mx.buf false).elems.mapM fun ke => ke.2.norm.map fun e => (ke.1, e)) = some []
    ∧ ((tMx (sMx true)).rg 1).toNat = 0x400 ∧ 0x400 % 64 = 0 ∧ 0x400 + imageSize false ≤ scratchSize
    ∧ imageBad (wordsOf ((List.range 64).map fun i => (tMx (sMx true)).rd (scratchPa 0 0 (0x400 + i))) 16) = false
    ∧ (wd (wordsOf ((List.range 64).map fun i => (tMx (sMx true)).rd (scratchPa 0 0 (0x400 + i))) 16) 0 % 2 = 0) := by decide

theorem meets_StampedCommands_load (pas : List Nat) : (tMx (sMx true)).firstBad pas = none := State.firstBad_clean rfl rfl pas

theorem tokens_mx : Tokens (sMx false) 0 (sMx false) := ⟨⟨by decide, rfl, by decide⟩, by decide⟩

/-- An occupancy that has run out; one with a piece of an operand to settle; one with bytes to write. -/
def fMx : MxFlight := ⟨1, true, 0, 0, 0, 0, none, [], some true, some Acc.reset, [], [], none, none, false, false, false,
  ⟨0, Stream.reset, Vector.replicate 16 0, 1, []⟩⟩
def fReads : MxFlight := { fMx with op := some (.table 0), pieces := [((false, 0), List.replicate 64 0)], stop := 100 }
def fWrites : MxFlight := { fMx with writes := [(scratchPa 0 0 0, 7)], todo := [(scratchPa 0 0 0, 7)], stop := 100 }

def sFlight (f : MxFlight) : State :=
  (sMx false).setCore 0 { (sMx false).core 0 with mx := { ((sMx false).core 0).mx with flight := [f] } }

/-- The occupancy that the engine acts on next. -/
def acts (s : State) : Option MxFlight :=
  (s.core 0).mx.flight.find? fun f => s.mxGoes 0 f

/-- g1 is 1024, which MPI refuses; with g1 = 1 the pair of td0 and td1 passes. -/
theorem meets_MatrixPlainWords : (sMx false).cur = .eng .mx 0 ∧ Tokens (sMx false) 0 (sMx false)
    ∧ 64 < ((sMx false).rg 1).toNat ∧ 1 ≤ ((sMx false).wg 1 1).rg 1 ∧ ((sMx false).wg 1 1).rg 1 ≤ 64
    ∧ pairOk (tileOf ((sMx false).td 0 0)).fmt (tileOf ((sMx false).td 0 1)).fmt = true
    ∧ 1 * pairBound (tileOf ((sMx false).td 0 0)).fmt ≤ 2 ^ 31 - 1
    ∧ [fMx, fReads, fWrites].map (fun f => acts (sFlight f)) = [some fMx, some fReads, some fWrites]
    ∧ ((List.range 64).all fun j => decide (MxView.byte ⟨sFlight fReads, 0, []⟩ false j = 0)) = true :=
  ⟨rfl, tokens_mx, by decide⟩

/-- An element in which nothing is pending, one K-block whose terms stay inside the 576 bits; one of FP4 sub-blocks. -/
theorem meets_PromotionIntervals : Elem.zero.i = 0 ∧ Elem.zero.count = 0 ∧ Elem.zero.pair = none ∧ Elem.zero.iHigh = 0
    ∧ Elem.zero.countHigh = 0 ∧ Elem.zero.pairHigh = none
    ∧ ([([(⟨[0x1FE], List.replicate 32 2⟩ : KBlock)], [(⟨[0x1F4], List.replicate 32 3⟩ : KBlock)])].all fun x =>
        (x.1.zip x.2).all fun p =>
          let v := dot p.1.xs p.2.xs * ((s10Sig (p.1.scales.headD 0) * s10Sig (p.2.scales.headD 0) : Nat) : Int)
            * 2 ^ (s10Exp (p.1.scales.headD 0) + s10Exp (p.2.scales.headD 0))
          decide (-2 ^ 575 ≤ v) && decide (v < 2 ^ 575)) = true := by decide +kernel

/-! ### The vector engines -/

/-- VE of core 0 with a type, the rounding 0, a mask stack, and for a source 31 a filled LQ entry behind another job's. -/
def sVe (t : Nat) (masks : List (BitVec 256)) : State :=
  let k := { Core.reset with ve := { Core.reset.ve with masks := masks },
                             lq := [⟨0, 7, false, 0, none, [], 4, none, none, 0, 0, true⟩, ⟨0, 0, true, 5, none, [], 4, none, none, 0, 0, true⟩] }
  (mk (.eng .ve 0) { runs [] with vt := BitVec.ofNat 64 t }).setCore 0 k

/-- The state after its turn, what it reads. -/
def vePopped (s : State) (srcs : List (BitVec 5)) : State :=
  s.setCore 0 { s.core 0 with lq := popped 0 (srcs.filter (· = 31)).length (s.core 0).lq }
def veIn (s : State) (t : ElemType) (srcs : List (BitVec 5)) : VeIn :=
  ⟨t, dbits s.me.vt 5 4, (s.core 0).ve.mask, veSources (s.core 0).ve srcs ((s.core 0).entriesOf 0)⟩

/-- The conditions of a turn that are decided. -/
def veReady (s : State) (t : ElemType) (srcs ds : List (BitVec 5)) : Bool :=
  decide (elemTypeOf (dbits s.me.vt 3 0) = some t) && (s.core 0).ready s.pkg 0 0 (srcs.filter (· = 31)).length
  && decide ((s.core 0).sq.length + (ds.filter (· = 31)).length ≤ 16)
  && (((s.core 0).entriesOf 0).take (srcs.filter (· = 31)).length).all fun e => decide (e.marked = none)

theorem turn_ve {s : State} {t : ElemType} {srcs ds : List (BitVec 5)} (hc : s.cur = .eng .ve 0) (hj : s.me.job = none) (ht : Tokens s 0 s)
    (h : veReady s t srcs ds = true) : VeTurn s 0 0 t srcs ds (vePopped s srcs) (veIn s t srcs) := by
  simp only [veReady, Bool.and_eq_true, decide_eq_true_eq, List.all_eq_true] at h
  refine ⟨hc, h.1.1.1, s, ht, ?_⟩
  simp only [hj, Option.getD_none]
  exact ⟨h.1.1.2, h.1.2, h.2, rfl, rfl⟩

theorem tokens_i32 : Tokens (sVe 2 []) 0 (sVe 2 []) := ⟨⟨by decide, rfl, by decide⟩, by decide⟩
theorem tokens_f32 : Tokens (sVe 7 []) 0 (sVe 7 []) := ⟨⟨by decide, rfl, by decide⟩, by decide⟩
theorem tokens_masks : Tokens (sVe 2 [0]) 0 (sVe 2 [0]) := ⟨⟨by decide, rfl, by decide⟩, by decide⟩
theorem tokens_full : Tokens (sVe 2 (List.replicate 16 1)) 0 (sVe 2 (List.replicate 16 1)) := ⟨⟨by decide, rfl, by decide⟩, by decide⟩

/-- Two sources, three, one; a popped source and a pushed result; the two kinds of type. -/
theorem meets_VectorElementResults : VeTurn (sVe 2 []) 0 0 .i32 [1, 31] [31] (vePopped (sVe 2 []) [1, 31]) (veIn (sVe 2 []) .i32 [1, 31])
    ∧ VeTurn (sVe 7 []) 0 0 .fp32 [1, 2] [3] (vePopped (sVe 7 []) [1, 2]) (veIn (sVe 7 []) .fp32 [1, 2])
    ∧ VeTurn (sVe 2 []) 0 0 .i32 [1, 2, 3] [3] (vePopped (sVe 2 []) [1, 2, 3]) (veIn (sVe 2 []) .i32 [1, 2, 3])
    ∧ VeTurn (sVe 7 []) 0 0 .fp32 [1, 2, 3] [3] (vePopped (sVe 7 []) [1, 2, 3]) (veIn (sVe 7 []) .fp32 [1, 2, 3])
    ∧ VeTurn (sVe 2 []) 0 0 .i32 [1] [3] (vePopped (sVe 2 []) [1]) (veIn (sVe 2 []) .i32 [1])
    ∧ VeTurn (sVe 7 []) 0 0 .fp32 [1] [3] (vePopped (sVe 7 []) [1]) (veIn (sVe 7 []) .fp32 [1]) :=
  ⟨turn_ve rfl rfl tokens_i32 (by decide), turn_ve rfl rfl tokens_f32 (by decide), turn_ve rfl rfl tokens_i32 (by decide),
    turn_ve rfl rfl tokens_f32 (by decide), turn_ve rfl rfl tokens_i32 (by decide), turn_ve rfl rfl tokens_f32 (by decide)⟩

theorem meets_VectorWrites : 32 ∈ [8, 16, 32]
    ∧ (⟨32, (List.range 64).map fun i => i, fun i => decide (i < 3)⟩ : VeOut).vals.length = 2048 / 32 ∧ (1 : BitVec 5) ≠ 31 := by
  decide

/-- The codes of the second source are 0, below both bounds; every part below its bound. -/
theorem meets_VectorSelections :
    VeTurn (sVe 7 []) 0 0 .fp32 [1, 2] [3] (vePopped (sVe 7 []) [1, 2]) (veIn (sVe 7 []) .fp32 [1, 2])
    ∧ VeTurn (sVe 2 []) 0 0 .i32 [1, 2] [3] (vePopped (sVe 2 []) [1, 2]) (veIn (sVe 2 []) .i32 [1, 2])
    ∧ VeTurn (sVe 7 []) 0 0 .fp32 [1] [3, 2] (vePopped (sVe 7 []) [1]) (veIn (sVe 7 []) .fp32 [1])
    ∧ VeTurn (sVe 2 []) 0 0 .i32 [1] [3] (vePopped (sVe 2 []) [1]) (veIn (sVe 2 []) .i32 [1])
    ∧ VeTurn (sVe 2 []) 0 0 .i32 [] [3] (vePopped (sVe 2 []) []) (veIn (sVe 2 []) .i32 [])
    ∧ VeTurn (sVe 2 []) 0 0 .i32 [1] [] (vePopped (sVe 2 []) [1]) (veIn (sVe 2 []) .i32 [1])
    ∧ VeTurn (sVe 2 []) 0 0 .i32 [3] [3] (vePopped (sVe 2 []) [3]) (veIn (sVe 2 []) .i32 [3])
    ∧ ElemType.fp32.isFloat = true ∧ ElemType.i32.isFloat = false
    ∧ (3 : BitVec 2).toNat < 256 / (2048 / 32) ∧ (3 : BitVec 2).toNat < 8 / (veIn (sVe 7 []) .fp32 [1, 2]).blocks
    ∧ ((elemsOf 16 ((veIn (sVe 7 []) .fp32 [1, 2]).src.getD 1 0)).all fun h => decide (h < 1020)) = true
    ∧ elemTypeOf (5 : BitVec 4).toNat = some .fp16 ∧ (1 : BitVec 2).toNat < cvtParts 16 32 :=
  ⟨turn_ve rfl rfl tokens_f32 (by decide), turn_ve rfl rfl tokens_i32 (by decide), turn_ve rfl rfl tokens_f32 (by decide),
    turn_ve rfl rfl tokens_i32 (by decide), turn_ve rfl rfl tokens_i32 (by decide), turn_ve rfl rfl tokens_i32 (by decide),
    turn_ve rfl rfl tokens_i32 (by decide), by decide⟩

/-- The mask stack empty, with one mask that is off, full. -/
theorem meets_MaskStack : VeTurn (sVe 2 []) 0 0 .i32 [] [] (vePopped (sVe 2 []) []) (veIn (sVe 2 []) .i32 [])
    ∧ VeTurn (sVe 2 []) 0 0 .i32 [1] [] (vePopped (sVe 2 []) [1]) (veIn (sVe 2 []) .i32 [1])
    ∧ VeTurn (sVe 2 [0]) 0 0 .i32 [] [] (vePopped (sVe 2 [0]) []) (veIn (sVe 2 [0]) .i32 [])
    ∧ ((sVe 2 []).core 0).ve.masks = [] ∧ ((sVe 2 [0]).core 0).ve.masks = 0 :: []
    ∧ ((List.range 64).all fun i => !(veIn (sVe 2 [0]) .i32 []).on i) = true
    ∧ VeTurn (sVe 2 (List.replicate 16 1)) 0 0 .i32 [1] [] (vePopped (sVe 2 (List.replicate 16 1)) [1])
      (veIn (sVe 2 (List.replicate 16 1)) .i32 [1])
    ∧ 16 ≤ ((sVe 2 (List.replicate 16 1)).core 0).ve.masks.length ∧ (2 : BitVec 4).toNat < 8 :=
  ⟨turn_ve rfl rfl tokens_i32 (by decide), turn_ve rfl rfl tokens_i32 (by decide), turn_ve rfl rfl tokens_masks (by decide), rfl, rfl,
    by decide, turn_ve rfl rfl tokens_full (by decide), by decide, by decide⟩

/-! ### The vector access engine and the copy engine -/

/-- VL of core 0 with h1 on the page; g1 = 0x40, g2 = 4; an index entry whose first element is enabled, or none is; memory. -/
def sVl (p : Page) (en : BitVec 256) (bs : List Byte) : State :=
  { (mk (.eng .vl 0) (withPage (runs [(1, 0x40), (2, 4)]) p)).setCore 0 { Core.reset with sq := [⟨8, en⟩] }
    with mem := memAt 0x10000 bs }

/-- The page of another core's scratchpad. -/
def pageOver : Page := { page with pa := scratchPa 0 1 0x10000 }

def lineVl (s : State) (o : Nat) : List VlElem := [⟨(s.rg 1 + BitVec.ofNat 64 (32 * o)).toNat, 256, 0⟩]
def stepsVl (s : State) : List VlElem := (List.range 4).map fun i => ⟨(s.rg 1 + BitVec.ofNat 64 i * s.rg 2).toNat, 4, 4 * i⟩
def picksVl (s : State) (q : SqEntry) : List VlElem := ((List.range 64).filter fun i => q.en.getLsbD (4 * i)).map fun i =>
  ⟨(s.rg 1 + BitVec.ofNat 64 (q.data.toNat / 2 ^ (32 * i) % 2 ^ 32)).toNat, 4, 4 * i⟩

/-- A checked access that goes on: foreign or not, with something to reach or not. -/
def reaches (s : State) (r : M VlAccess) (foreign some_ : Bool) : Bool :=
  okAnd r fun x => okAnd (x.go s 0 (x.foreign 0 0)) fun _ => x.foreign 0 0 == foreign && !x.src.isEmpty == some_

theorem tokens_vl (p : Page) (en : BitVec 256) (bs : List Byte) : Tokens (sVl p en bs) 0 (sVl p en bs) :=
  no_tokens rfl rfl rfl

theorem meets_VectorAccess_shapes :
    reaches (sVl page 1 []) (vlCheck (sVl page 1 []) 1 4 false (lineVl (sVl page 1 []) 3)) false true = true
    ∧ reaches (sVl page 1 []) (vlCheck (sVl page 1 []) 1 4 true (lineVl (sVl page 1 []) 3)) false true = true
    ∧ reaches (sVl pageOver 1 []) (vlCheck (sVl pageOver 1 []) 1 4 false (lineVl (sVl pageOver 1 []) 3)) true true = true
    ∧ reaches (sVl pageOver 1 []) (vlCheck (sVl pageOver 1 []) 1 4 true (lineVl (sVl pageOver 1 []) 3)) true true = true
    ∧ reaches (sVl page 1 []) (vlCheck (sVl page 1 []) 1 4 false (stepsVl (sVl page 1 []))) false true = true
    ∧ reaches (sVl page 1 []) (vlCheck (sVl page 1 []) 1 4 true (stepsVl (sVl page 1 []))) false true = true
    ∧ reaches (sVl page 1 []) (vlCheck (sVl page 1 []) 1 4 false (picksVl (sVl page 1 []) ⟨8, 1⟩)) false true = true
    ∧ reaches (sVl page 0 []) (vlCheck (sVl page 0 []) 1 4 true (picksVl (sVl page 0 []) ⟨8, 0⟩)) false false = true
    ∧ ((sVl page 1 []).core 0).indexEntry = some ⟨8, 1⟩ ∧ (2 : BitVec 2) ≠ 3
    ∧ (((sVl page 1 []).setCore 0 { (sVl page 1 []).core 0 with sq := [] }).core 0).indexEntry = none
    ∧ ((sVl page 1 []).core 0).lq.length < 16 ∧ ((sVl page 1 []).core 0).sb = [] := by decide +kernel

/-- An image of one weight block in mode 2 with a table of zeros; its header lies at the place of g1 = 0x40. -/
def vldtImage : List Byte := List.replicate 64 0 ++ bytesOf ([0x102, 1, 1, 1] ++ List.replicate 12 0)

/-- VL reads bytes now. -/
def vlReads (s : State) (off n : Nat) : Bool :=
  okAnd (page.addrs (siteOf s.cur) off n) fun pas =>
    okAnd (VlAccess.go { page := some (0, page), src := pas.map fun pa => (0, pa, page.va + off) } s 0 true) fun _ =>
    okAnd (readPlain s (some page) pas fun _ => 0) fun _ => true

theorem meets_VectorAccess_block : Tokens (sVl page 0 vldtImage) 0 (sVl page 0 vldtImage)
    ∧ (sVl page 0 vldtImage).rg 3 = 0 ∧ ((sVl page 0 vldtImage).rg 1).toNat = 0x40
    ∧ okAnd (handleTo (sVl page 0 vldtImage) 1 0x40 64 64 false) (fun r => decide (r.2 = page)) = true
    ∧ ((tcwHeader (wordsOf ((List.range 64).map fun i => (sVl page 0 vldtImage).rd (0x10040 + i)) 16)).toOption.map fun h =>
      (h.mode.bytes, h.table, h.rows, h.n, 0x40 + h.blockAt 0 0)) = some (52, true, 1, 1, 384)
    ∧ vlReads (sVl page 0 vldtImage) 0x40 64 = true ∧ vlReads (sVl page 0 vldtImage) 0x80 256 = true
    ∧ vlReads (sVl page 0 vldtImage) 384 4 = true ∧ vlReads (sVl page 0 vldtImage) 388 48 = true :=
  ⟨tokens_vl _ _ _, by decide +kernel⟩

/-- A shape of two runs of 4 bytes, 8 apart, at 0x200 of the scratchpad; an encode record at 0x400: one row and block, one source of
coefficient 1. -/
def shapeRec : List Nat := [4, 2, 1, 0, 8, 0, 8, 0]
def encRec : List Nat := [1, 1, 0, 0x80, 0x90, 0, 0xA0, 0, 0, 0, 0, 0, 0, 0, 0xB0] ++ List.replicate 17 0

/-- CX of core 0: destinations of 4 bytes at 0x40 and of the shape, a source at 0x80, the encode record, a pattern. -/
def sCx : State :=
  { (mk (.eng .cx 0) (withPage (runs [(1, 3 * 2 ^ 40 + 0x40), (2, 0x80), (3, 16 * 2 ^ 40 + 0x40), (4, 0x400), (5, 0x1000),
      (6, 7), (7, 6144), (8, 5 * 2 ^ 56 + 0x40000), (9, 0x40000), (10, 0xFFFF * 2 ^ 40)]) page)).setCore 0 Core.reset with
    mem := Mem.setAll (memAt (scratchPa 0 0 0x200) (bytesOf shapeRec)) (cellsAt (scratchPa 0 0 0x400) (bytesOf encRec)) }

theorem idle_cx (c : Nat) : sCx.core c = Core.reset := by
  unfold State.core sCx State.setCore
  by_cases h : c = 0
  · subst h; rfl
  · simp [Tab.get, Tab.set, Tab.find?, mk, State.reset, Ne.symm h]

theorem cxTurn : CxTurn sCx 0 0 sCx := ⟨rfl, no_pops rfl rfl rfl, by decide, by decide, by decide⟩

/-- A copy and a fill of 4 bytes into the page, a shaped copy into it, from the scratchpad. -/
theorem meets_Copies : CxTurn sCx 0 0 sCx
    ∧ okAnd (openPlace sCx 0 1 (placeOff (sCx.rg 1)) 4 true) (fun d => okAnd (d.wholeCells d.off 4) fun _ =>
        okAnd (d.dests (siteOf sCx.cur) 0 (run d.off 4)) fun ds => okAnd (reach sCx (ds.filterMap Dest.pa?) (d.name d.off)) fun _ =>
        okAnd (openPlace sCx 1 1 (placeOff (sCx.rg 2)) 4 false) fun x => okAnd (x.dests (siteOf sCx.cur) 0 (run x.off 4)) fun sd =>
        !spansMeet (ds.filterMap Dest.pa?) (sd.filterMap Dest.pa?) && okAnd (readPlace sCx x 0 (run x.off 4)) fun _ => true) = true
    ∧ placeAux (sCx.rg 1) + 1 = 4 ∧ placeAux (sCx.rg 2) = 0 ∧ placeAux (sCx.rg 10) + 1 = 65536
    ∧ okAnd (openShape sCx 0 1 (placeOff (sCx.rg 3)) true) (fun d => okAnd (openShape sCx 1 1 (placeOff (sCx.rg 2)) false) fun x =>
        okAnd (readScratch sCx 0 (32 * placeAux (sCx.rg 3)) 32) fun r => decide (r.2 = shapeRec.map (BitVec.ofNat 32)) &&
        okAnd (d.inside (shapeOffs d.off 4 2 1 8 0)) fun doffs => okAnd (x.inside (shapeOffs x.off 4 2 1 8 0)) fun soffs =>
        ((List.range 2).all fun i => okAnd (d.wholeCells (doffs.getD (i * 4) 0) 4) fun _ => true) &&
        okAnd (d.dests (siteOf sCx.cur) 0 doffs) fun ds => okAnd (x.dests (siteOf sCx.cur) 0 soffs) fun sd =>
        !spansMeet (ds.filterMap Dest.pa?) (sd.filterMap Dest.pa?) && okAnd (reach r.1 (ds.filterMap Dest.pa?) 0) fun _ =>
        okAnd (readPlace r.1 x 0 soffs) fun _ => true) = true :=
  ⟨cxTurn, by decide +kernel⟩

/-- Nothing keeps CX from an access inside the package. -/
theorem sCx_reach (pas : List Nat) (e : DWord) (hash : Option Nat) (h : ∀ pa ∈ pas, kindOf pa = 2 → pkgOf pa = 0) :
    reach sCx pas e hash = .ok () := reach_idle idle_cx rfl rfl rfl _ _ _ h

theorem meets_Copies_encode : (∀ (pas : List Nat) (e : DWord), (∀ pa ∈ pas, kindOf pa = 2 → pkgOf pa = 0) → reach sCx pas e = .ok ())
    ∧ sCx.ecc = [] ∧ sCx.busBad = []
    ∧ (sCx.rg 4).toNat = 0x400 ∧ sCx.scratchWords 0 0x400 32 = encRec.map (BitVec.ofNat 32)
    ∧ firstWord (encChecks (encRec.map (BitVec.ofNat 32))) = none
    ∧ leNat (sCx.rdAt (scratchPa 0 0 (16 * 0xB0)) 2) < 1024 ∧ 16 * 0xA0 + 32 ≤ scratchSize :=
  ⟨fun _ _ => sCx_reach _ _ _, rfl, rfl, by decide⟩

/-- A remote destination of 8 bytes in package `pkg` at a VA that translates; the packages present are this one and 5. -/
def sRemote (pkg va : Nat) : State :=
  let s := withTables sCx
  { s.setMe ((s.me.wg 8 (BitVec.ofNat 64 (pkg * 2 ^ 56 + va))).wg 2 (BitVec.ofNat 64 (7 * 2 ^ 40 + 0x80))) with
    exchange := { s.exchange with present := [Config.pkgNo, 5] } }

theorem remoteTurn (pkg va : Nat) : CxTurn (sRemote pkg va) 0 0 (sRemote pkg va) :=
  ⟨rfl, no_pops rfl rfl rfl, by rw [State.stagingUsed, show ((sRemote pkg va).core 0).cx = [] from rfl]; decide,
    by rw [show ((sRemote pkg va).core 0).cx = [] from rfl]; exact fun _ h => absurd h List.not_mem_nil,
    by rw [show (sRemote pkg va).trackerUsed 0 = 0 from rfl]; decide⟩

/-- Eight bytes across the page that is here and the one that is not: a part and a record. -/
def landsBoth (s : State) : Bool :=
  okAnd (landings s s.me.root 8 0 (pieces64k 0x4FFFC 8)) fun ls => match ls.2 with
    | [.page _ _ _, .bounce _ _ _] => true
    | _ => false

theorem plain {p : Place} (h : p.page.map (·.2) = some page ∨ p.page = none) (r : Nat) (q : Page) (hq : p.page = some (r, q)) :
    q.layout = none := by
  rcases h with h | h
  · rw [hq] at h; cases h; rfl
  · rw [hq] at h; cases h

theorem mapM_mem {α β : Type} {f : α → M β} : ∀ {l : List α} {ys : List β}, l.mapM f = .ok ys → ∀ y ∈ ys, ∃ x ∈ l, f x = .ok y
  | [], ys, h, y, hy => by simp [pure, Except.pure] at h; subst h; exact absurd hy List.not_mem_nil
  | x :: xs, ys, h, y, hy => by
    simp only [List.mapM_cons, bind, Except.bind] at h
    cases hx : f x with
    | error e => simp [hx] at h
    | ok b =>
      cases hs : xs.mapM f with
      | error e => simp [hx, hs] at h
      | ok bs =>
        simp [hx, hs, pure, Except.pure] at h
        subst h
        rcases List.mem_cons.mp hy with rfl | hb
        · exact ⟨x, by simp, hx⟩
        · obtain ⟨z, hz, hf⟩ := mapM_mem hs y hb
          exact ⟨z, by simp [hz], hf⟩

/-- Every place of the page and of the core's own memories is read. -/
theorem sCx_reads {p : Place} (hp : p.page.map (·.2) = some page ∨ p.page = none) (ho : p.own = 0) {offs : List Nat}
    (hb : ∀ o ∈ offs, o < 2 ^ 25) : ∃ r, readPlace sCx p 0 offs = .ok r := by
  refine readPlace_idle idle_cx rfl rfl rfl rfl rfl (plain hp) _ _ ?_
  intro ds hd pa hpa hk
  obtain ⟨d, hm, hdp⟩ := List.mem_filterMap.mp hpa
  unfold Place.dests at hd
  cases hpg : p.page with
  | none =>
    rw [hpg] at hd
    simp only [Except.ok.injEq] at hd
    subst hd
    obtain ⟨o, hoff, rfl⟩ := List.mem_map.mp hm
    have := hb o hoff
    by_cases hs : p.space = 1
    · simp only [hs, if_true, Dest.pa?, Option.some.injEq] at hdp
      subst hdp
      show pkgOf _ = 0
      simp only [ho, scratchPa, pkgOf, bits]
      omega
    · simp [hs, Dest.pa?] at hdp
  | some q =>
    obtain ⟨r, q⟩ := q
    have hq : q = page := by rcases hp with h | h <;> rw [hpg] at h <;> simp at h; exact h
    subst hq
    rw [hpg] at hd
    obtain ⟨o, hoff, hf⟩ := mapM_mem hd d hm
    have := hb o hoff
    have hbyte : page.byte (siteOf sCx.cur) o = some (0x10000 + o) := rfl
    simp only [hbyte, Except.ok.injEq] at hf
    subst hf
    simp only [Dest.pa?, Option.some.injEq] at hdp
    subst hdp
    simp only [kindOf, bits] at hk
    omega

/-- To no package, to this one, to another one; a fetch and an eviction of slot 7, and of none. -/
theorem meets_RemoteCopiesAndSlots : CxTurn (sRemote 9 0x4FFFC) 0 0 (sRemote 9 0x4FFFC)
    ∧ CxTurn (sRemote Config.pkgNo 0x4FFFC) 0 0 (sRemote Config.pkgNo 0x4FFFC) ∧ CxTurn (sRemote 5 0) 0 0 (sRemote 5 0)
    ∧ ([9, Config.pkgNo, 5].map fun p => (sRemote p 0x4FFFC).exchange.present.contains (dbits ((sRemote p 0x4FFFC).rg 8) 61 56))
      = [false, true, true]
    ∧ okAnd (lengthOf ((sRemote 5 0).rg 2)) (fun n => decide (n = 8) &&
        okAnd (openPlace (sRemote 5 0) 1 0 (placeOff ((sRemote 5 0).rg 2)) n false) fun x =>
        okAnd (readPlace (sRemote 5 0) x 0 (run x.off n)) fun _ => true) = true
    ∧ landsBoth (sRemote Config.pkgNo 0x4FFFC) = true
    ∧ okAnd (slotRegion sCx 1 (sCx.rg 5).toNat false) (fun x => okAnd (x.regionPa (siteOf sCx.cur) 0) fun pa =>
        (fetchTags (sCx.core 0).ways 7 pa sCx.cmdSeq).isSome && decide (x.page.map (·.2) = some page)) = true
    ∧ okAnd (slotRegion sCx 1 (sCx.rg 5).toNat true) (fun x => decide (x.page.map (·.2) = some page)) = true
    ∧ (∀ p : Place, p.page.map (·.2) = some page ∨ p.page = none → p.own = 0 → ∀ offs, (∀ o ∈ offs, o < 2 ^ 25) →
        (∃ ds, p.dests (siteOf sCx.cur) 0 offs = .ok ds) ∧ ∃ r, readPlace sCx p 0 offs = .ok r)
    ∧ (∀ (pas : List Nat) (e : DWord) (hash : Option Nat), (∀ pa ∈ pas, kindOf pa = 2 → pkgOf pa = 0) → reach sCx pas e hash = .ok ())
    ∧ (sCx.rg 6).toNat < 6144 ∧ 6144 ≤ (sCx.rg 7).toNat :=
  ⟨remoteTurn _ _, remoteTurn _ _, remoteTurn _ _, by decide +kernel, by decide +kernel, by decide +kernel, by decide +kernel, by decide +kernel, fun _ hp ho _ hb =>
      ⟨Place.dests_ok (plain hp) _ _ _, sCx_reads hp ho hb⟩,
    sCx_reach, by decide +kernel, by decide +kernel⟩

/-- A push of VL to CTL that waits. -/
def sPushing : State := (sVl page 1 []).setCore 0 { (sVl page 1 []).core 0 with vlPushes := [⟨0, 0, 1, 0⟩] }

/-- A load of 4 bytes under way; its bytes' block failed; a store of 4 bytes that has its data, one that names nothing. -/
def sLoading : State := after (exec (.vldh 0 1 1 2 2 0) (sVl page 1 []))
def sBusBad : State := { sLoading with busBad := [(0x10040) / 256] }
def sStoring : State := after (exec (.vsth 0 1 1 2 2 0) (sVl page 1 []))
def sStored : State := after (exec (.vsct 0 1 1 2) ((sVl page 0 []).setCore 0 { (sVl page 0 []).core 0 with sq := [⟨0, 0⟩, ⟨0, 0⟩] }))

theorem meets_QueuedTransfersFinish_vectors :
    ((sLoading.core 0).lq.map fun e => (e.filled, sLoading.mayFill 0 0 e, decide (sLoading.firstBad e.pas = none),
      sBusBad.firstBad e.pas)) = [(false, true, true, some 0)]
    ∧ (sLoading.core 0).vlPushes = []
    ∧ (sPushing.core 0).vlPushes.find? (fun p => sPushing.performedBefore (.eng .vl 0) p.seq) = some ⟨0, 0, 1, 0⟩
    ∧ ((sStored.core 0).sb.find? fun e => e.data.isSome && e.dst.isEmpty
        && (decide (e.pushes = 0) || sStored.performedBefore (.eng .vl 0) e.seq)).isSome = true
    ∧ ((sStoring.core 0).sb.map fun e => (e.data.isSome, e.dst.isEmpty)) = [(true, false)]
    ∧ sStoring.sbPieces 0 (64 - (sStoring.trackerUsed 0 - ((sStoring.core 0).sb.filter (·.data.isSome)).length))
      = (0, 0) :: [] := by decide

/-- A copy that has bytes to write; one that has none. -/
def sCopied : State := after (exec (.cpy 0 0 1 1 1 1 2) sCx)
def fDone : CxFlight := ⟨3, 0, [], none, [], false, none, false, none, none, 0, 0⟩
def sDone : State := sCx.setCore 0 { Core.reset with cx := [fDone] }

/-- A stream transfer of 64 bytes as SXFER leaves it; one whose pieces are not found; one from a page that is not resident; one of which
no run is left. -/
def sSent : State := after (exec (.sxfer 1 0 2) (withTables (ctxAt 0 .l [] (bytesOf (xferRec 1)))))
def theEntry (s : State) : ScbEntry := (s.lc 0).scb.getD 0 default
def sLost : State := sSent.setEntry 0 0 fun x => { x with found := [] }
def sAway : State := sSent.setEntry 0 0 fun x => { x with found := [(0x40000, .away 0)] }
def sFault : State := sSent.setEntry 0 0 fun x => { x with found := [(0x40000, .fault .permission 0)] }
def sStaged : State := sSent.setEntry 0 0 fun x => { x with run := 1 }

theorem meets_QueuedTransfersFinish_copies :
    ((sDone.core 0).cx.find? fun f => sDone.cxWritten 0 f && (decide (f.pushes = 0) || sDone.performedBefore (.eng .cx 0) f.seq))
      = some fDone
    ∧ ((sCopied.core 0).cx.find? fun f => sCopied.cxWritten 0 f
        && (decide (f.pushes = 0) || sCopied.performedBefore (.eng .cx 0) f.seq)) = none
    ∧ sCopied.cxPieces 0 = (0, 0, 0) :: [(0, 0, 1), (0, 0, 2), (0, 0, 3)] := by decide

/-- The transfer of bytes whose codeword cannot be corrected; whether all its runs are staged, or end in a cause. -/
def sSentBad : State := { sSent with ecc := [(0x10000, 3)] }
def staged (s : State) (e : ScbEntry) : Bool × Bool :=
  match (s.freshView (e.agent 0) e.clock).stageRuns 0 e (transferRuns e.record) with
  | .ready _ _ _ => (true, false)
  | .cause v _ => (false, !v.xferBusy 0 e)
  | .wait => (false, false)

theorem meets_QueuedTransfersFinish_transfers :
    (theEntry sSent).kernel = none ∧ (theEntry sSent).finished = false ∧ (sSent.core (theEntry sSent).core).gated = false
    ∧ (sSent.core (theEntry sSent).core).railHold ≤ sSent.now ∧ (theEntry sSent).run = 0 ∧ (sSent.core (theEntry sSent).core).cut = none
    ∧ (xferPages (theEntry sSent).record).length = 1 ∧ (theEntry sSent).found.length = 1 ∧ (theEntry sLost).found = []
    ∧ (theEntry sSent).firstCause 0 = none ∧ (theEntry sFault).firstCause 0 = some .permission
    ∧ (theEntry sSent).requests 0 = [] ∧ (theEntry sAway).outbound = false ∧ (theEntry sAway).asked = false
    ∧ ((theEntry sAway).requests 0).length = 1
    ∧ (transferRuns (theEntry sSent).record)[0]? = some (0x40000, 0x100, 64)
    ∧ staged sSent (theEntry sSent) = (true, false) ∧ staged sSentBad (theEntry sSentBad) = (false, true) ∧ (theEntry sSent).total ≤ 65536
    ∧ (sSent.core (theEntry sSent).core).cx.length < 2 ∧ sSent.trackerUsed (theEntry sSent).core < 64
    ∧ (transferRuns (theEntry sStaged).record)[(theEntry sStaged).run]? = none ∧ sStaged.xferBusy 0 (theEntry sStaged) = false := by decide +kernel

/-! ### The network engine -/

/-- A route record at 0x1000 of the scratchpad: one token, one expert, capacity 4, payloads of 64 bytes; the token's choices. -/
def routeRec : List Nat := [1, 0x1100, 0x1200, 1, 4, 64, 0x1300, 0x1400, 0x1500] ++ List.replicate 7 0

/-- NX of die 0 in job 1 on core 0: g1 and g2 name 4 bytes of the scratchpad and die 1; g3 card 6; g4 the route record. -/
def sNx (k : Die) : State :=
  let s := (inJob1 (.nx 0) (runs [(1, 3 * 2 ^ 40 + 0x80), (2, 2 ^ 6), (3, 6), (4, 0x1000)]) (cardOf 0 0 0 0 0 0 16)).setCore 0 Core.reset
  { s.setDie 0 k with
    cards := [(6, ⟨cardOf 8 0 0 0 0 0 1, .prepared, 0, Clock.empty⟩)],
    mem := Mem.setAll (memAt (scratchPa 0 0 0x1000) (bytesOf routeRec)) (cellsAt (scratchPa 0 0 0x1100) (bytesOf [0xFFFF0000])) }

theorem nx_tokens (k : Die) : Tokens (sNx k) 0 (sNx k) := no_tokens rfl rfl rfl

/-- What its NRECV or NRED posts, a message of a length from die 1, and the receiver that it was delivered to. -/
def rNx (kind : Nat) : Receiver := ⟨9, kind, 0, 1, 2 ^ 6, false, noRoot, 0x80, 0, 4, 0, 0, 0, [], [], none, Clock.empty⟩
def msg (n : Nat) : NxHeader := ⟨Config.pkgNo, 1, 0, 7, List.replicate n 5⟩
def rDone (kind n : Nat) : Receiver := { rNx kind with done := some (msg n), filled := min n 4 }

theorem meets_NetworkWords : (sNx Die.reset).cur = .nx 0 ∧ (sNx Die.reset).coreOf (sNx Die.reset).cur = 0
    ∧ Tokens (sNx Die.reset) 0 (sNx Die.reset)
    ∧ okAnd (peerOk (sNx Die.reset) ((sNx Die.reset).rg 2) false) (fun _ =>
        okAnd (nxPlace (sNx Die.reset) 1 0 (placeOff ((sNx Die.reset).rg 1)) 4 false) fun x =>
        okAnd (readPlace (sNx Die.reset) x 0 (run x.off 4)) fun _ => true) = true
    ∧ okAnd (lengthOf ((sNx Die.reset).rg 1)) (fun n => decide (n = 4)) = true ∧ (sNx Die.reset).trackerUsed 0 < 64
    ∧ (sNx Die.reset).posted 0 = none
    ∧ okAnd (receiver (sNx Die.reset) 0 1 0 1 2 0) (fun r => decide ({ r with seq := 9 } = rNx 0)) = true
    ∧ okAnd (receiver (sNx Die.reset) 2 1 0 1 2 3) (fun r => decide (r.ltype = 0 ∧ r.cap % (redOp 3).1 = 0)) = true
    ∧ (sNx { Die.reset with receivers := [rDone 0 4] }).posted 0 = some (rDone 0 4)
    ∧ (sNx { Die.reset with receivers := [rDone 0 4] }).landedAll 0 (rDone 0 4) = true
    ∧ okAnd (reduceInto (sNx { Die.reset with receivers := [rDone 2 4] }) 0 (rDone 2 4) (msg 4)) (fun t =>
        match t.posted 0 with
        | some r => t.landedAll 0 r
        | none => false) = true
    ∧ (sNx { Die.reset with receivers := [rDone 2 5] }).posted 0 = some (rDone 2 5) ∧ (msg 5).data.length ≠ (rDone 2 5).cap
    ∧ okAnd (receiver (sNx Die.reset) 1 1 0 1 2 0) (fun _ => true) = true
    ∧ cardFlag ((sNx Die.reset).card 6).words 3 = true ∧ (sNx Die.reset).prepared 6 = true
    ∧ ((sNx Die.reset).card 6).state = .prepared ∧ ((sNx Die.reset).rg 3).toNat = 6 :=
  ⟨rfl, by decide, nx_tokens _, by decide⟩

/-- An NROUTE before its first token; done with its token, one join to make, and all made. -/
def rtStart : RouteRun :=
  ⟨0, 1, 0, 0, routeRec.map (BitVec.ofNat 32), bytesOf [0xFFFF0000], List.replicate 32 0, 0, false, false, false, 0, [], [], []⟩
def theExpert : Expert := ⟨(page, run 0x10000 4), (page, run 0x10040 4), (0, 0x40000)⟩
def rtJoin : RouteRun := { rtStart with token := 1, tops := [(0, 1)], experts := [(0, some theExpert)] }
def rtEnd : RouteRun := { rtStart with token := 1 }

theorem meets_NetworkWords_route : Tokens (sNx Die.reset) 0 (sNx Die.reset) ∧ ((sNx Die.reset).die 0).route = none
    ∧ okAnd (routeStart (sNx Die.reset) 0 ((sNx Die.reset).rg 4).toNat) (fun x => decide (x.2 = rtStart)) = true
    ∧ ((sNx { Die.reset with route := some rtStart }).die 0).route = some rtStart ∧ rtStart.token < wd rtStart.words 0
    ∧ ((sNx { Die.reset with route := some rtEnd }).die 0).route = some rtEnd ∧ wd rtEnd.words 0 ≤ rtEnd.token
    ∧ rtEnd.parts = [] ∧ rtEnd.tops = []
    ∧ (sNx { Die.reset with route := some rtJoin }).allPerformed (.nx 0) = true
    ∧ (sNx { Die.reset with route := some rtJoin }).joinable 0 rtJoin = [0] ∧ Tab.get rtJoin.experts 0 none = some theExpert
    ∧ (sNx { Die.reset with route := some rtJoin }).gatedCore (.nx 0) theExpert.fill.2 = none
    ∧ (sNx { Die.reset with route := some rtJoin }).mustWait (.nx 0) theExpert.fill.2 (some 0) = false
    ∧ (sNx { Die.reset with route := some rtJoin }).performedBefore (.nx 0) rtJoin.seq = true
    ∧ okAnd (claim (sNx { Die.reset with route := some rtJoin }) rtJoin (some theExpert)) (fun x => match x.2 with
        | .old n => decide (n = 0)
        | _ => false) = true :=
  ⟨nx_tokens _, by decide, by decide +kernel, by decide⟩

/-- A send from die 0 to die 1 at a stage; die 1 with or without a receiver for it. -/
def sendOf (stage : Nat) : NxSend := ⟨7, 4, 2 ^ 6, [1, 2, 3, 4], stage, 0, 0, 0, 1, false, 0, 0, Clock.empty⟩
def sSend (stage : Nat) (rs : List Receiver) (hs : List NxHeader) : State :=
  (sNx { Die.reset with sends := [sendOf stage] }).setDie 1 { Die.reset with receivers := rs, headers := hs }
def rAny : Receiver := { rNx 0 with peer := 2 ^ 10 }

/-- A full match-table entry, and an NRECV for whose scratchpad buffer a message has matched. -/
def rFull : Receiver := { rNx 1 with filled := 4, card := 6 }
def rMatched : Receiver := { rNx 0 with matched := [msg 6] }

/-- The NX stream of job 1 stands at an NBAR. -/
def sNbar : State :=
  let s := sNx Die.reset
  let s := s.setMe { s.me with word := BitVec.ofNat 32 0x88000000, run := .parked .nbar }
  { s with jobs := [(1, { jobOf (cardOf 0 0 0 0 0 0 16) .running with started := true })] }

theorem meets_NetworkEvents : ((sSend 0 [] []).die 0).sends.find? (fun y => decide (y.seq = (sendOf 0).seq)) = some (sendOf 0)
    ∧ ((sSend 0 [] []).die 0).overtakes (sendOf 0) = false ∧ peerPkg (sendOf 0).peer = Config.pkgNo ∧ peerDie (sendOf 0).peer = 1
    ∧ ((sSend 2 [] []).die 0).sends[0]? = some (sendOf 2) ∧ (sendOf 2).due ≤ (sSend 2 [] []).tick
    ∧ findIdx (fun r => r.accepts ((sendOf 0).header 0 0)) ((sSend 0 [rNx 0, rAny] []).die 1).receivers = some 1
    ∧ findIdx (fun r => r.accepts ((sendOf 0).header 0 0)) ((sSend 0 [] []).die 1).receivers = none
    ∧ ((sSend 0 [] []).die 1).headers.length < 256 ∧ 256 ≤ ((sSend 0 [] (List.replicate 256 (msg 1))).die 1).headers.length
    ∧ ((sNx { Die.reset with receivers := [rMatched] }).die 0).receivers[0]? = some rMatched
    ∧ (sNx { Die.reset with receivers := [rMatched] }).cutAway 1 0 = false
    ∧ ((sNx { Die.reset with receivers := [rMatched] }).core 0).gated = false
    ∧ ((sNx Die.reset).stream (.nx 0)).run.live = true ∧ ((sNx Die.reset).stream (.nx 0)).job = some 1
    ∧ rMatched.fits (msg 6).data.length = 4
    ∧ ((sNx { Die.reset with receivers := [rFull] }).die 0).receivers[0]? = some rFull
    ∧ (sNx { Die.reset with receivers := [rFull] }).landedAll 0 rFull = true
    ∧ ((sSend 3 [] []).die 0).sends.find? (fun x => decide (x.seq = 7)) = some (sendOf 3)
    ∧ (sSend 3 [] []).bouncedOf (.nx 1 0) = false ∧ (sSend 3 [] []).performedBefore (.nx 0) 7 = true
    ∧ ((sNbar.job? 1).map fun jb => (sNbar.nxStreams 1 jb, jb.allStarted)) = some ([.nx 0], true)
    ∧ (sNbar.stream (.nx 0)).run = .parked .nbar ∧ sNbar.allPerformed (.nx 0) = true
    ∧ (decode (UnitId.nx 0).half (sNbar.stream (.nx 0)).word).toOption = some (.nbar 0)
    ∧ (sNbar.stream (.nx 0)).pfx.tokens = none ∧ (sNbar.stream (.nx 0)).queued = none := by decide

/-! ### The trellis engine -/

/-- TE: an encode request at 0 (one target, a scale word and a table given), an image of one block at 0x800. -/
def reqWords : List Nat := [0x10101, 1, 1, 64, 128, 192, 0, 0, 0, 0, 0, 0, 0, 0, 0, 0, 0x3F800000]
def sTe : State :=
  { mk .te (withPage (runs [(1, 0x4000), (2, 0), (3, 0x800)]) page) with
    mem := Mem.setAll (memAt 0x10000 (bytesOf reqWords)) (cellsAt 0x10800 (bytesOf [1, 1, 1, 1])) }

theorem te_writes (d : Place) (h : d.page.map (·.2) = some page) (off : Nat) (bs : List Byte) (hb : off + bs.length ≤ 2 ^ 25) :
    ∃ t, teWrite sTe d off bs = .ok t := by
  obtain ⟨ds, hd⟩ := Place.dests_ok (plain (.inl h)) (siteOf sTe.cur) 0 (run off bs.length)
  have ho : ∀ pa ∈ ds.filterMap Dest.pa?, kindOf pa = 2 → pkgOf pa = sTe.pkg := by
    intro pa hpa hk
    obtain ⟨x, hm, hx⟩ := List.mem_filterMap.mp hpa
    unfold Place.dests at hd
    cases hpg : d.page with
    | none => rw [hpg] at h; simp at h
    | some q =>
      obtain ⟨r, q⟩ := q
      have hq : q = page := by rw [hpg] at h; simpa using h
      subst hq
      rw [hpg] at hd
      obtain ⟨o, hoff, hf⟩ := mapM_mem hd x hm
      have hlt : o < 2 ^ 25 := by
        obtain ⟨k, hk', rfl⟩ := List.mem_map.mp hoff
        have := List.mem_range.mp hk'
        omega
      have hbyte : page.byte (siteOf sTe.cur) o = some (0x10000 + o) := rfl
      simp only [hbyte, Except.ok.injEq] at hf
      subst hf
      simp only [Dest.pa?, Option.some.injEq] at hx
      subst hx
      simp only [kindOf, bits] at hk
      omega
  unfold teWrite
  simp only [hd, reach_idle (fun _ => rfl) (rfl : sTe.pending = []) (rfl : sTe.chans = []) (rfl : sTe.views = []) _ _ _ ho, bind, Except.bind]
  exact ⟨_, rfl⟩

theorem meets_TrellisEngine : sTe.cur = .te ∧ placeAux (sTe.rg 1) = 0 ∧ placeAux (sTe.rg 2) = 0
    ∧ okAnd (tePlace sTe 1 (sTe.rg 1) 0 true) (fun d => decide (d.page.map (·.2) = some page ∧ d.off + 320 + 36 ≤ d.limit)) = true
    ∧ okAnd (tePlace sTe 1 (sTe.rg 2) 64 false) (fun x =>
        okAnd (teRead sTe x x.off 64) (fun r => decide (firstWord (reqChecks (wordsOf r.2 16)) = none)) &&
        okAnd (teRead sTe x 64 4) (fun r => decide (wordAt r.2 0 / 2 ^ 23 % 256 ≠ 255)) &&
        okAnd (teRead sTe x 128 4) (fun r => decide (wordAt r.2 0 < 2 ^ 20 ∧ s10Exp (scaleOf (wordAt r.2 0) 0) ≠ 255)) &&
        okAnd (teRead sTe x 192 256) (fun r => decide (r.2.length = 256))) = true
    ∧ okAnd (tePlace sTe 1 (sTe.rg 3) 64 false) (fun x => okAnd (teRead sTe x x.off 64) (fun r =>
        match tcwHeader (wordsOf r.2 16) with
        | .ok t => decide (t.size = 100) && okAnd (teRead sTe x (x.off + 64) 36) (fun q => decide (bits (wordAt q.2 0) 31 20 = 0))
        | .error _ => false)) = true
    ∧ (∀ (d : Place), d.page.map (·.2) = some page → ∀ (off : Nat) (bs : List Byte),
        off + bs.length ≤ 2 ^ 25 → ∃ t, teWrite sTe d off bs = .ok t)
    ∧ (mk (.eng .cx 0) (runs [])).cur ≠ .te :=
  ⟨rfl, by decide +kernel, by decide +kernel, by decide +kernel, by decide +kernel, by decide +kernel, te_writes, by decide +kernel⟩

/-! ### Coded operators -/

/-- A descriptor: one group, one task on die 0, C of 4 × 4 FP32, returns at 0x40000, arguments at 0x41000, C at 0x42000, template 7. -/
def codedRec : List Nat :=
  [0x6000001, 0, 0, 0, 0, 0, 0, 0, 0, 0, 0, 0, 0, 0, 0x42000, 0, 4, 4, 32, 0, 0x40000, 0, 0x41000, 0, 7, 0x303, 0, 0, 0, 16, 0, 0]

/-- The context C of LC0 with the descriptor in the page of h1, tables whose page has scope 2, the template prepared. -/
def sCoder : State :=
  let s := withTables (ctxAt 0 .c [(1, 0), (2, 64)] (bytesOf codedRec))
  { s with cards := [(7, ⟨cardOf 2 0 0 0 0 0 4, .prepared, 0, Clock.empty⟩)],
           mem := Mem.setAll s.mem (cellsAt 0x26020 (leBytes 8 0x020000000001000F)) }

/-- The slot set, the operator admitted, its task's TWR of tile 0 posted, the tile decided, decoded. -/
def sCodset : State := sCoder.setCoded 0 { Coded.reset with desc := codedRec.map (BitVec.ofNat 32) }
def sCmm : State :=
  sCodset.setCoded 0 (startedOperator (sCodset.codedSlot 0) 0 .c 1000000 100 [{ page with scope := 2 }] [(0, 1)] Clock.empty)
def thePost : Post := ⟨0, false, 1, 0, 0x48000, leBytes 8 (4 * 2 ^ 48 + 4 * 2 ^ 32 + 2 ^ 16) ++ (List.replicate 16 (leBytes 8 3)).flatten⟩
def farPost : Post := { thePost with fromPkg := true, source := 5 }
def sPosted : State := { sCmm with posts := [thePost], mem := Mem.setAll sCmm.mem (cellsAt 0x48000 thePost.image) }
def sPassed : State := after (exec (.codedPost 0 none) sPosted)
def sReturned : State := { sPassed with now := sPassed.now + 10 }
def sDecided : State := after (exec (.tileDecision 0 0) sReturned)
def sTaken : State := after (exec (.tileDecode 0) sDecided)
def sWritten : State := sCmm.setCoded 0 { sCmm.codedSlot 0 with written := [0] }

theorem meets_CodedOperators : sCoder.cur = .ctx 0 .c ∧ (lining sCoder).toOption.isSome = true ∧ (sCoder.rg 3).toNat < 64
    ∧ (sCoder.codedSlot 0).running = false
    ∧ okAnd (readRecord sCoder 1 3 128) (fun x => decide (firstWord (codingChecks (wordsOf x.2.2 32)) = none)) = true
    ∧ (sCodset.codedSlot 0).desc ≠ [] ∧ (sCodset.codedSlot 0).running = false ∧ sCodset.allPerformed sCodset.cur = true
    ∧ (codingOf (sCodset.codedSlot 0).desc).outer = false ∧ sCodset.prepared 7 = true ∧ cardFlag (sCodset.card 7).words 1 = true
    ∧ cardPlace (sCodset.card 7).words = 0
    ∧ okAnd (operatorPages sCodset 0 (sCodset.codedSlot 0).desc) (fun x => decide (x.2.length = 1) &&
        okAnd (reachCells x.1 (argCells (sCodset.codedSlot 0).desc 0) x.2) fun _ => true) = true
    ∧ (sCodset.admitOperator (sCodset.codedSlot 0).desc).isSome = true
    ∧ ({ sCodset with
          cards := [(7, ⟨(cardOf 2 0 0 0 0 0 4).set 2 0xFFFFFFFF, .prepared, 0, Clock.empty⟩)] } : State).admitOperator (sCodset.codedSlot 0).desc
      = none := by decide +kernel

/-- A post whose image still stands in memory is copied as it is. -/
theorem post_stands {s : State} {p : Post} (h : s.rdAll (run p.pa p.image.length) = p.image) : s.postImage p = (s, p.image) := by
  simp [State.postImage, h]

theorem meets_CodedOperators_posts : sPosted.posts[0]? = some thePost
    ∧ ({ sPosted with posts := [] } : State).postImage thePost = ({ sPosted with posts := [] }, thePost.image)
    ∧ ({ sPosted with posts := [] } : State).acceptsPost thePost = true
    ∧ ({ sPosted with posts := [] } : State).codedShut (sCmm.codedSlot 0).pages (((sCmm.codedSlot 0).copyCells thePost thePost.image).map (·.1)) = none
    ∧ ({ sPosted with posts := [], coded := [] } : State).acceptsPost thePost = false := by
  refine ⟨?_, post_stands ?_, ?_, ?_, ?_⟩ <;> decide +kernel

theorem meets_CodedOperators_far : (match sCmm.takePost farPost with
    | .inl _ => false
    | .inr _ => true) = true := by decide +kernel

theorem meets_CodedOperators_tiles : (decide (sReturned.decidable (sReturned.codedSlot 0) 0 = some 0) && decide (sDecided.decodeq = [(0, 0)])
    && (Tab.find? sDecided.decoders 0).isNone) = true := by decide +kernel

theorem meets_CodedOperators_pieces :
    (Tab.find? sTaken.decoders 0).map (fun d => decide (d.todo ≠ []) && (d.todo.map fun x => x.1 / 64).all fun l =>
        (sTaken.codedShut (sTaken.codedSlot d.slot).pages ((d.todo.filter fun x => decide (x.1 / 64 = l)).map (·.1))).isNone) = some true := by
  decide +kernel

theorem meets_CodedOperators_ends : (sWritten.codedSlot 0).finished = true ∧ (sCmm.codedSlot 0).running = true
    ∧ (sCmm.codedSlot 0).finished = false
    ∧ (({ sCmm with now := 10 * (sCmm.codedSlot 0).deadline } : State).codedSlot 0).deadline
      ≤ ({ sCmm with now := 10 * (sCmm.codedSlot 0).deadline } : State).tick := by
  refine ⟨?_, ?_, ?_, ?_⟩ <;> decide +kernel

/-! ### Watches and lattices -/

/-- A watch descriptor: 64 bytes at 0x40000, rate 1, template 8. -/
def watchRec : List Nat := [0x40000, 0, 64, 0, 0, 1, 8, 0, 0, 0, 0, 0, 0, 0, 0, 0]

/-- The context C of LC0 that installs it; entry 9 is another control core's. -/
def sWatcher : State :=
  let s := withTables (ctxAt 0 .c [(1, 0), (2, 9)] (bytesOf watchRec))
  let e : Watch := ⟨1, .c, 1, 0, 64, 0, 0, 0, 0, 1, 8, 0, 0, [], true, 0⟩
  { s with cards := [(8, ⟨cardOf 4 2 0 0 0 0 4, .prepared, 0, Clock.empty⟩)], watches := [(9, e)] }

def sWatched : State := after (exec (.watch 1 3 4) sWatcher)

theorem meets_WatchAndLatticeWords_watch : sWatcher.cur = .ctx 0 .c ∧ (lining sWatcher).toOption.isSome = true
    ∧ okAnd (readRecord sWatcher 1 3 64) (fun x => decide (firstWord (watchChecks (wordsOf x.2.2 16)) = none) &&
        x.1.prepared 8 && cardFlag (x.1.card 8).words 2 && decide (cardPlace (x.1.card 8).words = 2) &&
        okAnd (walkPages x.1 0 2 0x40000 0x40040) (fun y => decide (y.2.length = 1)) && decide (9 ≤ x.1.mgc.stepDone) &&
        decide (x.1.freeWatch = some 0) && !x.1.watchFull 0 .c) = true
    ∧ ({ sWatcher with ports := { sWatcher.ports with wQuota := [(0, 0), (1, 0), (2, 0)] } } : State).watchFull 0 .c = true
    ∧ (Tab.find? sWatched.watches (sWatched.rg 4).toNat).map (fun e => (e.lc, e.rate)) = some (0, 1)
    ∧ (Tab.find? sWatcher.watches (sWatcher.rg 2).toNat).map (·.lc) = some 1
    ∧ Tab.find? sWatcher.watches (sWatcher.rg 3).toNat = none := by decide +kernel

/-- A schedule that pairs every site with its three neighbours and die 0 with LPDDR, one that pairs none, a layout of one die. -/
def schedRec : List Nat :=
  [4, 0, 0, 0, 256, 0x76543210, 0, 0, 256, 0x75643120, 0, 0, 256, 0x73625140, 0, 0, 256, 0xFFFFFF08, 0, 0]
def idleRec : List Nat := [1, 0, 0, 0, 218, 0xFFFFFFFF, 0, 0]
def layoutRec : List Nat := [0x40000, 0, 64, 4, 64, 4, 0x11, 0, 0, 0, 0, 0, 0, 0, 0, 0]

/-- A schedule's table, read as LXSET reads it: whether it passes, and whether it connects the sites. -/
def schedule (ws : List Nat) : Bool × Bool :=
  let s := ctxAt 16 .c [] (bytesOf ws)
  (okAnd (readVia s 1 0 16 16) fun x => decide (firstWord (scheduleHead (wordsOf x.2.2 4)) = none) &&
    okAnd (readVia x.1 1 0 (16 + 16 * ws.headD 0) 16) fun y =>
      decide (firstWord (scheduleBody (wordsOf y.2.2 (4 + 4 * ws.headD 0)) (roundsOf (wordsOf y.2.2 (4 + 4 * ws.headD 0)) (ws.headD 0)))
        = none),
   connected (roundsOf (ws.map (BitVec.ofNat 32)) (ws.headD 0)))

theorem meets_WatchAndLatticeWords_firmware : (lining (ctxAt 16 .c [] [])).toOption.isSome = true ∧ 9 ≤ State.reset.mgc.stepDone
    ∧ schedule schedRec = (true, true) ∧ schedule idleRec = (true, false)
    ∧ okAnd (readRecord (ctxAt 16 .c [] (bytesOf layoutRec)) 1 0 64) (fun x =>
        decide (firstWord (layoutChecks (wordsOf x.2.2 16)) = none)) = true
    ∧ ((ctxAt 16 .c [] []).rg 0).toNat ≤ 4095 := by decide +kernel

/-- A trigger of the entry at the tick before this one; the job that it spawned; an entry that has spawned all it may. -/
def theTrigger : Trigger := ⟨0, 0x10000, 0, 0x40000, 0, 0, 0, Clock.empty⟩
def sTrigger : State := { sWatched with triggers := [theTrigger], now := 20 }
def sAgain : State := { after (exec .watchTrigger sTrigger) with triggers := [theTrigger] }
def sRunaway : State := { sAgain with jobs := [] }
def sInval : State := { sWatched with invals := [⟨0, 0x40000, 16, 0⟩] }
def sLine : State :=
  { State.reset with exchange := { State.reset.exchange with flying := [⟨0, 1, 0x100, 1, false, List.replicate 64 1, []⟩] } }

/-- The entry that WATCH made coalesces what has not started into one job. -/
theorem meets_WatchAndLatticeEvents : sTrigger.triggers = theTrigger :: [] ∧ theTrigger.tick < sTrigger.tick
    ∧ (Tab.find? sTrigger.watches 0).map (fun e => (e.armed, decide (e.spawns < e.rate),
        (({ sTrigger with triggers := [] } : State).coalesced 0 e theTrigger
          (({ sTrigger with triggers := [] } : State).targetOf e theTrigger)).isNone)) = some (true, true, true)
    ∧ (Tab.find? sAgain.watches 0).map (fun e => (e.armed, (({ sAgain with triggers := [] } : State).coalesced 0 e theTrigger
          (({ sAgain with triggers := [] } : State).targetOf e theTrigger)).map (·.1))) = some (true, some 1)
    ∧ (Tab.find? sRunaway.watches 0).map (fun e => (e.armed, decide (e.rate ≤ e.spawns),
        (({ sRunaway with triggers := [] } : State).coalesced 0 e theTrigger
          (({ sRunaway with triggers := [] } : State).targetOf e theTrigger)).isNone)) = some (true, true, true)
    ∧ periodDue 170000 170000 State.reset.served.rate = true
    ∧ sInval.invals[0]? = some ⟨0, 0x40000, 16, 0⟩ ∧ sInval.heldByInval ⟨0, 0x40000, 16, 0⟩ = false
    ∧ (sInval.rewalkAll ⟨0, 0x40000, 16, 0⟩ sInval.watches).2.isSome = true
    ∧ State.reset.exchange.roundOver 256 = true
    ∧ sLine.exchange.flying[0]? = some ⟨0, 1, 0x100, 1, false, List.replicate 64 1, []⟩
    ∧ State.reset.exchange.outerStart + 3400 ≤ 3400 ∧ 10 ≤ State.reset.mgc.stepDone
    ∧ ({ State.reset.exchange.nextOuter 0 3400 with sent := [] } : Exchange).outerPartner 0 = none
    ∧ ({ ({ State.reset.exchange with ranks := [Config.pkgNo, 5], outerRound := 5, present := [Config.pkgNo, 5] } : Exchange).nextOuter 0 3400
          with sent := [] } : Exchange).outerPartner 0 = some 5 := by decide +kernel

/-! ### Links, channels, management, the host -/

/-- A flit of zeros with its checksum, and one that fails it. -/
def flitOf : List Byte := List.replicate 252 0 ++ leBytes 4 (crc32 (List.replicate 252 0))
def badFlit : List Byte := List.replicate 256 0

/-- A seam with a flit that is not acknowledged, replayed 14 or 15 times. -/
def sSeam (n : Nat) : State := State.reset.setSeam 0 { Seam.reset with buffer := [(0, flitOf)], replays := n }

/-- Channel 3 of HBM 1: a write that exceeded the limit 850 ticks ago; four reads that did, with spares and without; closed. -/
def sChan (c : Chan) : State := (atTick 1700000).setChan 1 3 c

theorem meets_LinksAndChannels_seam : (flitOk flitOf && decide (leNat ((flitOf.drop 242).take 2) = Seam.reset.expects)) = true
    ∧ flitOk badFlit = false ∧ ((sSeam 14).seam 0).buffer ≠ [] ∧ ((sSeam 14).seam 0).replays + 1 < 16
    ∧ 16 ≤ ((sSeam 15).seam 0).replays + 1 ∧ servedVc 0 1 0 = some 0 ∧ servedVc 2 0 0 = none
    ∧ (2 : BitVec 3) &&& 2 = 2 := by decide +kernel

theorem meets_LinksAndChannels_channel :
    ((sChan { Chan.reset with writeWait := [(1699150, 9)] }).chan 1 3).writeWait = (1699150, 9) :: []
    ∧ 1699150 + 850 ≤ (sChan Chan.reset).tick ∧ (sChan { Chan.reset with exceeded := [1, 2, 3, 4] }).swapDue 1 3 = true
    ∧ 0 < ((sChan { Chan.reset with exceeded := [1, 2, 3, 4] }).chan 1 3).spares
    ∧ (sChan { Chan.reset with exceeded := [1, 2, 3, 4], spares := 0 }).swapDue 1 3 = true
    ∧ ((sChan { Chan.reset with closed := some 5 }).chan 1 3).closed.isSome
    ∧ ((sChan Chan.reset).chan 1 3).scrubDue ≤ (sChan Chan.reset).tick := by decide +kernel

/-- A configuration block that keeps its rules. -/
def cfgBody : List Byte := (List.range 0x3FC).map fun o =>
  if o = 0 then 1 else if o = 3 then 4 else if o = 0x18 then 54 else if o = 0x51 then 7 else if o = 0x190 then 100
  else if o = 0x192 then 120 else if o = 0x194 then 140 else 0
def cfgBlock : List Byte := cfgBody ++ leBytes 4 (crc32 cfgBody)

theorem cfg_zero (o : Nat) (h : cfgRes0 o = true) : cfgBlock.getD o 0 = 0 := by
  have ho : o < 0x3FC := by
    simp only [cfgRes0, Bool.or_eq_true, Bool.and_eq_true, decide_eq_true_eq] at h
    omega
  have hl : cfgBody.length = 0x3FC := by simp [cfgBody]
  have hb : cfgBlock.getD o 0 = cfgBody.getD o 0 := by
    simp [cfgBlock, List.getD_eq_getElem?_getD, List.getElem?_append_left (by omega : o < cfgBody.length)]
  rw [hb]
  simp only [cfgRes0, Bool.or_eq_true, Bool.and_eq_true, decide_eq_true_eq] at h
  simp only [cfgBody, List.getD_eq_getElem?_getD, List.getElem?_map, List.getElem?_range ho, Option.map_some, Option.getD_some]
  repeat' split
  all_goals first | omega | rfl

theorem cfg_block : firstWord (cfgChecks cfgBlock) = none := by
  have named : ∀ x ∈ (cfgChecks cfgBlock).take 111, x.2 = false := by decide +kernel
  have rest : ∀ x ∈ (cfgChecks cfgBlock).drop 111, x.2 = false := by
    intro x hx
    have hd : (cfgChecks cfgBlock).drop 111
        = ((List.range 1024).filter cfgRes0).map fun o => (o, decide (cfgBlock.getD o 0 ≠ 0)) := rfl
    rw [hd] at hx
    obtain ⟨o, ho, rfl⟩ := List.mem_map.mp hx
    have hz := cfg_zero o (List.mem_filter.mp ho).2
    show decide (cfgBlock.getD o 0 ≠ 0) = false
    rw [hz]; rfl
  have all : ∀ x ∈ cfgChecks cfgBlock, x.2 = false := by
    intro x hx
    rw [← List.take_append_drop 111 (cfgChecks cfgBlock)] at hx
    exact (List.mem_append.mp hx).elim (named x) (rest x)
  have none_ : (cfgChecks cfgBlock).filter (·.2) = [] := List.filter_eq_nil_iff.mpr fun x hx => by simp [all x hx]
  unfold firstWord
  rw [none_]
  rfl

theorem meets_Management : periodDue 34000 34000 State.reset.served.thermal = true ∧ 1 ≤ State.reset.mgc.stepDone
    ∧ State.reset.mgc.poweredOn = true ∧ (0x5A : Byte) ≠ 0x5B ∧ (State.reset.mgc.cfgBuf ++ [(0 : Byte)]).length < 1024
    ∧ 0x40 % 4 = 0 := by decide

/-- A package that may start, one that stands at its third bring-up step, a block one byte short. -/
def sPackage (on : Bool) (step : Nat) : State :=
  { State.reset with mgc := { State.reset.mgc with poweredOn := on, mayStart := true, stepDone := step, cfgBuf := cfgBlock.take 1023 } }

theorem meets_Management_steps : (sPackage false 0).mgc.poweredOn = false ∧ (sPackage false 0).mgc.mayStart = true
    ∧ 0 ∉ [3, 17] ∧ (sPackage true 2).mgc.stepDone + 1 ∈ [3, 17] ∧ (sPackage true 3).mgc.stepDone + 1 ∉ [3, 17]
    ∧ (sPackage true 3).mgc.stepDone < 11 ∧ (sPackage true 3).mgc.poweredOn = true := by
  refine ⟨rfl, rfl, ?_, ?_, ?_, ?_, rfl⟩ <;> decide

/-- The host's aperture at 0x40000 through root 0, over the page or over nothing. -/
def sHost (va : Nat) : State :=
  let s := withTables State.reset
  { s with host := { s.host with apBase := BitVec.ofNat 64 va, apRoot := 0 },
           cards := [(4, ⟨cardOf 0 0 0 0 0 0 1, .running, 0, Clock.empty⟩)] }

theorem meets_HostAccesses : (sHost 0x40000).windowOpen 3 = true ∧ (sHost 0x40000).windowOpen 4 = false ∧ 3 * 128 % 128 + 128 ≤ 128
    ∧ (sHost 0x40000).apertureVa 0x20 = 0x40020 ∧ 0x40020 % 65536 + 8 ≤ 65536
    ∧ ((sHost 0x40000).deviceWalk 0 0x40020).2 = .page { page with va := 0x40000 }
    ∧ (match ((sHost 0x40000).hostWalk (hostPieces 0x40020 8)).2 with
      | .pieces ps => ((hostAddrs ps).map fun xs => xs.map (·.2.2.2))
      | _ => none) = some [(List.range 8).map (0x10020 + ·)]
    ∧ pieceAddrs page 0x20 8 = some ((List.range 8).map (0x10020 + ·))
    ∧ (sHost 0x40000).hostGated ((List.range 8).map (0x10020 + ·)) = none
    ∧ (sHost 0x40000).firstBad ((List.range 8).map (0x10020 + ·)) = none ∧ (sHost 0x40000).ecc = [] ∧ (sHost 0x40000).chans = []
    ∧ page.hash = 0 ∧ page.ltype = 0 ∧ page.trellis = false ∧ page.writable = true ∧ 0x20 % 8 = 0
    ∧ (match ((sHost 0x60000).deviceWalk 0 ((sHost 0x60000).apertureVa 0x20)).2 with
      | .fault c _ _ => decide (c = .pageNotResident)
      | _ => false) = true := by decide +kernel

/-! ### Words, steps, traps -/

theorem meets_DecodeEncode : encode (.add 3 3 2) = some 0x0118C400 ∧ wellFormed (.add 3 3 2) = true
    ∧ encode (.mma 0 0 1 0 16 1) = some 0x80004041 ∧ wellFormed (.mma 0 0 1 0 16 1) = true ∧ halfOf (.mma 0 0 1 0 16 1) = .mx := by decide

theorem meets_DecodedWordEncodes : classify .cx 0x0118C400 = .instr (.add 3 3 2) := by decide

/-- CX of core 0 stands at a PC; its memory holds a word at 0, under a limit of 16 bytes; its move is next. -/
def sProg (w : Word) (pc : DWord) : State :=
  { mk (.eng .cx 0) { runs [] with pc := pc } with
    imem := [(.eng .cx 0, [(0, w)])], imlim := [(.eng .cx 0, 1)], moves := [.unit (.eng .cx 0)] }

/-- The conditions before a fetch, and whether it delivers what the word says. -/
def fetches (w : Word) (pc : DWord) : Bool :=
  let s := (sProg w pc).nextMove.2
  decide ((sProg w pc).nextMove.1 = .unit (.eng .cx 0)) && s.mayRun (.eng .cx 0) && (s.boundaryStop (.eng .cx 0)).isNone
  && ({ s with cur := .eng .cx 0 }.formatAtStart (.eng .cx 0)).isNone && ({ s with cur := .eng .cx 0 }.revokedStore).isNone
  && (match fetch s (.eng .cx 0) with
    | .ok f => decide (f.word = w)
    | .error _ => false)

/-- The moves of an event, of what is no event, of a tick. -/
def sMove (m : Move) : State := { State.reset with moves := [m] }

theorem meets_StepRunsDecoded : fetches 0x0118C400 0 = true ∧ fetches 0 0 = false ∧ fetches 0x0118C401 0 = false
    ∧ fetches 0x0118C400 2 = false ∧ fetches 0x0118C400 16 = false
    ∧ (sProg 0 0).badAt (imemPa (.eng .cx 0) 0) = false
    ∧ ({ sProg 0 0 with ecc := [(codewordOf (imemPa (.eng .cx 0) 0), 3)] } : State).badAt (imemPa (.eng .cx 0) 0) = true
    ∧ (UnitId.eng .mx 0).half = .mx ∧ (match classify .mx 0x84000002 with
      | .bad _ => true
      | _ => false) = true ∧ (16 * 1 : Nat) ≤ (16 : DWord).toNat
    ∧ (sProg 0x0118C400 2).mayRun (.eng .cx 0) = true
    ∧ (sMove (.event .ppsEdge)).nextMove.1 = .event .ppsEdge ∧ wellFormed .ppsEdge = true ∧ isEvent .ppsEdge = true
    ∧ (sMove (.event .ppsEdge)).nextMove.2.eventOpen .ppsEdge = true ∧ isEvent (.add 3 3 2) = false
    ∧ (sMove .tick).nextMove.1 = .tick ∧ (sMove .tick).nextMove.2.mgc.poweredOn = true
    ∧ ({ sProg 0 0 with streams := [] } : State).nextMove.2.mayRun (.eng .cx 0) = false := by decide

theorem meets_StepRunsDecoded_tick : (sMove .tick).nextMove.2.due = false := by decide +kernel

/-- A context and an engine stream with a free slot; an engine stream of no job, and a cause that is not held. -/
theorem meets_TakingTraps : (⟨.illegal, none, .std 0 0, .none⟩ : Trap).note = .none ∧ (sCtx .c []).cur = .ctx 0 .c
    ∧ (sProg 0 0).cur.isCtx = false ∧ (sProg 0 0).cutSlotOf (sProg 0 0).cur = none
    ∧ ({ sProg 0 0 with ports := { Ports.reset with saveSlots := 55 } } : State).isHeld (.eng .cx 0) Cause.handleRevoked.code = true
    ∧ ({ sProg 0 0 with ports := { Ports.reset with saveSlots := 55 } } : State).freeSlot = some 54
    ∧ (sProg 0 0).freeSlot = none ∧ (sProg 0 0).me.job = none
    ∧ (sNx Die.reset).me.job = some 1 ∧ ((sNx Die.reset).job? 1).isSome = true ∧ (sNx Die.reset).me.run.live = true := by decide

theorem meets_MemoryStaysCanonical : Mem.wf (sProg 0x0118C400 0).mem = true ∧ (∃ t, step (sProg 0x0118C400 0) = .next t) :=
  ⟨rfl, _, rfl⟩

/-! ### Further clauses -/

/-- A stream at the last word of its job loop's kernel, in its last turn or before; VE's command that CX squashes. -/
def sJobLoop (n : Nat) : Stream := { runs [] with a := 0x20, pc := 0x20, jl := some ⟨n, 0x10, 0x24, true, 3, false⟩ }
def theQueued : Queued := ⟨0x10, 0x80000000, 0, 0, 1, 2, 0, 0, false, false⟩
def sSquash : State :=
  (mk (.eng .cx 0) (sLoop 2 1)).setStream (.eng .ve 0) { runs [] with queued := some theQueued }

theorem meets_Loops_chained : ((sLoop 1 1).lp.get 0).stop = (sLoop 1 1).a ∧ ((sLoop 1 1).lp.get 1).stop = (sLoop 1 1).a
    ∧ ((sLoop 1 1).lp.get 1).start < ((sLoop 1 1).lp.get 0).start ∧ ((sLoop 1 1).lp.get 0).count = 1 ∧ ((sLoop 1 1).lp.get 1).count ≠ 0
    ∧ (∀ m : Fin 4, m ≠ 0 → m ≠ 1 → ((sLoop 1 1).lp.get m).count = 0 ∨ ((sLoop 1 1).lp.get m).stop ≠ (sLoop 1 1).a)
    ∧ NoJobLoopEnds (sLoop 1 1) ∧ NoLoopEnds (sJobLoop 1) ∧ NoLoopEnds (sJobLoop 2)
    ∧ (sJobLoop 1).jl = some ⟨1, 0x10, 0x24, true, 3, false⟩ ∧ (sJobLoop 1).a + 4 = 0x24 :=
  ⟨by decide, by decide, by decide, by decide, by decide, by decide, (fun _ h => nomatch h), (by unfold NoLoopEnds; decide),
    (by unfold NoLoopEnds; decide), rfl, by decide⟩

theorem meets_Loops_squash : 0 ∈ sSquash.squashCores ∧ (coreUnits 0)[2]? = some (.eng .ve 0) ∧ bit (4 : BitVec 5).toNat 2 = true
    ∧ sSquash.coreOf (.eng .ve 0) = 0 ∧ (.eng .ve 0) ≠ sSquash.cur ∧ (sSquash.stream (.eng .ve 0)).queued = some theQueued
    ∧ theQueued.tag = sSquash.me.gen ∧ theQueued.started = false
    ∧ .cx ∈ maskEnds (UnitId.eng .ve 0).endpoint theQueued.pushes ∧ (sSquash.stream (.eng .mx 0)).queued = none := by decide

/-- A handle whose walk goes on, or has ended in a cause; a root that is not set, one that is. -/
def pendingHandle : Handle := ⟨0, 0x40000, .pending ⟨3, 0x2000, 0, 0⟩, false⟩
def faultedHandle : Handle := ⟨0, 0x40000, .walkfault .permission 0 0x40000 16, false⟩

theorem meets_Handles_walks : (mk (.eng .cx 0) ((runs []).wh 1 (some pendingHandle))).me.hr 1 = some pendingHandle
    ∧ (mk (.eng .cx 0) ((runs []).wh 1 (some faultedHandle))).me.hr 1 = some faultedHandle ∧ faultedHandle.revoked = false
    ∧ { faultedHandle with revoked := true }.revoked = true ∧ dbits (1#64 <<< 60) 63 56 ≠ 0 ∧ dbits (0x40000 : DWord) 63 56 = 0
    ∧ ((sCtx .c []).rootOf 0).toNat % 2 = 0 ∧ ((withTables (sCtx .c [])).rootOf 0).toNat % 2 = 1
    ∧ badRoot ((withTables (sCtx .c [])).rootOf 0).toNat = false := by decide

/-- A release of VE of the byte that CX loads, which it has acquired, for another's acquire of it. -/
def sReleased : State :=
  let w : Writer := { who := .unit (.eng .ve 0) 2, scope := 3, rel := some 3 }
  let v : View := ⟨[(0, ⟨[((.unit (.eng .ve 0) 2, 3), 1)], []⟩)], []⟩
  { sPage page [(2, 0xFFFC)] with hist := [⟨0, w, [(0x1FFFC, 0)]⟩], views := [(.unit (.eng .cx 0) 0, v)] }

theorem meets_Loads_acquire : page.ltype = 0 ∧ sReleased.unbound (.unit (.eng .cx 0) 0) (sReleased.view (.unit (.eng .cx 0) 0)).now [0x1FFFC] = []
    ∧ ((sReleased.writesOf [0x1FFFC])[0]?.map fun e => (e.writer.rel, sReleased.observes 3 e.writer.who (.unit (.eng .cx 0) 0))) = some (some 3, true)
    ∧ (sPage page []).agentOf (.eng .cx 0) = .unit (.eng .cx 0) 0 ∧ (sPage page []).cur.isEngine = true
    ∧ ((sEarly.writesOf [0x1FFFC]).takeWhile fun e => !sEarly.roBound 0 0 e).length = 1
    ∧ ((sPage page []).writesOf [0x1FFFC]) = [] := by decide

theorem meets_AtomicOperations_clean : (sPage page []).ecc = [] ∧ (sPage page []).hashed = false ∧ (sLock 0).ecc = [] ∧ (sLock 0).hashed = false
    ∧ (sPage page []).trackerUsed 0 < 64 ∧ (sCell 1).hashed = false := by decide

/-- A bounce record of a delivery and one of a read request, which entry 0 of LC0's scoreboard waits for. -/
def sBounces : State :=
  let s := (sFirm [(1, 0), (2, 1 <<< 62)]).setDie 0 { Die.reset with bounces := [⟨0, 0, 0, 0x40000, 0, 4, .cx 0 0⟩, ⟨1, 0, 0, 0x40000, 0, 4, .xfer 0 0⟩] }
  s.setLc 0 { Lc.reset with scb := [⟨0, 0, 0, Clock.empty, .l, none, 0, 0, false, 4, [], [], 0, true, false, 0, []⟩] }

def noticed (s : State) (v : DWord) : Option Bounce :=
  (s.die (dbits v 61 59)).bounces.find? fun r => decide (r.recNo = dbits v 51 32) && decide (r.seq = dbits v 31 0) && decide (r.kind = dbits v 62 62)

theorem meets_CommandPorts_effects : noticed sBounces 0 = some ⟨0, 0, 0, 0x40000, 0, 4, .cx 0 0⟩
    ∧ noticed sBounces (1 <<< 62) = some ⟨1, 0, 0, 0x40000, 0, 4, .xfer 0 0⟩ ∧ noticed sBounces 5 = none
    ∧ sBounces.badAt (directoryPa 0 0) = false ∧ sBounces.ecc = [] ∧ sBounces.busBad = []
    ∧ ({ sBounces with ecc := [(codewordOf (directoryPa 0 0), 3)] } : State).badAt (directoryPa 0 0) = true
    ∧ dbits (0x136 : DWord) 15 8 = 1 ∧ dbits (0x1C36 : DWord) 15 8 = 0x1C ∧ ((sHeld false).stream (.eng .cx 0)).job = none
    ∧ (sHeld false).saved.find? (fun x => decide (x.slot = dbits (0x136 : DWord) 7 0) && !x.ending)
      = some (holdEntry 54 1 (.eng .cx 0) none 0 1 0 false false)
    ∧ (let s := { inJob1 (.eng .cx 0) { runs [] with run := .held 54 } (cardOf 0 0 0 0 0 0 1) with saved := (sHeld false).saved }
      (s.stream (.eng .cx 0)).run = .held 54 ∧ (s.stream (.eng .cx 0)).job = some 1 ∧ (s.job? 1).isSome = true)
    ∧ (handleOf page).range = (0x40000, 16) ∧ meets 0x40000 (2 ^ 16) 0x40000 (2 ^ 16) = true
    ∧ meets 0x40000 (2 ^ 16) 0x80000 (2 ^ 16) = false ∧ (sPage page []).saved = [] ∧ (sPage page []).me.hr 0 = none
    ∧ ((sMig 19 1 false).mig 0).busy = true ∧ ((sMig 19 1 false).mig 0).cause ≠ 0 ∧ ((sMig 0 63 false).mig 0).cause = 0
    ∧ (State.reset.mig 0).busy = false ∧ { sFirm [] with faultq := [7] }.faultq = 7 :: [] ∧ { sFirm [] with bounceq := [7] }.bounceq = 7 :: []
    ∧ (sFirm []).faultq = [] ∧ (sFirm []).bounceq = [] := by decide

/-- The slot of card 5 with a word that cannot be corrected; a core that is gated. -/
theorem meets_CardsPreparedAndPosted_open : okAnd (readCard sPost 5) (fun s => s.prepared 5 && s.posterMayGo 0 s.waitTick s.cur) = true
    ∧ okAnd (readCard { sPost with ecc := [(codewordOf (cardPa 5 0), 3)] } 5) (fun _ => true) = false
    ∧ (sPost.setCore 0 { Core.reset with gated := true }).postCores (sPost.card 5).words 0 = [0]
    ∧ ((sPost.setCore 0 { Core.reset with gated := true }).core 0).gated = true := by decide

theorem meets_TransfersKernelsOverlays_card : okAnd (readCard (sKrun kernelCard) 5) (fun s => s.prepared 5 && decide ((s.card 5).state = .prepared)
    && okAnd (cellCheck s 0 kernelCard) (fun c => (c.1.admission 0 0 kernelCard).isSome && decide ((c.1.lc 0).freeEntry = some 0))) = true
    ∧ ([1, 2, 3].map fun n => cardFlag kernelCard n) = [false, false, false] := by decide

/-- The rendezvous of a job with two streams, of which VL has not arrived. -/
def sRdvOpen : State :=
  let s := (sMeet false).setStream (.eng .vl 0) { runs [] with job := some 1 }
  after (exec (.rdv 0) { s with jobs := [(1, jobOf (cardOf 0 0 1 127 0 0 6) .running)] })

theorem meets_JobsMeetCompleteAndReport_arrivals :
    ([sRdv, sRdvOpen].map fun s => ((s.job? 1).map fun j => j.insts.all fun i => s.instMet 1 i 0 1)) = [some true, some false]
    ∧ ([sRdv, sRdvOpen].map fun s => (s.liveStreams 1).filter fun u => decide ((s.stream u).run = .parked (.rdv 0)))
      = [[.eng .ve 0], [.eng .ve 0]]
    ∧ (sRdv.stream (.eng .ve 0)).meetings 0 + 1 = 1 := by decide

/-- A stream of generation 4 that stands at a stop point, beside one of generation 3 that runs. -/
def sOld : State :=
  let s := sStop.setStream (.eng .vl 0) { runs [] with job := some 1, gen := 4 }
  { s with jobs := Tab.set s.jobs 1 { (s.job? 1).getD default with words := cardOf 0 0 1 127 0 0 6 } }

theorem meets_PowerAndPreemptionRows_laggards : sOld.laggards (sOld.instStreams 1 0).1 = [.eng .ve 0]
    ∧ (sOld.core 0).cut = some 1 ∧ (sOld.job? 1).map (·.phase) = some (some .seeking) := by decide

/-- The packages' routes: 5 over link 2, none over a link that does not exist, none to this package. -/
theorem meets_WatchAndLatticeEvents_routes : State.reset.routeOk (5, [2]) = true ∧ State.reset.routeOk (5, [18]) = false
    ∧ State.reset.routeOk (5, []) = false ∧ State.reset.pkg < 64 ∧ 10 ≤ State.reset.mgc.stepDone
    ∧ State.reset.outerReady [] = true ∧ sLine.chanShut (lineAt 0 1 0x100) none = false
    ∧ 9 ≤ State.reset.mgc.stepDone ∧ (sWatched.watches.map (·.1)).Nodup ∧ sTrigger.ecc = [] ∧ sTrigger.busBad = [] := by decide

/-- A visit of channel 3 of HBM 1 whose sector holds a corrected codeword, as it begins and between its read and its check. -/
def sVisit (v : Option Visit) : State :=
  let s := sChan { Chan.reset with visit := v }
  { s with ecc := [(0, 1)] }

theorem meets_LinksAndChannels_arbitration : servedVc 4 1 1 = some 0 ∧ servedVc 4 3 2 = some 1 ∧ servedVc 0 6 6 = some 2 ∧ servedVc 0 1 0 = some 0
    ∧ servedVc 4 4 0 = some 2 ∧ servedVc 2 0 7 = none ∧ Seam.reset.up = true ∧ Seam.reset.buffer.length < 64
    ∧ (List.replicate 240 (0 : Byte)).length = 240
    ∧ servedVc 2 7 (({ Seam.reset with credits := [1, 0, 2] } : Seam).credited) = some 0
    ∧ ({ Seam.reset with credits := [1, 0, 2] } : Seam).credits.getD 0 0 ≠ 0 := by decide

theorem meets_LinksAndChannels_visit : ((sVisit none).chan 1 3).closed = none ∧ ((sVisit none).chan 1 3).visit = none
    ∧ ((sVisit none).chan 1 3).scrubDue ≤ (sVisit none).tick
    ∧ ((sVisit (some ⟨0, 1699000, false, []⟩)).chan 1 3).visit = some ⟨0, 1699000, false, []⟩
    ∧ (sVisit none).tick - 1699000 ≤ 1700 ∧ 1700 < (sVisit none).tick - 1600000
    ∧ Tab.get (sVisit none).seqNums (((sVisit none).chan 1 3).sector 1 3) 0 = 0 := by decide

/-- A block stored in flash that breaks its checks; one being written; the due temperature sample; a link that does not train. -/
def sFlash : State :=
  { State.reset with now := 340000, mgc := { State.reset.mgc with stepDone := 1, flash := [0], flashing := some [1] } }

theorem meets_Management_flash : sFlash.tick % 34000 = 0 ∧ sFlash.served.thermal ≤ sFlash.tick / 34000 ∧ 1 ≤ sFlash.mgc.stepDone
    ∧ sFlash.mgc.stepDone + 1 = 2 ∧ sFlash.mgc.method 2 < 2 ∧ sFlash.mgc.flash ≠ [] ∧ sFlash.mgc.flashing = some [1]
    ∧ sFlash.mgc.poweredOn = true ∧ (sPackage true 9).mgc.stepDone + 1 = 10 ∧ 10 ∉ [256] ∧ (256 + 0 ∈ [256])
    ∧ State.reset.mgc.flashing = none ∧ (∃ i, ImemId.lc i = .lc 3) := by
  refine ⟨?_, ?_, ?_, ?_, ?_, ?_, ?_, ?_, ?_, ?_, ?_, ?_, ⟨3, rfl⟩⟩ <;> decide

theorem meets_Management_invalid : firstWord (cfgChecks sFlash.mgc.flash) ≠ none := by
  have h : ∃ x ∈ cfgChecks sFlash.mgc.flash, x.2 = true := ⟨(0, true), by simp [cfgChecks, cfgField, sFlash, leNat], rfl⟩
  unfold firstWord
  obtain ⟨x, hx, ht⟩ := h
  cases hf : (cfgChecks sFlash.mgc.flash).filter (·.2) with
  | nil => exact absurd (List.mem_filter.mpr ⟨hx, ht⟩) (by rw [hf]; exact List.not_mem_nil)
  | cons y ys => simp only [List.map_cons, minBy]; split <;> simp <;> split <;> simp

/-- An image page, a page that is not writable, a lattice page. -/
theorem meets_HostAccesses_refused : { page with trellis := true }.trellis = true ∧ { page with writable := false }.trellis = false
    ∧ { page with writable := false }.writable = false ∧ { page with ltype := 1 }.ltype ≠ 0 ∧ (0x20 : Nat) % 8 = 0
    ∧ (sHost 0x40000).chanShut (run 0x10020 8) (some 0) = false ∧ (sHost 0x40000).mgc.poweredOn = true ∧ (sHost 0x40000).busBad = []
    ∧ ((sHost 0x40000).deviceRead (run 0x10020 8) (some 0)).2 = true ∧ [(0 : Byte)] ≠ [] := by decide

/-- The host's aperture over a page as the tables hold it that is not writable, or an image. -/
theorem meets_HostAccesses_pages : ([0x10007, 2 ^ 58 + 0x1000F].map fun e =>
    match (({ sHost 0x40000 with mem := Mem.setAll (sHost 0x40000).mem (cellsAt 0x26020 (leBytes 8 e)) } : State).deviceWalk 0 0x40020).2 with
    | .page p => (p.writable, p.trellis)
    | _ => (true, false)) = [(false, false), (true, true)] := by decide +kernel

/-- A command of MX that has read pieces it has not settled; nothing else. -/
theorem meets_TakingTraps_open : (sFlight fReads).mxOpen (.eng .mx 0) = true ∧ (sFlight fMx).mxOpen (.eng .mx 0) = false
    ∧ (sProg 0 0).mxOpen (.eng .cx 0) = false ∧ (sFlight fReads).mxHolds (.eng .mx 0) (.ld 0 0 0 0 0) = true
    ∧ (sFlight fMx).mxHolds (.eng .mx 0) (.ld 0 0 0 0 0) = false
    ∧ ({ State.reset with moves := [.outside (.sidebandRead 0 20)] } : State).nextMove.1 = .outside (.sidebandRead 0 20) := by decide

/-- The eight bytes to another package, which translates them by its own tables. -/
def sFar : State :=
  let up := 5 * 2 ^ 58 + 5 * 2 ^ 42
  let cells := ([(0x20000, 0x22003), (0x22000, 0x24003), (0x24000, 0x26003), (0x26020, 0x1000F)] : Tab Nat Nat).flatMap
    fun e => cellsAt (5 * 2 ^ 42 + e.1) (leBytes 8 ((if e.1 = 0x26020 then 5 * 2 ^ 42 else up) + e.2))
  let s := sRemote 5 0x40000
  { s.setFar 5 { Far.reset with roots := [(0, BitVec.ofNat 64 (up + 0x20001))] } with mem := Mem.setAll s.mem cells }

theorem meets_RemoteCopiesAndSlots_far : okAnd (landings sFar (sFar.rootKey 5 sFar.me.root) 8 0 (pieces64k 0x40000 8)) (fun x =>
    match x.2 with
    | [.page _ p ds] => decide (p.pkg = 5) && decide (ds.length = 8)
    | _ => false) = true := by decide +kernel

/-- No tile comes before tile 0 and its decision tick, 0. -/
theorem meets_CodedOperators_order (t m : Nat) : 0 < m ∨ (0 = m ∧ 0 ≤ t) := by
  omega

theorem meets_CodedOperators_held : (sReturned.codedSlot 0).heldAt 0 (codingOf (sReturned.codedSlot 0).desc).k = some 0
    ∧ sDecided.endsLater 0 0 = false ∧ (codingOf (sReturned.codedSlot 0).desc).waitAll = false := by decide +kernel

/-- The state in which a barrier releases its one stream. -/
def sBarrier : State :=
  let v : State := { sNbar.meet [.nx 0] 3 with cur := .nx 0 }
  v.setMe { v.me with run := .running }

theorem meets_NetworkEvents_barrier : Tokens sBarrier 0 sBarrier := no_tokens rfl rfl rfl

theorem meets_NetworkWords_free : nxFree ((sNx Die.reset).die 0) ∧ okAnd (readCard (sNx Die.reset) 6) (fun s => s.prepared 6) = true
    ∧ ((sNx Die.reset).die 0).pendingBytes = 0 := by
  refine ⟨⟨by decide, by decide⟩, by decide, by decide⟩

/-- R446: while a checkpoint looks for stop points, a stream stands at its PPOINT: its PC is that of the PPOINT. -/
theorem test_ppoint_stands : (sStop.stream (.eng .ve 0)).run = .parked (.stop 4 true) ∧ (sStop.stream (.eng .ve 0)).pc = 0 := by decide

/-! ### The spec's worked examples -/

/-- The register that an instruction writes, from registers. -/
def gives (i : Instr) (d : BitVec 5) (l : Tab Nat DWord) : DWord := (after (exec i (mk (.eng .cx 0) (runs l)))).rg d

/-- R94: the rows of the table. -/
theorem test_division : [gives (.div 3 1 2) 3 [(1, -7), (2, 2)], gives (.rem 3 1 2) 3 [(1, -7), (2, 2)],
    gives (.div 3 1 2) 3 [(1, 7), (2, -2)], gives (.rem 3 1 2) 3 [(1, 7), (2, -2)],
    gives (.div 3 1 2) 3 [(1, 5), (2, 0)], gives (.rem 3 1 2) 3 [(1, 5), (2, 0)],
    gives (.div 3 1 2) 3 [(1, BitVec.intMin 64), (2, -1)], gives (.rem 3 1 2) 3 [(1, BitVec.intMin 64), (2, -1)],
    gives (.divu 3 1 2) 3 [(1, 7), (2, 0)], gives (.remu 3 1 2) 3 [(1, 7), (2, 0)]]
    = [-3, -1, -3, 1, -1, 5, BitVec.intMin 64, 0, -1, 7] := by decide

/-- R93: EXTU past bit 63, SEXT of a byte. -/
theorem test_extu_sext : gives (.extu 3 1 2 7) 3 [(1, 0xF0F00000000000AB), (2, 60)] = 0xF
    ∧ gives (.sext 3 1 7) 3 [(1, 0x80)] = 0xFFFFFFFFFFFFFF80 := by decide

/-- R39: an SXI8 K-block; the mark and W. -/
theorem test_promotion : (Elem.product false false 1 0 true [⟨[0x1FE], List.replicate 32 2⟩] [⟨[0x1F4], List.replicate 32 3⟩] Elem.zero).map
    (fun r => (r.1.w.toInt, r.2)) = some (4608 * 2 ^ 252, some 252) := by decide +kernel

/-- R39: an FP4 sub-block, eight products of 3 and 12 halves. -/
theorem test_fp4 : ([0x33, 0x73].map fun b => elements 1 0 [BitVec.ofNat 8 b]) = [[3, 3], [3, 12]]
    ∧ e3m5 0x80 = (32, 4) ∧ e3m5 0x70 = (48, 3)
    ∧ ((⟨[0x80, 0, 0, 0], List.replicate 8 3 ++ List.replicate 24 0⟩ : KBlock).xs.length = 32)
    ∧ (Elem.product false true 1 0 true [⟨[0x80, 0, 0, 0], List.replicate 8 3 ++ List.replicate 24 0⟩]
      [⟨[0x70, 0, 0, 0], List.replicate 8 12 ++ List.replicate 24 0⟩] Elem.zero).map (fun r => r.1.w.toInt)
      = some (442368 * 2 ^ 245) := by decide +kernel

/-- R41: 72 in BF16, in every mode. R42: the scale of a block whose largest magnitude is 300, and three of its elements. -/
theorem test_rounding : ([0, 1, 2, 3].map fun m => (ElemType.bf16.round m false (4608 * 2 ^ 252) (-258)).1)
      = List.replicate 4 0x4290
    ∧ s10For 127 300 0 = (0x201, false) ∧ quotientRne false 300 0 0x201 = 120 ∧ quotientRne false 5 (-2) 0x201 = 0
    ∧ quotientRne true 13 0 0x20B = -1 := by decide +kernel

/-- R46: the image of that W: columns, rows, two words, lo 192. -/
theorem test_export :
    let e : Elem := { Elem.zero with w := BitVec.ofNat 576 (4608 * 2 ^ 252) }
    twrImage (tileOf (tileBits 8 0 0 0 0 0)) { Acc.reset with mark := some 252, elems := [(0, e)] }
      = leBytes 8 0x00010001000200C0 ++ leBytes 8 0 ++ leBytes 8 0x120 := by decide +kernel

/-- R52: bit 20 of a TCW1 stream in the windows of weights 5, 20 and 21. -/
theorem test_windows : [5, 20, 21].map (window ((tcwMode 1).getD default) (2 ^ 20)) = [0x8000, 1, 0] := by decide

/-- R154: TRD of column 1, weight 300 of an image of zero streams and scales of 1.0. -/
def sTrdImage : State :=
  let hd := [1, 4, 512, 2] ++ List.replicate 12 0
  ctxAt 0 .c [(5, 0x100012C)] (bytesOf hd ++ (List.range 4).flatMap fun _ => bytesOf ([0x7F1FC] ++ List.replicate 8 0))
theorem test_trd : (after (exec (.trd 3 1 0 5) sTrdImage)).rg 3 = 0x1FC00000004 := by decide +kernel

/-- Element 0 of v3 after an instruction of VE on two vectors. -/
def veGives (i : Instr) (t a b : Nat) : Nat :=
  let s := sVe t []
  let k := s.core 0
  let regs := (k.ve.v.set 1 (BitVec.ofNat 2048 a)).set 2 (BitVec.ofNat 2048 b)
  ((after (exec i (s.setCore 0 { k with ve := { k.ve with v := regs } }))).core 0).ve.reg 3 |>.toNat

/-- R196: VADD in I8 with and without S, VABS of −128 with and without. -/
theorem test_vector_integers : [(veGives (.vadd 0 3 1 2 0 1) 0 100 100), veGives (.vadd 0 3 1 2 0 0) 0 100 100,
    veGives (.vabs 0 3 1 0) 0 128 0, veGives (.vabs 0 3 1 1) 0 128 0] = [127, 256 - 56, 128, 127] := by decide +kernel

/-- R198: VFMA in BF16 and, rounded twice, VFMUL and VFADD. -/
theorem test_fused : ffma .bf16 0 false false 0x3F88 0x3F88 0xBF80 = 0x3E04
    ∧ fadd .bf16 0 (fmul .bf16 0 0x3F88 0x3F88) 0xBF80 = 0x3E00 := by decide +kernel

/-- R55: the FP16 reduction of 2,048 and 127 ones is 2,174. -/
theorem test_reduction : (tree (vredOp .fp16 0 0) 8 ((List.range 128).map fun i => some (if i = 0 then 0x6800 else 0x3C00))).getD 0
    = 0x683F := by decide +kernel

end Sys2Proof.Tests
end

/-!
PROOFS. Promotion into the 576 bits of W (spec/01_number_formats.md R36, R37, R39; spec/05_matrix_engine.md R175, R176): what a slice's
inner accumulator owes to W, kept along the K-blocks whatever the interval; FP4's sub-blocks, promoted one by one.
-/

namespace Sys2Proof.Machine

/-! ### The 576 bits of W (R37, R39) -/

/-- A sum that W holds exactly. -/
def FitsWide (v : Int) : Prop := -2 ^ 575 ≤ v ∧ v < 2 ^ 575

/-- Every partial sum of some terms, from a value on, fits W. -/
def SumsFit (v : Int) (ts : List Int) : Prop := ∀ n, FitsWide (v + (ts.take n).sum)

theorem wideSum_toInt {v : Int} (h : FitsWide v) : (wideSum v).toInt = v := by
  have e : (BitVec.ofInt 576 v).toInt = v := BitVec.toInt_ofInt_eq_self (by decide) h.1 h.2
  rw [wideSum, if_pos e, e]

theorem SumsFit.first {v : Int} {ts : List Int} (h : SumsFit v ts) : FitsWide v := by simpa using h 0

theorem SumsFit.tail {v t : Int} {ts : List Int} (h : SumsFit v (t :: ts)) : SumsFit (v + t) ts := fun n => by
  simpa [Int.add_assoc] using h (n + 1)

theorem SumsFit.left {v : Int} {us ts : List Int} (h : SumsFit v (us ++ ts)) : SumsFit v us := fun n => by
  have k := h (min n us.length)
  rwa [List.take_append_of_le_length (Nat.min_le_right ..), ← List.take_eq_take_min] at k

theorem SumsFit.right {v : Int} {us ts : List Int} (h : SumsFit v (us ++ ts)) : SumsFit (v + us.sum) ts := fun n => by
  simpa [List.take_length_add_append, Int.add_assoc] using h (us.length + n)

/-- What a promotion adds to W arrives exactly where the sum fits. -/
theorem Elem.promote_w {e : Elem} {v : Int} {shift : Nat} (h : FitsWide (e.w.toInt + v * 2 ^ shift)) (mark : Option Nat) :
    (e.promote mark v shift).1.w.toInt = e.w.toInt + v * 2 ^ shift := by
  rw [Elem.promote, wideSum_toInt h]

@[simp] theorem Elem.promote_fa (e : Elem) (mark : Option Nat) (v : Int) (shift : Nat) :
    ((e.promote mark v shift).1.m, (e.promote mark v shift).1.x, (e.promote mark v shift).1.gd) = (e.m, e.x, e.gd) := by
  rw [Elem.promote]

/-! ### The products of one K-block after another -/

/-- Steps that may give nothing, taken while there is a result, are a fold in Option. -/
theorem foldl_bind_eq_foldlM {α β : Type} (f : β → α → Option β) (l : List α) :
    ∀ r : Option β, l.foldl (fun r x => r.bind fun b => f b x) r = r.bind fun b => l.foldlM f b := by
  induction l with
  | nil => exact fun r => by cases r <;> rfl
  | cons x xs ih =>
    intro r
    rw [List.foldl_cons, ih]
    cases r <;> rfl

/-- The products of MMA and MMAS are those of one pair of K-blocks after another, then the forced promotion. -/
theorem Elem.product_eq_foldlM (fa fp4 : Bool) (pi slice : Nat) (as bs : List KBlock) (e : Elem) :
    Elem.product fa fp4 pi slice true as bs e
      = ((as.zip bs).foldlM (fun (r : Elem × Option Nat) p =>
          if fp4 then some (r.1.fp4Block p.1 p.2 r.2) else r.1.block fa pi slice p.1 p.2 r.2) (e, none)).bind
        fun r => r.1.flush fa r.2 := by
  exact congrArg (fun r => r.bind fun x => x.1.flush fa x.2) (foldl_bind_eq_foldlM _ (as.zip bs) (some (e, none)))

/-! ### FP4: every sub-block is promoted (R36) -/

/-- The sum of products of sub-block n of two FP4 K-blocks, under the significands of its two scales. -/
def fp4Value (p : KBlock × KBlock) (n : Nat) : Int :=
  dot ((p.1.xs.drop (8 * n)).take 8) ((p.2.xs.drop (8 * n)).take 8)
    * (((e3m5 (p.1.scales.getD n 0)).1 * (e3m5 (p.2.scales.getD n 0)).1 : Nat) : Int)

/-- The shift at which that sum is promoted. -/
def fp4Shift (p : KBlock × KBlock) (n : Nat) : Nat :=
  (e3m5 (p.1.scales.getD n 0)).2 + (e3m5 (p.2.scales.getD n 0)).2 + 238

/-- What sub-block n of two FP4 K-blocks adds to W. -/
def fp4Term (p : KBlock × KBlock) (n : Nat) : Int := fp4Value p n * 2 ^ fp4Shift p n

/-- An element in which no sum of products is pending. -/
def Elem.Settled (e : Elem) : Prop := e.pair = none ∧ e.pairHigh = none

theorem Elem.Settled.promote {e : Elem} (h : e.Settled) (mark : Option Nat) (v : Int) (shift : Nat) :
    (e.promote mark v shift).1.Settled := by
  rw [Elem.Settled, Elem.promote]; exact h

theorem Elem.flush_settled {e : Elem} (h : e.Settled) (fa : Bool) (mark : Option Nat) : e.flush fa mark = some (e, mark) := by
  obtain ⟨low, high⟩ := h
  simp [Elem.flush, Elem.flushLow, Elem.flushHigh, low, high]

/-- One sub-block of two FP4 K-blocks into an element. -/
def fp4Step (p : KBlock × KBlock) (r : Elem × Option Nat) (n : Nat) : Elem × Option Nat :=
  r.1.promote r.2 (fp4Value p n) (fp4Shift p n)

theorem Elem.fp4Block_eq (p : KBlock × KBlock) (r : Elem × Option Nat) :
    r.1.fp4Block p.1 p.2 r.2 = (List.range 4).foldl (fp4Step p) r := rfl

/-- Sub-blocks add their terms to W and leave nothing pending. -/
theorem fp4Step_foldl (p : KBlock × KBlock) (ns : List Nat) : ∀ r : Elem × Option Nat, r.1.Settled →
    SumsFit r.1.w.toInt (ns.map (fp4Term p)) →
    (ns.foldl (fp4Step p) r).1.Settled ∧ (ns.foldl (fp4Step p) r).1.w.toInt = r.1.w.toInt + (ns.map (fp4Term p)).sum := by
  induction ns with
  | nil => intro r h _; exact ⟨h, by simp⟩
  | cons n ns ih =>
    intro r h fit
    have fit' := fit.tail
    have hw : (fp4Step p r n).1.w.toInt = r.1.w.toInt + fp4Term p n := by
      rw [fp4Step, Elem.promote_w fit'.first, fp4Term]
    rw [← hw] at fit'
    obtain ⟨settled, sum⟩ := ih (fp4Step p r n) (h.promote ..) fit'
    rw [List.foldl_cons]
    exact ⟨settled, by rw [sum, hw, List.map_cons, List.sum_cons, Int.add_assoc]⟩

/-- FP4 K-blocks add the terms of all their sub-blocks to W and leave nothing pending. -/
theorem fp4Blocks_foldlM (ps : List (KBlock × KBlock)) : ∀ r : Elem × Option Nat, r.1.Settled →
    SumsFit r.1.w.toInt (ps.flatMap fun p => (List.range 4).map (fp4Term p)) →
    ∃ t : Elem × Option Nat, ps.foldlM (fun r p => some (r.1.fp4Block p.1 p.2 r.2)) r = some t ∧ t.1.Settled
      ∧ t.1.w.toInt = r.1.w.toInt + (ps.flatMap fun p => (List.range 4).map (fp4Term p)).sum := by
  induction ps with
  | nil => intro r h _; exact ⟨r, rfl, h, by simp⟩
  | cons p ps ih =>
    intro r h fit
    obtain ⟨settled, sum⟩ := fp4Step_foldl p (List.range 4) r h fit.left
    have fit' := fit.right
    rw [← sum] at fit'
    obtain ⟨t, run, done, total⟩ := ih _ settled fit'
    refine ⟨t, ?_, done, ?_⟩
    · simpa only [List.foldlM_cons, Elem.fp4Block_eq, Option.bind_eq_bind, Option.bind_some] using run
    · rw [total, sum, List.flatMap_cons, List.sum_append, Int.add_assoc]

/-! ### The integer class: sums of products pending under one pair of scales (R36, R37) -/

/-- The inner accumulator of a slice and the pair of codes that it is pending under. -/
def Elem.inner (slice : Nat) (e : Elem) : Int × Option (Nat × Nat) :=
  if slice = 1 then (e.iHigh, e.pairHigh) else (e.i, e.pair)

@[simp] theorem Elem.inner_promote (slice : Nat) (e : Elem) (mark : Option Nat) (v : Int) (shift : Nat) :
    (e.promote mark v shift).1.inner slice = e.inner slice := by
  rw [Elem.inner, Elem.inner, Elem.promote]

/-- The shift of a promotion of a slice under a pair of codes: the high slice's is 8 more (R176). -/
def sliceShift (slice : Nat) (p : Nat × Nat) : Nat := (pairScale p).2 + if slice = 1 then 8 else 0

/-- A sum of products under a pair of codes, in units of W. -/
def underPair (slice : Nat) (x : Int) (p : Nat × Nat) : Int := x * ((pairScale p).1 : Nat) * 2 ^ sliceShift slice p

/-- What a slice's inner accumulator is still to add to W. -/
def Elem.pending (slice : Nat) (e : Elem) : Int :=
  match (e.inner slice).2 with
  | none => 0
  | some p => underPair slice (e.inner slice).1 p

/-- An element with a slice's inner accumulator, count and pair replaced. -/
def Elem.setInner (slice : Nat) (e : Elem) (x : Int) (n : Nat) (p : Option (Nat × Nat)) : Elem :=
  if slice = 1 then { e with iHigh := x, countHigh := n, pairHigh := p } else { e with i := x, count := n, pair := p }

/-- The K-blocks that a slice's inner accumulator holds. -/
def Elem.innerCount (slice : Nat) (e : Elem) : Nat := if slice = 1 then e.countHigh else e.count

/-- The slice that a command of a slice leaves alone. -/
def otherSlice (slice : Nat) : Nat := if slice = 1 then 0 else 1

theorem lowerMark_le (mark : Option Nat) (n : Nat) : ∃ k, lowerMark mark n = some k ∧ k ≤ n := by
  cases mark with
  | none => exact ⟨n, rfl, Nat.le_refl n⟩
  | some m => exact ⟨_, rfl, Nat.min_le_right ..⟩

theorem lowerMark_mem {mark : Option Nat} {n k : Nat} (h : lowerMark mark n = some k) : mark = some k ∨ k = n := by
  cases mark with
  | none => exact .inr (Option.some.inj h).symm
  | some m =>
    have e : min m n = k := Option.some.inj h
    rcases Nat.le_total m n with le | le
    · exact .inl (by rw [← e, Nat.min_eq_left le])
    · exact .inr (by rw [← e, Nat.min_eq_right le])

/-- A slice's inner accumulator promoted, where anything is pending in it. -/
def Elem.promoteInner (slice : Nat) (r : Elem × Option Nat) : Elem × Option Nat :=
  match (r.1.inner slice).2 with
  | none => r
  | some p => (r.1.setInner slice 0 0 none).promote r.2 ((r.1.inner slice).1 * ((pairScale p).1 : Nat)) (sliceShift slice p)

/-- A sum of products added to a slice's inner accumulator under a pair of codes. -/
def Elem.addInner (slice : Nat) (p : Nat × Nat) (x : Int) (r : Elem × Option Nat) : Elem × Option Nat :=
  (r.1.setInner slice ((r.1.inner slice).1 + x) (r.1.innerCount slice + 1) (some p), r.2)

@[simp] theorem Elem.inner_setInner (slice : Nat) (e : Elem) (x : Int) (n : Nat) (p : Option (Nat × Nat)) :
    (e.setInner slice x n p).inner slice = (x, p) := by
  unfold Elem.setInner Elem.inner; split <;> rfl

@[simp] theorem Elem.inner_other_setInner (slice : Nat) (e : Elem) (x : Int) (n : Nat) (p : Option (Nat × Nat)) :
    (e.setInner slice x n p).inner (otherSlice slice) = e.inner (otherSlice slice) := by
  unfold Elem.setInner Elem.inner otherSlice; split <;> rfl

@[simp] theorem Elem.setInner_w (slice : Nat) (e : Elem) (x : Int) (n : Nat) (p : Option (Nat × Nat)) :
    (e.setInner slice x n p).w = e.w := by
  unfold Elem.setInner; split <;> rfl

@[simp] theorem Elem.setInner_fa (slice : Nat) (e : Elem) (x : Int) (n : Nat) (p : Option (Nat × Nat)) :
    ((e.setInner slice x n p).m, (e.setInner slice x n p).x, (e.setInner slice x n p).gd) = (e.m, e.x, e.gd) := by
  unfold Elem.setInner; split <;> rfl

/-- Where neither slice has anything pending, nothing is. -/
theorem Elem.inner_both {slice : Nat} {e : Elem} (h : e.inner slice = (0, none)) (k : e.inner (otherSlice slice) = (0, none)) :
    e.i = 0 ∧ e.pair = none ∧ e.iHigh = 0 ∧ e.pairHigh = none := by
  by_cases hs : slice = 1
  · subst hs
    exact ⟨congrArg Prod.fst k, congrArg Prod.snd k, congrArg Prod.fst h, congrArg Prod.snd h⟩
  · simp only [Elem.inner, otherSlice, if_neg hs, if_true, Prod.mk.injEq] at h k
    exact ⟨h.1, h.2, k.1, k.2⟩

theorem Elem.flushLow_eq_promoteInner (e : Elem) (mark : Option Nat) {slice : Nat} (h : slice ≠ 1) :
    e.flushLow false mark = some (Elem.promoteInner slice (e, mark)) := by
  cases hp : e.pair <;> simp [Elem.flushLow, Elem.promoteInner, Elem.inner, Elem.setInner, sliceShift, pairScale, hp, h]

theorem Elem.flushHigh_eq_promoteInner (e : Elem) (mark : Option Nat) : e.flushHigh mark = Elem.promoteInner 1 (e, mark) := by
  cases hp : e.pairHigh <;> simp [Elem.flushHigh, Elem.promoteInner, Elem.inner, Elem.setInner, sliceShift, pairScale, hp]

/-- Where the other slice has nothing pending, the forced promotion is that of the slice. -/
theorem Elem.flush_eq_promoteInner {slice : Nat} {r : Elem × Option Nat} (h : (r.1.inner (otherSlice slice)).2 = none) :
    r.1.flush false r.2 = some (Elem.promoteInner slice r) := by
  obtain ⟨e, mark⟩ := r
  by_cases hs : slice = 1
  · subst hs
    have low : e.pair = none := h
    simp [Elem.flush, Elem.flushLow, low, Elem.flushHigh_eq_promoteInner]
  · have high : e.pairHigh = none := by simpa [otherSlice, hs, Elem.inner] using h
    have still : (Elem.promoteInner slice (e, mark)).1.pairHigh = none := by
      unfold Elem.promoteInner Elem.setInner Elem.promote
      split <;> simp [hs, high]
    simp [Elem.flush, Elem.flushLow_eq_promoteInner _ _ hs, Elem.flushHigh, still]

/-- A K-block of the integer class (R175, R176): what is pending under another pair is promoted first; whether the sum is promoted at once
is up to the interval. -/
theorem Elem.block_cases (pi slice : Nat) (a b : KBlock) (r : Elem × Option Nat) :
    let p := (a.scales.headD 0, b.scales.headD 0)
    ∃ r1, ((r1 = r ∧ ∀ q, (r.1.inner slice).2 = some q → q = p) ∨ r1 = Elem.promoteInner slice r)
      ∧ (r.1.block false pi slice a b r.2 = some (Elem.addInner slice p (dot a.xs b.xs) r1)
        ∨ r.1.block false pi slice a b r.2 = some (Elem.promoteInner slice (Elem.addInner slice p (dot a.xs b.xs) r1))) := by
  intro p
  obtain ⟨e, mark⟩ := r
  let r1 := if (e.inner slice).2.isSome && decide ((e.inner slice).2 ≠ some p) then Elem.promoteInner slice (e, mark) else (e, mark)
  have block : e.block false pi slice a b mark = some (let r2 := Elem.addInner slice p (dot a.xs b.xs) r1
      if r2.1.innerCount slice = pi then Elem.promoteInner slice r2 else r2) := by
    by_cases hs : slice = 1
    · subst hs
      simp only [Elem.block, if_true, Elem.flushHigh_eq_promoteInner] <;> rfl
    · simp only [r1, Elem.block, Elem.flushLow_eq_promoteInner _ _ hs, ← apply_ite some, Option.bind_some, Elem.addInner, Elem.setInner,
        Elem.inner, Elem.innerCount, if_neg hs] <;> rfl
  refine ⟨r1, ?_, ?_⟩
  · by_cases other : (e.inner slice).2.isSome && decide ((e.inner slice).2 ≠ some p)
    · exact .inr (if_pos other)
    · exact .inl ⟨if_neg other, fun q hq => by simpa [hq] using other⟩
  · rw [block]
    dsimp only
    split
    · exact .inr rfl
    · exact .inl rfl

/-- What a command of a slice has made of an element: what W holds and what is pending come to v; the other slice and the contents of
FA mode are as before; each of the shifts is marked or pending, and the mark and the pending shift are among them. -/
structure Owes (slice : Nat) (e : Elem) (v : Int) (shifts : List Nat) (r : Elem × Option Nat) : Prop where
  total : r.1.w.toInt + r.1.pending slice = v
  idle : (r.1.inner slice).2 = none → (r.1.inner slice).1 = 0
  other : r.1.inner (otherSlice slice) = (0, none)
  kept : (r.1.m, r.1.x, r.1.gd) = (e.m, e.x, e.gd)
  marked : ∀ n ∈ shifts, (∃ k, r.2 = some k ∧ k ≤ n) ∨ ∃ p, (r.1.inner slice).2 = some p ∧ sliceShift slice p = n
  mark : ∀ k, r.2 = some k → k ∈ shifts
  pair : ∀ p, (r.1.inner slice).2 = some p → sliceShift slice p ∈ shifts

section
variable {slice : Nat} {e : Elem} {v : Int} {shifts : List Nat} {r : Elem × Option Nat}

/-- A promotion leaves nothing pending, and what it owed in W. -/
theorem Owes.promote (h : Owes slice e v shifts r) (fits : FitsWide v) :
    Owes slice e v shifts (Elem.promoteInner slice r) ∧ (Elem.promoteInner slice r).1.inner slice = (0, none) := by
  cases hp : (r.1.inner slice).2 with
  | none =>
    have same : Elem.promoteInner slice r = r := by rw [Elem.promoteInner, hp]
    rw [same]
    exact ⟨h, Prod.ext (h.idle hp) hp⟩
  | some p =>
    have step : Elem.promoteInner slice r
        = (r.1.setInner slice 0 0 none).promote r.2 ((r.1.inner slice).1 * ((pairScale p).1 : Nat)) (sliceShift slice p) := by
      rw [Elem.promoteInner, hp]
    have owed : r.1.w.toInt + (r.1.inner slice).1 * ((pairScale p).1 : Nat) * 2 ^ sliceShift slice p = v := by
      simpa only [Elem.pending, hp, underPair] using h.total
    have hw : (Elem.promoteInner slice r).1.w.toInt = v := by
      rw [step, Elem.promote_w (by rw [Elem.setInner_w, owed]; exact fits), Elem.setInner_w, owed]
    have inner : (Elem.promoteInner slice r).1.inner slice = (0, none) := by
      rw [step, Elem.inner_promote, Elem.inner_setInner]
    have mark : (Elem.promoteInner slice r).2 = lowerMark r.2 (sliceShift slice p) := by rw [step, Elem.promote]
    refine ⟨⟨?_, fun _ => by rw [inner], ?_, ?_, fun n hn => .inl ?_, fun k hk => ?_, by rw [inner]; exact nofun⟩, inner⟩
    · rw [hw, Elem.pending, inner, Int.add_zero]
    · rw [step, Elem.inner_promote, Elem.inner_other_setInner, h.other]
    · rw [step, Elem.promote_fa, Elem.setInner_fa, h.kept]
    · rw [mark]
      rcases h.marked n hn with ⟨k, hk, le⟩ | ⟨q, hq, rfl⟩
      · rw [hk]; exact ⟨_, rfl, Nat.le_trans (Nat.min_le_left ..) le⟩
      · obtain rfl : p = q := Option.some.inj (hp.symm.trans hq)
        exact lowerMark_le r.2 _
    · rw [mark] at hk
      rcases lowerMark_mem hk with hk | rfl
      · exact h.mark k hk
      · exact h.pair p hp

/-- A sum of products comes to what is pending under the same pair, or begins a new one. -/
theorem Owes.add (h : Owes slice e v shifts r) {p : Nat × Nat} (same : ∀ q, (r.1.inner slice).2 = some q → q = p) (x : Int) :
    Owes slice e (v + underPair slice x p) (shifts ++ [sliceShift slice p]) (Elem.addInner slice p x r) := by
  have inner : (Elem.addInner slice p x r).1.inner slice = ((r.1.inner slice).1 + x, some p) := by
    rw [Elem.addInner, Elem.inner_setInner]
  have more : (Elem.addInner slice p x r).1.pending slice = r.1.pending slice + underPair slice x p := by
    rw [Elem.pending, inner, Elem.pending]
    cases hp : (r.1.inner slice).2 with
    | none => simp [h.idle hp]
    | some q => simp only [same q hp, underPair, Int.add_mul]
  refine ⟨?_, by rw [inner]; exact nofun, ?_, ?_, fun n hn => ?_, fun k hk => ?_, fun q hq => ?_⟩
  · rw [more, ← h.total, Elem.addInner, Elem.setInner_w, Int.add_assoc]
  · rw [Elem.addInner, Elem.inner_other_setInner, h.other]
  · rw [Elem.addInner, Elem.setInner_fa, h.kept]
  · rcases List.mem_append.1 hn with hn | hn
    · rcases h.marked n hn with low | ⟨q, hq, rfl⟩
      · exact .inl low
      · exact .inr ⟨p, by rw [inner], by rw [same q hq]⟩
    · exact .inr ⟨p, by rw [inner], (List.mem_singleton.1 hn).symm⟩
  · exact List.mem_append_left _ (h.mark k hk)
  · rw [inner] at hq
    obtain rfl := Option.some.inj hq
    exact List.mem_append_right _ (List.mem_singleton_self _)

/-- A K-block of the integer class adds its product, wherever the interval promotes. -/
theorem Owes.block (h : Owes slice e v shifts r) (pi : Nat) (a b : KBlock) (now : FitsWide v)
    (then_ : FitsWide (v + underPair slice (dot a.xs b.xs) (a.scales.headD 0, b.scales.headD 0))) :
    ∃ t, r.1.block false pi slice a b r.2 = some t
      ∧ Owes slice e (v + underPair slice (dot a.xs b.xs) (a.scales.headD 0, b.scales.headD 0))
        (shifts ++ [sliceShift slice (a.scales.headD 0, b.scales.headD 0)]) t := by
  obtain ⟨r1, before, after⟩ := Elem.block_cases pi slice a b r
  have added : Owes slice e (v + underPair slice (dot a.xs b.xs) (a.scales.headD 0, b.scales.headD 0))
      (shifts ++ [sliceShift slice (a.scales.headD 0, b.scales.headD 0)])
      (Elem.addInner slice (a.scales.headD 0, b.scales.headD 0) (dot a.xs b.xs) r1) := by
    rcases before with ⟨rfl, same⟩ | rfl
    · exact h.add same _
    · obtain ⟨settled, inner⟩ := h.promote now
      exact settled.add (by rw [inner]; exact nofun) _
  rcases after with run | run
  · exact ⟨_, run, added⟩
  · exact ⟨_, run, (added.promote then_).1⟩

end

/-- What a pair of K-blocks of the integer class adds to W. -/
def blockTerm (slice : Nat) (p : KBlock × KBlock) : Int := underPair slice (dot p.1.xs p.2.xs) (p.1.scales.headD 0, p.2.scales.headD 0)
/-- The shift of its promotion. -/
def blockShift (slice : Nat) (p : KBlock × KBlock) : Nat := sliceShift slice (p.1.scales.headD 0, p.2.scales.headD 0)

/-- K-blocks of the integer class add their products, wherever the interval promotes. -/
theorem Owes.blocks {slice : Nat} {e : Elem} (pi : Nat) (ps : List (KBlock × KBlock)) : ∀ {v : Int} {shifts : List Nat}
    {r : Elem × Option Nat}, Owes slice e v shifts r → SumsFit v (ps.map (blockTerm slice)) →
    ∃ t, ps.foldlM (fun r p => r.1.block false pi slice p.1 p.2 r.2) r = some t
      ∧ Owes slice e (v + (ps.map (blockTerm slice)).sum) (shifts ++ ps.map (blockShift slice)) t := by
  induction ps with
  | nil => intro v shifts r h _; exact ⟨r, rfl, by simpa using h⟩
  | cons p ps ih =>
    intro v shifts r h fit
    obtain ⟨r1, step, owes⟩ := h.block pi p.1 p.2 fit.first fit.tail.first
    obtain ⟨t, run, done⟩ := ih owes fit.tail
    refine ⟨t, ?_, ?_⟩
    · rw [List.foldlM_cons, step]; exact run
    · rw [List.map_cons, List.map_cons, List.sum_cons, ← Int.add_assoc, List.append_cons]
      exact done

end Sys2Proof.Machine

namespace Sys2Proof

open Machine

/-- Settles O36: the invariant `Owes` along the K-blocks, and a fold over the FP4 sub-blocks, which are promoted one by one. -/
theorem promotionIntervals : Obligations.PromotionIntervals := by
  unfold Obligations.PromotionIntervals
  refine ⟨?_, ?_⟩
  · intro as bs e pi slice hi hc hp hiH hcH hpH shift term terms fits
    have start : Owes slice e e.w.toInt [] (e, none) := by
      have idle : ∀ n, e.inner n = (0, none) := fun n => by rw [Elem.inner, hi, hp, hiH, hpH, ite_self]
      refine ⟨by rw [Elem.pending, idle, Int.add_zero], fun _ => by rw [idle], idle _, rfl, nofun, nofun, by rw [idle]; exact nofun⟩
    obtain ⟨t, run, owes⟩ := start.blocks pi (as.zip bs) fits
    have last : FitsWide (e.w.toInt + ((as.zip bs).map (blockTerm slice)).sum) := by
      have all := fits terms.length
      rwa [List.take_length] at all
    obtain ⟨done, inner⟩ := owes.promote last
    refine ⟨(Elem.promoteInner slice t).1, (Elem.promoteInner slice t).2, ?_, ?_⟩
    · rw [Elem.product_eq_foldlM]
      simp only [Bool.false_eq_true, if_false, run, Option.bind_some]
      exact Elem.flush_eq_promoteInner (congrArg Prod.snd owes.other)
    · obtain ⟨hi, hp, hiH, hpH⟩ := Elem.inner_both inner done.other
      have total := done.total
      rw [Elem.pending, inner, Int.add_zero] at total
      refine ⟨total, hi, hp, hiH, hpH, done.kept, fun p hp => ?_, fun n hn => ?_⟩
      · rcases done.marked _ (List.mem_map_of_mem hp) with low | ⟨q, hq, _⟩
        · exact low
        · rw [inner] at hq; cases hq
      · obtain ⟨p, hp, rfl⟩ := List.mem_map.1 (done.mark n hn)
        exact ⟨p, hp, rfl⟩
  · intro as bs e pi slice hp hpH sub terms fits
    obtain ⟨t, run, settled, sum⟩ := fp4Blocks_foldlM (as.zip bs) (e, none) ⟨hp, hpH⟩ fits
    refine ⟨t.1, t.2, ?_, sum⟩
    rw [Elem.product_eq_foldlM]
    simp only [if_true, run, Option.bind_some, Elem.flush_settled settled]

end Sys2Proof

/-!
PROOFS. TRD and WINFO (spec/04_shared_memory_lattice_system.md R153, R154): what a read of memory leaves of the executing unit and its
upsets, the bytes that hold a window of a trellis stream (spec/01_number_formats.md R51), and the two words.
-/

namespace Sys2Proof.Machine

/-! ### Loads of a word that meets no upset (R121) -/

/-- What a read of memory, or a record, leaves: the executing unit, the upsets that wait for it, the cores and the streams. -/
structure State.SameUnits (s t : State) : Prop where
  cur : t.cur = s.cur
  upsets : t.tmrUpset = s.tmrUpset
  cores : t.cores = s.cores
  streams : t.streams = s.streams

theorem State.SameUnits.trans {s t u : State} (h : s.SameUnits t) (k : t.SameUnits u) : s.SameUnits u :=
  ⟨k.cur.trans h.cur, k.upsets.trans h.upsets, k.cores.trans h.cores, k.streams.trans h.streams⟩

theorem State.poke_units (s : State) (cells : List (Nat × Byte)) (w : Writer) : s.SameUnits (s.poke cells w) := ⟨rfl, rfl, rfl, rfl⟩

theorem State.ringWrite_units (s : State) (a c : Nat) (bs : List Byte) (n : Nat) : s.SameUnits (s.ringWrite a c bs n) :=
  (s.poke_units _ _).trans (State.poke_units _ _ _)

theorem State.record_units (s : State) (e : Event) (supp : Nat) : s.SameUnits (s.record e supp) := by
  unfold State.record
  extract_lets sec made lost r ring n s'
  have put : s.SameUnits s' := s.ringWrite_units _ _ _ _
  clear_value s' sec made
  by_cases h : 65536 ≤ made
  · rw [if_pos h]; exact ⟨rfl, rfl, rfl, rfl⟩
  · rw [if_neg h]; exact put.trans ⟨rfl, rfl, rfl, rfl⟩

theorem State.arrayRecord_units (s : State) (kind unit cw syndrome card : Nat) (mc : Nat × Nat) :
    s.SameUnits (s.arrayRecord kind unit cw syndrome card mc) := by
  unfold State.arrayRecord
  extract_lets corrected c e r
  have made : s.SameUnits r := (s.record_units _ _).trans ⟨rfl, rfl, rfl, rfl⟩
  clear_value r corrected
  split
  · exact ⟨rfl, rfl, rfl, rfl⟩
  · split
    · exact s.record_units _ _
    · exact made.trans ⟨rfl, rfl, rfl, rfl⟩

theorem State.foldl_units {α : Type} {f : State → α → State} (h : ∀ s x, State.SameUnits s (f s x)) :
    ∀ (l : List α) (s : State), s.SameUnits (l.foldl f s)
  | [], _ => ⟨rfl, rfl, rfl, rfl⟩
  | x :: xs, s => (h s x).trans (State.foldl_units h xs (f s x))

theorem State.noteCorrected_units (s : State) (unit card : Nat) (pas : List Nat) (hash : Option Nat) :
    s.SameUnits (s.noteCorrected unit card pas hash) := by
  unfold State.noteCorrected
  split
  · exact ⟨rfl, rfl, rfl, rfl⟩
  · refine State.foldl_units (fun t cw => ?_) _ s
    split
    · exact .trans (t := { t with ecc := Tab.erase t.ecc cw }) ⟨rfl, rfl, rfl, rfl⟩ (State.record_units _ _ _)
    · exact t.arrayRecord_units _ _ _ _ _ _

theorem State.noteReads_units (s : State) (u : UnitId) (pas : List Nat) (hash : Option Nat) :
    s.SameUnits (s.noteReads u pas hash) :=
  .trans (t := { s with counts := tallied s.counts (s.viaChannels (pas.map s.direct) hash) }) ⟨rfl, rfl, rfl, rfl⟩
    (State.noteCorrected_units _ _ _ _ _)

theorem State.viewedBy_units (s : State) (p : Agent) (k : Clock) (pas : List Nat) : s.SameUnits (s.viewedBy p k pas).1 := by
  unfold State.viewedBy
  extract_lets
  split <;> exact ⟨rfl, rfl, rfl, rfl⟩

theorem State.look_units (s : State) (u : UnitId) (p : Option Page) (pas : List Nat) : s.SameUnits (s.look u p pas).1 := by
  unfold State.look State.lookBy
  split
  · split
    · exact ⟨rfl, rfl, rfl, rfl⟩
    · exact s.viewedBy_units _ _ _
  · exact s.viewedBy_units _ _ _

theorem State.hashBytes_units (s : State) (hash : Nat) (pas : List Nat) (bs : List Byte) :
    s.SameUnits (s.hashBytes hash pas bs).1 := by
  unfold State.hashBytes
  extract_lets
  split <;> exact ⟨rfl, rfl, rfl, rfl⟩

theorem readPlain_units {s t : State} {p : Option Page} {pas : List Nat} {e : Nat → DWord} {bs : List Byte}
    (h : readPlain s p pas e = .ok (t, bs)) : s.SameUnits t := by
  unfold readPlain readBy at h
  split at h
  · cases h
  · injection h with h
    have read := s.noteReads_units s.cur pas (p.map (·.hash))
    generalize s.noteReads s.cur pas (p.map (·.hash)) = s1 at h read
    have last : t = ((s1.look s1.cur p pas).1.hashBytes ((p.map (·.hash)).getD 0) pas (s1.look s1.cur p pas).2.1).1 :=
      (congrArg Prod.fst h).symm
    rw [last]
    exact (read.trans (s1.look_units s1.cur p pas)).trans (State.hashBytes_units _ _ _ _)

theorem readOffs_units {s t : State} {p : Page} {offs : List Nat} {bs : List Byte} (h : readOffs s p offs = .ok (t, bs)) :
    s.SameUnits t := by
  unfold readOffs at h
  simp only [bind, Except.bind] at h
  split at h
  · cases h
  · split at h
    · cases h
    · exact readPlain_units h

theorem readPage_units {s t : State} {p : Page} {off n : Nat} {bs : List Byte} (h : readPage s p off n = .ok (t, bs)) :
    s.SameUnits t := readOffs_units h

theorem readTcwHeader_units {s t : State} {p : Page} {off : Nat} {hd : TcwHeader} (h : readTcwHeader s p off = .ok (t, hd)) :
    s.SameUnits t := by
  unfold readTcwHeader at h
  simp only [bind, Except.bind] at h
  split at h
  · cases h
  · rename_i r hr
    split at h
    · cases h
    · injection h with h
      injection h with h
      exact h ▸ readPage_units hr

/-- A load that meets no upset and succeeds has its plain effect. -/
theorem sharedLoad_unvoted {s t : State} (h : Claim.Unvoted s) {f : State → M State} (hf : f s = .ok t)
    (cur : t.cur = s.cur) (upsets : t.tmrUpset = s.tmrUpset) :
    sharedLoad s f = .next t := by
  unfold sharedLoad voted
  split
  · rename_i tmr
    have quiet := h tmr
    have first : vote s false = (s, true) := by unfold vote; rw [quiet]
    have second : vote s true = (s, true) := by unfold vote; rw [quiet]
    have after : vote t true = (t, true) := by unfold vote; rw [cur, upsets, quiet]
    simp only [first, hf, second, after]
    rfl
  · rw [hf]; rfl

/-! ### The bits of a stream and its windows (R51) -/

theorem bit_eq_testBit (x n : Nat) : bit x n = x.testBit n := by
  rw [Nat.testBit_eq_decide_div_mod_eq, bit]
  rfl

/-- Bit p of the number that bytes stand for is bit p mod 8 of byte p / 8. -/
theorem testBit_leNat (bs : List Byte) : ∀ p, (leNat bs).testBit p = (bs.getD (p / 8) 0).toNat.testBit (p % 8) := by
  induction bs with
  | nil => intro p; simp [leNat]
  | cons b bs ih =>
    intro p
    have hb : b.toNat < 2 ^ 8 := b.isLt
    rw [leNat, Nat.add_comm, show 256 = 2 ^ 8 from rfl, Nat.testBit_two_pow_mul_add _ hb]
    split
    · rename_i h
      rw [Nat.div_eq_of_lt h, Nat.mod_eq_of_lt h]; rfl
    · rename_i h
      rw [ih, show p / 8 = (p - 8) / 8 + 1 by omega, show (p - 8) % 8 = p % 8 by omega]; rfl

theorem leNat_lt (bs : List Byte) : leNat bs < 2 ^ (8 * bs.length) := by
  induction bs with
  | nil => simp [leNat]
  | cons b bs ih =>
    have hb : b.toNat < 2 ^ 8 := b.isLt
    rw [leNat, List.length_cons, Nat.mul_add, Nat.pow_add]
    omega

/-- A number below 2^n from its bits. -/
theorem sum_bits (x n : Nat) : ((List.range n).map fun i => b2n (x.testBit i) * 2 ^ i).sum = x % 2 ^ n := by
  induction n with
  | zero => simp [Nat.mod_one]
  | succ n ih =>
    have bit : b2n (x.testBit n) = x / 2 ^ n % 2 := by
      rw [Nat.testBit_eq_decide_div_mod_eq, b2n]
      split <;> simp_all
    rw [List.range_succ, List.map_append, List.sum_append, ih, Nat.mod_pow_succ, List.map_singleton, List.sum_singleton, bit,
      Nat.mul_comm]

/-- Bit i of a window is bit q·b + i of the stream, taken round its end. -/
theorem testBit_window {m : TcwMode} {stream q i : Nat} (hs : stream < 2 ^ m.m) (hi : i < 16) (hm : 16 ≤ m.m) :
    (window m stream q).testBit i = stream.testBit ((q * m.b + i) % m.m) := by
  have h : q * m.b % m.m < m.m := Nat.mod_lt _ (by omega)
  rw [window, show 65536 = 2 ^ 16 from rfl, Nat.testBit_mod_two_pow, Nat.testBit_div_two_pow, Nat.add_comm stream, Nat.mul_comm stream,
    Nat.testBit_two_pow_mul_add _ hs, ← Nat.mod_add_mod]
  generalize q * m.b % m.m = r at h ⊢
  split
  · rename_i k
    rw [Nat.mod_eq_of_lt (by omega : r + i < m.m)]
    simp [hi, Nat.add_comm]
  · rename_i k
    rw [Nat.mod_eq_sub_mod (by omega), Nat.mod_eq_of_lt (by omega : r + i - m.m < m.m)]
    simp [hi, Nat.add_comm]

theorem getD_map_idxOf {f : Nat → Byte} {l : List Nat} {x : Nat} (h : x ∈ l) : (l.map f).getD (l.idxOf x) 0 = f x := by
  have k := List.idxOf_lt_length_iff.2 h
  rw [List.getD_eq_getElem?_getD, List.getElem?_map, List.getElem?_eq_getElem k, List.getElem_idxOf]
  rfl

/-- The bytes that `windowBytes` names hold the window of the whole stream. -/
theorem windowOf_bytes {m : TcwMode} {blk : List Byte} (hl : 8 * blk.length = m.m) (hm : 16 ≤ m.m) (q : Nat) :
    windowOf m q ((windowBytes m q).map fun i => blk.getD i 0) = window m (leNat blk) q := by
  have hs : leNat blk < 2 ^ m.m := hl ▸ leNat_lt blk
  have bitOf : ∀ i ∈ List.range 16,
      b2n (bit ((((windowBytes m q).map fun i => blk.getD i 0).getD ((windowBytes m q).idxOf ((q * m.b + i) % m.m / 8)) 0).toNat)
        ((q * m.b + i) % m.m % 8)) * 2 ^ i = b2n ((window m (leNat blk) q).testBit i) * 2 ^ i := by
    intro i hi
    have mem : (q * m.b + i) % m.m / 8 ∈ windowBytes m q := List.mem_eraseDups.2 (List.mem_map.2 ⟨i, hi, rfl⟩)
    rw [getD_map_idxOf (f := fun i => blk.getD i 0) mem, bit_eq_testBit, ← testBit_leNat, testBit_window hs (List.mem_range.1 hi) hm]
  calc windowOf m q _ = ((List.range 16).map fun i => b2n ((window m (leNat blk) q).testBit i) * 2 ^ i).sum := by
        rw [windowOf]; exact congrArg List.sum (List.map_congr_left bitOf)
    _ = window m (leNat blk) q := by
        rw [sum_bits, window]; exact Nat.mod_mod _ _

theorem tcwMode_bits {code : Nat} {m : TcwMode} (h : tcwMode code = some m) : 16 ≤ m.m := by
  unfold tcwMode at h
  repeat' split at h
  all_goals cases h
  all_goals decide

/-! ### TRD (R154) -/

theorem sextInt_byte (b : Byte) : sextInt b.toNat 8 = b.toInt := by
  have hb : b.toNat < 2 ^ 8 := b.isLt
  simp only [sextInt, BitVec.toInt]
  split <;> omega

/-- The value of a weight of an image without a table is that of its window. -/
theorem readWeight_computed {s t : State} {p : Page} {hd : TcwHeader} {o ob k : Nat} {bs : List Byte}
    (hb : readOffs s p ((windowBytes hd.mode (k / hd.mode.g)).map (ob + 4 + ·)) = .ok (t, bs)) (ht : hd.table = false) :
    readWeight s p hd o ob k = .ok (t, windowValue none (windowOf hd.mode (k / hd.mode.g) bs) (k % hd.mode.g)) := by
  simp only [readWeight, hb, ht, bind, Except.bind]
  rfl

/-- The value of a weight of an image with a table is the entry that the hash of its window names. -/
theorem readWeight_table {s t u : State} {p : Page} {hd : TcwHeader} {o ob k : Nat} {bs : List Byte} {e : Byte}
    (hb : readOffs s p ((windowBytes hd.mode (k / hd.mode.g)).map (ob + 4 + ·)) = .ok (t, bs)) (ht : hd.table = true)
    (he : readPage t p (o + 64 + bits (windowHash (windowOf hd.mode (k / hd.mode.g) bs) (k % hd.mode.g)) 15 8) 1 = .ok (u, [e])) :
    readWeight s p hd o ob k = .ok (u, e.toInt) := by
  simp only [readWeight, hb, ht, he, if_true, bind, Except.bind, List.headD_cons, sextInt_byte]

/-! ### WINFO (R153) -/

/-- What WINFO reads: what a watch trigger left in the job, 0 in any other. -/
def winfoValue (s : State) (f : BitVec 1) : DWord :=
  match s.jobOf s.cur with
  | some jb => match jb.origin with
    | .watch _ _ _ => if f = 0 then dw jb.pend else jb.lastVa
    | _ => 0
  | none => 0

theorem wg_retire (s : State) (d : BitVec 5) (v : DWord) : (s.wg d v).retire = Claim.wrote s d v := by
  rw [State.retire, State.wg, State.me_setMe, State.setMe_setMe, Claim.wrote]

theorem winfo_calm {s : State} {c : Nat} (hv : Claim.Unvoted s) (hc : onlyCore s = .ok c) (d : BitVec 5) (f : BitVec 1) :
    exec (.winfo d f) s = .next (Claim.wrote s d (winfoValue s f)) := by
  show shared s _ = _
  rw [shared_calm (fun tmr => hv tmr false), hc, ← wg_retire]
  rfl

end Sys2Proof.Machine

namespace Sys2Proof

open Machine Claim

/-- Settles O22: the reads of TRD in their order; the bytes that it reads hold the window; WINFO case by case. -/
theorem infoAndTrellisRead : Obligations.InfoAndTrellisRead := by
  unfold Obligations.InfoAndTrellisRead
  refine ⟨⟨?_, fun code m blk q hc hl => windowOf_bytes hl (tcwMode_bits hc) q⟩, ?_⟩
  · intro s s1 s2 d h a b x p hd sc hv hm v o k n ob q j hz hh hl hr hk hn hb hs h20 s3 bs hbs out win
    have reads : ∀ t w, readWeight s2 p hd o ob (k % 256) = .ok (t, w) → s2.SameUnits t →
        exec (.trd d h a b) s = .next ((t.wg d (out w)).retire) := by
      intro t w hw frame
      have h1 : ¬ (hd.k ≤ k) := Nat.not_le.2 hk
      have h2 : ¬ (hd.n ≤ n) := Nat.not_le.2 hn
      have h3 : ¬ (2 ^ p.bits < ob + hd.mode.bytes) := Nat.not_lt.2 hb
      have read := ((readTcwHeader_units hr).trans (readPage_units hs)).trans frame
      refine sharedLoad_unvoted hv ?_ read.cur read.upsets
      subst ob n k o v
      simp [notMx, hm, hz, hh, hl, hr, h1, h2, h3, hs, h20, hw, faultIf, bind, Except.bind]
      rfl
    refine ⟨fun ht => ?_, fun ht s4 e he => ?_⟩
    · exact reads _ _ (readWeight_computed hbs ht) (readOffs_units hbs)
    · exact reads _ _ (readWeight_table hbs ht he) ((readOffs_units hbs).trans (readPage_units he))
  · intro s d f c hv hc
    rw [winfo_calm hv hc]
    refine ⟨fun jb x y z hj ho => ?_, fun jb hj ho => ?_, fun hj => ?_⟩
    · simp only [winfoValue, hj, ho]; rfl
    · rw [winfoValue, hj]
      dsimp only
      split
      · rename_i x y z hw; exact absurd hw (ho x y z)
      · rfl
    · rw [winfoValue, hj]

end Sys2Proof

/-!
PROOFS. The words of MX that are no stamped commands (spec/05_matrix_engine.md R163, R171 to R173): the frame of a command whose tokens
are there, MTD, MSTB and MPI.
-/

namespace Sys2Proof.Machine

/-! ### The frame of a command that pushes as it issues (R278) -/

/-- What popping tokens leaves of a state: the executing unit, the time and the streams. -/
def State.SameStreams (s t : State) : Prop := t.cur = s.cur ∧ t.now = s.now ∧ t.streams = s.streams

theorem State.SameStreams.trans {s t u : State} (h : s.SameStreams t) (k : t.SameStreams u) : s.SameStreams u :=
  ⟨k.1.trans h.1, k.2.1.trans h.2.1, k.2.2.trans h.2.2⟩

theorem State.popInto_streams (c : Nat) (e : Endpoint) (g : Byte) (ps : List Endpoint) : ∀ s : State,
    s.SameStreams (s.popInto c e g ps).1 := by
  induction ps with
  | nil => intro s; exact ⟨rfl, rfl, rfl⟩
  | cons p ps ih =>
    intro s
    unfold State.popInto
    split
    · refine State.SameStreams.trans ?_ (ih _)
      split <;> exact ⟨rfl, rfl, rfl⟩
    · exact ih s

/-- A command whose tokens are there ends as its body does, or raises what its body raises. -/
theorem command_of_tokens {s s1 : State} {tk : BitVec 3} (h : Claim.Tokens s tk s1) (body : State → Queued → M State) :
    (∀ u, body s1 (s.me.capture tk s.now) = .ok u → command s tk .issue body = .ok (Claim.ended s tk u))
    ∧ ∀ t, body s1 (s.me.capture tk s.now) = .error (.trap t) → command s tk .issue body = .error (.trap t) := by
  obtain ⟨⟨offers, popped, room⟩, ready⟩ := h
  refine ⟨fun u hb => ?_, fun t hb => ?_⟩
  all_goals
    unfold command
    extract_lets a c e q ps s0
    have there : ¬ (ps.any fun p => decide (s0.offer c p e q.tag = .nothing)) = true := by
      simpa using offers
    have turn : ¬ (decide (PushAt.issue = PushAt.issue) && decide (q.pushes ≠ 0) && !s.pushReady a) = true := by
      by_cases hq : q.pushes = 0
      · simp [hq]
      · simp [ready hq, a]
    rw [if_neg there, show s0.popInto c e q.tag ps = (s1, false) from popped]
    dsimp only
    rw [show s1.fullQueue c e q.pushes = none from room]
    dsimp only
    rw [if_neg turn, show body s1 q = _ from hb]
    rfl

/-- What an unstamped word of MX leads to when its body ends in a state: the command index stays (R163). -/
def plainDone (s : State) (tk : BitVec 3) (u : State) : Host.Outcome State Fault Refusal :=
  .next ((Claim.ended s tk u).setMe { (Claim.ended s tk u).me with cmdIndex := s.me.cmdIndex })

section
variable {s s1 : State} {tk : BitVec 3} {c : Nat} (h : Claim.Tokens s tk s1) (hc : s.cur = .eng .mx c)
include h

/-- The state whose tokens are taken is at the same stream and time. -/
theorem tokens_streams : s.SameStreams s1 := by
  obtain ⟨⟨_, popped, _⟩, _⟩ := h
  have frame := State.popInto_streams (s.coreOf s.cur) s.cur.endpoint (s.me.capture tk s.now).tag
    (maskEnds s.cur.endpoint (s.me.capture tk s.now).pops)
    (s.discardInto (s.coreOf s.cur) s.cur.endpoint (maskEnds s.cur.endpoint (s.me.capture tk s.now).pops) (s.me.capture tk s.now).tag)
  rw [popped] at frame
  exact frame

theorem tokens_rg (n : BitVec 5) : s1.rg n = s.rg n := by
  obtain ⟨cur, _, streams⟩ := tokens_streams h
  rw [State.rg, State.rg, State.me, State.me, State.stream, State.stream, cur, streams]

theorem tokens_pcyc : s1.pcyc = s.pcyc := by
  obtain ⟨_, now, _⟩ := tokens_streams h
  rw [State.pcyc, State.pcyc, now]

include hc

theorem tokens_mxCore : mxCore s1 = .ok c := by
  obtain ⟨cur, _, _⟩ := tokens_streams h
  rw [mxCore, cur, hc]

/-- An unstamped word of MX that completes is not counted (R163). -/
theorem plainCommand_ok {body : State → Nat → M State} {u : State} (hb : body s1 c = .ok u) :
    plainCommand s tk body = plainDone s tk u := by
  have run := (command_of_tokens h fun s _ => do let c ← mxCore s; body s c).1 u (by
    rw [tokens_mxCore h hc]; exact hb)
  rw [plainCommand, run]
  rfl

/-- An unstamped word of MX raises what its body raises, with the EWORD of R169. -/
theorem plainCommand_trap {body : State → Nat → M State} {k : Cause} {e : Option DWord} {w : DWord}
    (hb : body s1 c = .error (.trap ⟨k, e, .raw w, .none⟩)) :
    plainCommand s tk body = .next (takeTrap s ⟨k, e, .raw w, .none⟩) := by
  have run := (command_of_tokens h fun s _ => do let c ← mxCore s; body s c).2 _ (by
    rw [tokens_mxCore h hc]; exact hb)
  rw [plainCommand, run]
  rfl

/-! ### MTD, MSTB and MPI (R171 to R173) -/

theorem mtd_sets (t : BitVec 4) (a b : BitVec 5) : exec (.mtd tk t a b) s = plainDone s tk (s1.setCore c { s1.core c with
    mx := { (s1.core c).mx with td := (s1.core c).mx.td.set t.toNat (s.rg b ++ s.rg a) t.isLt } }).retire := by
  refine plainCommand_ok h hc ?_
  rw [tokens_rg h, tokens_rg h]

theorem mstb_sets (a : BitVec 5) (f : BitVec 1) : exec (.mstb tk a f) s = plainDone s tk (s1.setCore c { s1.core c with
    mx := { (s1.core c).mx with tref := (if f = 0 then s.rg a else s.rg a + s.pcyc).toNat } }).retire := by
  refine plainCommand_ok h hc ?_
  simp only [tokens_rg h, tokens_pcyc h]
  rfl

/-- MPI checks the interval, the pair, and the bound of R38. -/
theorem mpi_checks (a : BitVec 5) (t u : BitVec 4) :
    let p := (s.rg a).toNat
    let pair := pairOk (tileOf (s1.td c t)).fmt (tileOf (s1.td c u)).fmt
    let most := p * pairBound (tileOf (s1.td c t)).fmt
    let trap := fun (k : Cause) (e : DWord) (td why : Nat) =>
      Host.Outcome.next (takeTrap s ⟨k, some e, .raw (mxWord 0 0 td why 0), .none⟩)
    exec (.mpi tk a t u) s
      = if p < 1 ∨ 64 < p then trap .promotionLimit (s.rg a) 0 0
        else if pair = false then trap .format (BitVec.ofNat 64 u.toNat) u.toNat 2
        else if 2 ^ 31 - 1 < most then trap .promotionLimit (s.rg a) u.toNat 0
        else plainDone s tk (s1.setCore c { s1.core c with mx := { (s1.core c).mx with pi := p } }).retire := by
  intro p pair most trap
  by_cases out : p < 1 ∨ 64 < p
  · rw [if_pos out]
    refine plainCommand_trap h hc ?_
    simp only [tokens_rg h]
    rw [if_pos out]
    rfl
  · rw [if_neg out]
    by_cases odd : pair = false
    · rw [if_pos odd]
      refine plainCommand_trap h hc ?_
      simp only [tokens_rg h]
      rw [if_neg out, MxName.formatIf, if_pos (by rw [show pairOk _ _ = false from odd]; rfl)]
      rfl
    · have even : pair = true := by simpa using odd
      have pass : (!pairOk (tileOf (s1.td c t)).fmt (tileOf (s1.td c u)).fmt) = false := by rw [show pairOk _ _ = true from even]; rfl
      rw [if_neg odd]
      by_cases much : 2 ^ 31 - 1 < most
      · rw [if_pos much]
        refine plainCommand_trap h hc ?_
        simp only [tokens_rg h, pass]
        rw [if_neg out]
        simp only [MxName.formatIf]
        rw [if_pos much]
        rfl
      · rw [if_neg much]
        refine plainCommand_ok h hc ?_
        simp only [tokens_rg h, pass]
        rw [if_neg out]
        simp only [MxName.formatIf]
        rw [if_neg much]
        rfl

end

end Sys2Proof.Machine

/-!
PROOFS. The occupancies of MX (spec/05_matrix_engine.md R165, R167, R168, R179): the frame of the trap path
(spec/13_traps_preemption_contexts.md), a command recalled, what it settles, writes and leaves at its end.
-/

namespace Sys2Proof.Machine

/-! ### What the trap path leaves of the matrix engines and of the streams (R84, R335, R336, R355) -/

/-- Every matrix engine is as it was, and of every stream the general registers and EPC. -/
structure State.KeepsMx (s t : State) : Prop where
  mx : ∀ c, (t.core c).mx = (s.core c).mx
  g : ∀ u, (t.stream u).g = (s.stream u).g
  epc : ∀ u, (t.stream u).epc = (s.stream u).epc

theorem Stream.rg_of_g {x y : Stream} (h : x.g = y.g) (n : BitVec 5) : x.rg n = y.rg n := by
  rw [Stream.rg, Stream.rg, h]

namespace State.KeepsMx

variable {s t u : State}

/-- The same cores and streams. -/
theorem same (hc : t.cores = s.cores) (hs : t.streams = s.streams) : s.KeepsMx t :=
  ⟨fun c => by rw [State.core, State.core, hc], fun u => by rw [State.stream, State.stream, hs],
    fun u => by rw [State.stream, State.stream, hs]⟩

protected theorem refl (s : State) : s.KeepsMx s := same rfl rfl

theorem trans (h : s.KeepsMx t) (k : t.KeepsMx u) : s.KeepsMx u :=
  ⟨fun c => (k.mx c).trans (h.mx c), fun v => (k.g v).trans (h.g v), fun v => (k.epc v).trans (h.epc v)⟩

theorem ofUnits (h : s.SameUnits t) : s.KeepsMx t := same h.cores h.streams

theorem setCore (s : State) {c : Nat} {x : Core} (h : x.mx = (s.core c).mx) : s.KeepsMx (s.setCore c x) := by
  refine ⟨fun d => ?_, fun _ => rfl, fun _ => rfl⟩
  by_cases hd : d = c
  · subst hd; rw [State.core_setCore_self, h]
  · rw [State.core_setCore_ne _ _ _ hd]

theorem setStream (s : State) {v : UnitId} {x : Stream} (hg : x.g = (s.stream v).g) (he : x.epc = (s.stream v).epc) :
    s.KeepsMx (s.setStream v x) := by
  refine ⟨fun _ => rfl, fun w => ?_, fun w => ?_⟩
  all_goals
    by_cases hw : w = v
    · subst hw; rw [State.stream_setStream_self]; assumption
    · rw [State.stream_setStream_ne _ _ _ hw]

theorem foldl {α : Type} {f : State → α → State} (h : ∀ s x, State.KeepsMx s (f s x)) :
    ∀ (l : List α) (s : State), s.KeepsMx (l.foldl f s)
  | [], s => .refl s
  | x :: xs, s => (h s x).trans (foldl h xs (f s x))

end State.KeepsMx

theorem Tab.find?_mapVals {κ α : Type} [DecidableEq κ] (f : κ × α → α) (t : Tab κ α) (x : κ) :
    Tab.find? (t.map fun kv => (kv.1, f kv)) x = (Tab.find? t x).map fun v => f (x, v) := by
  induction t with
  | nil => rfl
  | cons a t ih =>
    obtain ⟨k, v⟩ := a
    rw [List.map_cons, Tab.find?, Tab.find?, ih]
    split
    · rename_i h; subst h; rfl
    · rfl

/-- Every core changed, but for its matrix engine. -/
theorem State.KeepsMx.mapCores (s : State) {f : Nat × Core → Core} (h : ∀ kc, (f kc).mx = kc.2.mx) :
    s.KeepsMx { s with cores := s.cores.map fun kc => (kc.1, f kc) } := by
  refine ⟨fun c => ?_, fun _ => rfl, fun _ => rfl⟩
  rw [State.core, State.core, Tab.get, Tab.get]
  dsimp only
  rw [Tab.find?_mapVals]
  cases Tab.find? s.cores c with
  | none => rfl
  | some k => exact h (c, k)

namespace State

theorem recordBad_mx (s : State) (k pa unit card : Nat) (hash : Option Nat) : s.KeepsMx (s.recordBad k pa unit card hash) := by
  unfold State.recordBad
  split
  · exact .refl s
  · split
    · exact .same rfl rfl
    · split
      · exact .ofUnits (s.arrayRecord_units _ _ _ _ _ _)
      · exact .ofUnits (s.record_units _ _)

theorem askUngate_mx (s : State) (c : Nat) : s.KeepsMx (s.askUngate c) := by
  unfold State.askUngate
  split
  · exact .setCore s rfl
  · exact .refl s

theorem noteTrap_mx (s : State) (t : Trap) : s.KeepsMx (s.noteTrap t) := by
  unfold State.noteTrap
  extract_lets unit card s'
  have noted : s.KeepsMx s' := by
    unfold s'
    split
    · exact .refl s
    · exact s.recordBad_mx _ _ _ _ _
    · exact s.askUngate_mx _
  clear_value s'
  split
  · exact noted.trans (.ofUnits (s'.record_units _ _))
  · exact noted.trans (.ofUnits (s'.record_units _ _))
  · exact noted

theorem leaveLines_mx (s : State) (u : UnitId) : s.KeepsMx (s.leaveLines u) := by
  unfold State.leaveLines
  split
  · exact .refl s
  · exact .mapCores s fun _ => rfl

theorem leaveLocks_mx (s : State) (u : UnitId) : s.KeepsMx (s.leaveLocks u) := by
  unfold State.leaveLocks
  split
  · exact .refl s
  · exact .mapCores s fun _ => rfl

theorem haltStream_mx (s : State) (u : UnitId) : s.KeepsMx (s.haltStream u) := by
  unfold State.haltStream
  extract_lets x s1
  have stopped : s.KeepsMx s1 :=
    ((State.KeepsMx.setStream s (x := { x with run := .halted, queued := none, waiting := none }) rfl rfl).trans
      (leaveLines_mx _ u)).trans (leaveLocks_mx _ u)
  clear_value s1
  split
  · exact stopped
  · rename_i j _
    extract_lets s2 core s3
    have unposted : s1.KeepsMx s2 := by
      unfold s2
      split <;> exact .same rfl rfl
    clear_value s2
    split
    · have left : s2.KeepsMx s3 := .setCore s2 rfl
      clear_value s3
      split
      · exact (stopped.trans unposted).trans left
      · exact ((stopped.trans unposted).trans left).trans (.same rfl rfl)
    · exact stopped.trans unposted

theorem freeHeader_mx (s : State) (slot : Nat) : s.KeepsMx (s.freeHeader slot) := .ofUnits (s.poke_units _ _)

theorem dropSlots_mx (s : State) (gone : Saved → Bool) : s.KeepsMx (s.dropSlots gone) :=
  (State.KeepsMx.foldl (fun t (y : Saved) => t.freeHeader_mx y.slot) _ s).trans (.same rfl rfl)

theorem endJob_mx (s : State) (j code : Nat) : s.KeepsMx (s.endJob j code) := by
  unfold State.endJob
  split
  · exact .refl s
  · extract_lets code' s1 s2 clear
    have ended : s.KeepsMx s1 := .same rfl rfl
    have stopped : s1.KeepsMx s2 := .foldl (fun t u => by
      split
      · exact t.haltStream_mx u
      · exact .refl t) _ s1
    clear_value s1 s2
    exact ((ended.trans stopped).trans (s2.dropSlots_mx _)).trans (.mapCores _ fun _ => rfl)

theorem putDwords_mx (s : State) (pa : Nat) (ws : List DWord) : s.KeepsMx (s.putDwords pa ws) := .ofUnits (s.poke_units _ _)

theorem putRecord_mx (s : State) (slot kind live : Nat) (u : UnitId) (double : Bool) :
    s.KeepsMx (s.putRecord slot kind live u double) := s.putDwords_mx _ _

theorem putBlock_mx (s : State) (pa : Nat) (parts : List (Nat × List DWord)) : s.KeepsMx (s.putBlock pa parts) :=
  .foldl (fun t _ => t.putDwords_mx _ _) parts s

theorem noteImage_mx (s : State) (n : Nat) : s.KeepsMx (s.noteImage n) := .same rfl rfl

theorem setSaved_mx (s : State) (l : List Saved) : s.KeepsMx { s with saved := l } := .same rfl rfl

theorem holdIn_mx (s : State) (u : UnitId) (slot : Nat) : s.KeepsMx (s.holdIn u slot) := by
  unfold State.holdIn
  extract_lets x s1 e s2 s3
  have held : s.KeepsMx s1 := .setStream s rfl rfl
  have saved : s1.KeepsMx s2 := s1.setSaved_mx _
  have recorded : s2.KeepsMx s3 := s2.putRecord_mx _ _ _ _ _
  clear_value s3 s2 e s1
  refine ((held.trans saved).trans recorded).trans (.trans ?_ (noteImage_mx _ _))
  split
  · exact s3.putBlock_mx _ _
  · exact .refl s3

theorem trapPath_mx (s : State) (u : UnitId) (code : Nat) : s.KeepsMx (s.trapPath u code) := by
  unfold State.trapPath
  extract_lets x slot s1
  have dying : s.KeepsMx s1 := by
    unfold s1
    split
    · exact (s.setSaved_mx _).trans (putRecord_mx _ _ _ _ _ _)
    · exact .refl s
  clear_value s1 slot
  split
  · exact s.holdIn_mx _ _
  · split
    · exact s.holdIn_mx _ _
    · split
      · exact dying.trans (s1.endJob_mx _ _)
      · exact dying.trans (s1.haltStream_mx _)

/-- A cause raised in a unit leaves its EPC, whatever the trap path does to it. -/
theorem raise_mx (s : State) (u : UnitId) (code : Nat) (asynch : Bool) (epc einfo eword : DWord) :
    (∀ c, ((s.raise u code asynch epc einfo eword).core c).mx = (s.core c).mx)
    ∧ ((s.raise u code asynch epc einfo eword).stream u).g = (s.stream u).g
    ∧ ((s.raise u code asynch epc einfo eword).stream u).epc = epc := by
  unfold State.raise
  extract_lets x cause s1
  have kept := (s1.leaveLines_mx u).trans (trapPath_mx _ u code)
  refine ⟨kept.mx, ?_, ?_⟩
  · rw [kept.g, show s1.stream u = _ from s.stream_setStream_self u _]
  · rw [kept.epc, show s1.stream u = _ from s.stream_setStream_self u _]

/-- A cause of the executing stream: EPC is its PC. -/
theorem trapNow_mx (s : State) (t : Trap) :
    (∀ c, ((s.trapNow t).core c).mx = (s.core c).mx) ∧ ((s.trapNow t).stream s.cur).g = s.me.g
    ∧ ((s.trapNow t).stream s.cur).epc = s.me.pc := by
  unfold State.trapNow
  extract_lets e s1 w
  have first : s.KeepsMx s1 ∧ s1.cur = s.cur ∧ s1.me.pc = s.me.pc := by
    unfold s1
    split
    · exact ⟨.refl s, rfl, rfl⟩
    · exact ⟨.same rfl rfl, rfl, rfl⟩
  clear_value s1 w e
  obtain ⟨kept, cur, pc⟩ := first
  have noted := kept.trans (s1.noteTrap_mx t)
  obtain ⟨mx, g, epc⟩ := (s1.noteTrap t).raise_mx s1.cur t.cause.code false s1.me.pc e w
  rw [cur] at mx g epc ⊢
  exact ⟨fun c => (mx c).trans (noted.mx c), g.trans (noted.g _), epc.trans pc⟩

/-! ### A command of MX that is recalled (R81, R165) -/

/-- Queues changed one after another leave the matrix engine. -/
theorem foldl_setQueue_mx {α : Type} (p e : α → Endpoint) (q : Core → α → TokenQueue) (l : List α) (k : Core) :
    (l.foldl (fun k x => k.setQueue (p x) (e x) (q k x)) k).mx = k.mx := by
  induction l generalizing k with
  | nil => rfl
  | cons x xs ih => exact ih _

theorem unreserve_mx (s : State) (c : Nat) (e : Endpoint) (m : BitVec 5) : s.KeepsMx (s.unreserve c e m) :=
  .setCore s (foldl_setQueue_mx ..)

theorem unissue_mx (s : State) (c : Nat) (f : MxFlight) : s.KeepsMx (s.unissue c f) :=
  (s.unreserve_mx c .mx f.pushes).trans (.setCore _ (foldl_setQueue_mx ..))

/-- The command recalled and every later one are gone, T, descriptors and PI are as it found them, and its stream stands at it. -/
theorem mxRecall_undoes (s : State) (c : Nat) (f : MxFlight) (t : Trap) :
    ((s.mxRecall c f t).core c).mx = { (s.core c).mx with
      flight := (s.core c).mx.flight.filter fun x => decide (x.seq < f.seq)
      td := f.undo.td, pi := f.undo.pi, tref := f.undo.tick }
    ∧ ((s.mxRecall c f t).stream (.eng .mx c)).g = f.undo.stream.g
    ∧ ((s.mxRecall c f t).stream (.eng .mx c)).epc = f.undo.stream.pc := by
  unfold State.mxRecall
  extract_lets u gone s1 m core s2 cur raised old
  have undone : s.KeepsMx s1 := .foldl (fun t x => t.unissue_mx c x) _ s
  have own : (s2.core c).mx = { m with
      flight := m.flight.filter fun x => decide (x.seq < f.seq)
      td := f.undo.td, pi := f.undo.pi, tref := f.undo.tick } := congrArg Core.mx (s1.core_setCore_self c _)
  obtain ⟨mx, g, epc⟩ := (({ s2 with cur := u } : State).setStream u f.undo.stream).trapNow_mx t
  have stands : ((({ s2 with cur := u } : State).setStream u f.undo.stream)).me = f.undo.stream :=
    State.stream_setStream_self _ u _
  rw [stands] at g epc
  refine ⟨(mx c).trans (own.trans ?_), g, epc⟩
  rw [show m = (s.core c).mx from undone.mx c]

/-! ### What a command in occupancy does (R167, R168) -/

theorem setFlight_mx (s : State) (c : Nat) (f : MxFlight) : ((s.setFlight c f).core c).mx = { (s.core c).mx with
    flight := (s.core c).mx.flight.map fun x => if x.seq = f.seq then f else x } :=
  congrArg Core.mx (s.core_setCore_self c _)

/-- Settling what a command sees draws at most a free value, and leaves its place, its end, its buffer and its pushes. -/
theorem settleReads_frame (s : State) (c : Nat) (f : MxFlight) : ∃ n g t, s.settleReads c f = ({ s with fresh := n }, g, t)
    ∧ g.pieces = [] ∧ g.seq = f.seq ∧ g.stop = f.stop ∧ g.buf = f.buf ∧ g.pushes = f.pushes := by
  unfold State.settleReads
  extract_lets now changed g
  split
  · exact ⟨s.fresh, _, _, rfl, rfl, rfl, rfl, rfl, rfl⟩
  · exact ⟨s.fresh, _, _, rfl, rfl, rfl, rfl, rfl, rfl⟩
  · dsimp only [State.draw]
    split <;> exact ⟨s.fresh + 1, _, _, rfl, rfl, rfl, rfl, rfl, rfl⟩

/-- Where nothing of its operands has been written since its issue edge, a command sees what it saw. -/
theorem settleReads_unchanged {s : State} {c : Nat} {f : MxFlight}
    (h : ∀ p ∈ f.pieces, ∀ j, j < 64 → MxView.byte ⟨s, c, []⟩ p.1.1 (64 * p.1.2 + j) = p.2.getD j 0) :
    s.settleReads c f = (s, { f with pieces := [] }, none) := by
  have none_changed : (f.pieces.filter fun p => (List.range 64).any fun j =>
      MxView.byte ⟨s, c, []⟩ p.1.1 (64 * p.1.2 + j) ≠ p.2.getD j 0) = [] := by
    rw [List.filter_eq_nil_iff]
    intro p hp
    simpa using h p hp
  unfold State.settleReads
  extract_lets now changed g
  split
  · rfl
  · rfl
  · rename_i first rest _ some_changed
    exact absurd (some_changed.symm.trans none_changed) (List.cons_ne_nil first rest)

end State

/-! ### The units of a write (R307) -/

theorem mem_insertBy {α : Type} (le : α → α → Bool) (x y : α) (l : List α) : y ∈ insertBy le x l ↔ y = x ∨ y ∈ l := by
  induction l with
  | nil => simp [insertBy]
  | cons z zs ih =>
    rw [insertBy]
    split
    · exact List.mem_cons
    · rw [List.mem_cons, ih, List.mem_cons]; exact or_left_comm

theorem mem_sortBy {α : Type} (le : α → α → Bool) (y : α) (l : List α) : y ∈ sortBy le l ↔ y ∈ l := by
  induction l with
  | nil => rfl
  | cons x xs ih => rw [sortBy, mem_insertBy, ih, List.mem_cons]

/-- Bytes to write come in at least one unit. -/
theorem unitsOf_ne_nil {cells : List (Nat × Byte)} (h : cells ≠ []) : unitsOf cells ≠ [] := by
  obtain ⟨cell, hc⟩ := List.exists_mem_of_ne_nil _ h
  unfold unitsOf
  extract_lets addrs last pieces
  have ha : cell.1 ∈ addrs := (mem_sortBy _ _ _).2 (List.mem_eraseDups.2 (List.mem_map_of_mem hc))
  intro none
  have noUnit := List.flatMap_eq_nil_iff.1 none _ (List.mem_eraseDups.2 (List.mem_map_of_mem ha))
  extract_lets xs at noUnit
  have hx : cell.1 ∈ xs := List.mem_filter.2 ⟨ha, decide_eq_true rfl⟩
  clear_value xs
  split at noUnit
  · cases noUnit
  · have noWord := List.flatMap_eq_nil_iff.1 noUnit _ (List.mem_eraseDups.2 (List.mem_map_of_mem hx))
    extract_lets ys at noWord
    have hy : cell.1 ∈ ys := List.mem_filter.2 ⟨hx, decide_eq_true rfl⟩
    clear_value ys
    split at noWord
    · cases noWord
    · have noPart := List.flatMap_eq_nil_iff.1 noWord _ (List.mem_eraseDups.2 (List.mem_map_of_mem hy))
      extract_lets zs at noPart
      have hz : cell.1 ∈ zs := List.mem_filter.2 ⟨hy, decide_eq_true rfl⟩
      clear_value zs
      split at noPart
      · cases noPart
      · exact List.ne_nil_of_mem hz (List.map_eq_nil_iff.1 noPart)

namespace State

/-- A command writes one of the units that it has still to write. -/
theorem mxWrite_unit (s : State) (c : Nat) {f : MxFlight} (h : f.todo ≠ []) : ∃ x ∈ unitsOf f.todo,
    (s.mxWrite c f).mem = Mem.setAll s.mem (x.map fun w => (s.direct w.1, w.2)) ∧ (s.mxWrite c f).streams = s.streams
    ∧ ((s.mxWrite c f).core c).mx = { (s.core c).mx with flight := (s.core c).mx.flight.map fun y =>
        if y.seq = f.seq then { f with todo := f.todo.filter fun w => !(x.map (·.1)).contains w.1 } else y } := by
  cases hu : unitsOf f.todo with
  | nil => exact absurd hu (unitsOf_ne_nil h)
  | cons u rest =>
    refine ⟨(u :: rest).getD (Config.freeNat s.fresh % (rest.length + 1)) u, ?_, ?_⟩
    · have hi : Config.freeNat s.fresh % (rest.length + 1) < (u :: rest).length := Nat.mod_lt _ (Nat.succ_pos _)
      rw [List.getD_eq_getElem?_getD, List.getElem?_eq_getElem hi]
      exact List.getElem_mem hi
    · unfold State.mxWrite
      rw [hu]
      exact ⟨rfl, rfl, setFlight_mx _ c _⟩

/-- Pushes of a finished command change the queues as the queues stand. -/
theorem foldl_pushReserved_tokens (e : Endpoint) (g : Byte) (r : Clock) (ps : List Endpoint) : ∀ {k l : Core}, k.tokens = l.tokens →
    (ps.foldl (fun k p => k.setQueue e p ((k.queue e p).pushReserved g r)) k).tokens
      = (ps.foldl (fun k p => k.setQueue e p ((k.queue e p).pushReserved g r)) l).tokens := by
  induction ps with
  | nil => exact fun h => h
  | cons p ps ih => exact fun h => ih (by simp only [Core.setQueue, Core.queue, h])

/-- The tokens that a finished command pushes depend on the queues and on what its agent has acquired. -/
theorem pushDone_tokens {s t : State} {u : UnitId} {c : Nat} (hk : (t.core c).tokens = (s.core c).tokens) (hv : t.views = s.views)
    (job n : Nat) (m : BitVec 5) (g : Byte) :
    ((t.pushDone u c job n m g).core c).tokens = ((s.pushDone u c job n m g).core c).tokens := by
  unfold State.pushDone
  split
  · exact hk
  · have released : t.releaseOf (.unit u job) n 0 = s.releaseOf (.unit u job) n 0 := by
      rw [State.releaseOf, State.releaseOf, State.view, State.view, hv]
    rw [released, State.pushFinished, State.pushFinished, State.core_setCore_self, State.core_setCore_self]
    exact foldl_pushReserved_tokens _ _ _ _ hk

theorem pushDone_mx (s : State) (u : UnitId) (c job n : Nat) (m : BitVec 5) (g : Byte) : s.KeepsMx (s.pushDone u c job n m g) := by
  unfold State.pushDone
  split
  · exact .refl s
  · exact .setCore s (foldl_setQueue_mx ..)

theorem pushDone_mem (s : State) (u : UnitId) (c job n : Nat) (m : BitVec 5) (g : Byte) :
    (s.pushDone u c job n m g).mem = s.mem ∧ (s.pushDone u c job n m g).posts = s.posts := by
  unfold State.pushDone
  split <;> exact ⟨rfl, rfl⟩

end State

/-- A matrix engine in which a command has ended: it is no longer in occupancy, and its buffer and the table hold what it made. -/
structure MxState.Ends (m : MxState) (f : MxFlight) (n : MxState) : Prop where
  flight : n.flight = m.flight.filter fun x => decide (x.seq ≠ f.seq)
  buf : ∀ b, n.buf b = if f.buf = some b then f.acc.getD (m.buf b) else m.buf b
  tbl : n.tbl = f.tbl.getD m.tbl
  td : n.td = m.td
  pi : n.pi = m.pi
  tref : n.tref = m.tref

/-- What stands of a state besides codewords and the flags of a stream. -/
structure State.SameButFlags (s t : State) : Prop where
  cores : t.cores = s.cores
  mem : t.mem = s.mem
  views : t.views = s.views
  posts : t.posts = s.posts
  g : ∀ u, (t.stream u).g = (s.stream u).g

theorem State.SameButFlags.trans {s t u : State} (h : s.SameButFlags t) (k : t.SameButFlags u) : s.SameButFlags u :=
  ⟨k.cores.trans h.cores, k.mem.trans h.mem, k.views.trans h.views, k.posts.trans h.posts, fun v => (k.g v).trans (h.g v)⟩

protected theorem State.SameButFlags.refl (s : State) : s.SameButFlags s := ⟨rfl, rfl, rfl, rfl, fun _ => rfl⟩

namespace State

/-- At the end of a command its pushes are made from a state in which all its other effects stand. -/
theorem mxEnd_before_push (s : State) (c : Nat) (f : MxFlight) : ∃ t : State,
    s.mxEnd c f = t.pushDone (.eng .mx c) c f.job f.seq f.pushes f.tag
    ∧ t.mem = s.mem ∧ t.views = s.views ∧ (t.core c).tokens = (s.core c).tokens ∧ (s.core c).mx.Ends f (t.core c).mx
    ∧ t.posts = s.posts ++ (f.post.map fun p => (⟨p.1, false, f.job, c, p.2, f.writes.map (·.2)⟩ : Post)).toList
    ∧ ∀ u, (t.stream u).g = (s.stream u).g := by
  unfold State.mxEnd
  extract_lets m m1 m2 m3 core s1 s2 u s3 image s4
  have ends : m.Ends f m3 := by
    have stored : m2.tbl = m1.tbl ∧ m2.flight = m1.flight ∧ m2.td = m1.td ∧ m2.pi = m1.pi ∧ m2.tref = m1.tref
        ∧ ∀ b, m2.buf b = if f.buf = some b then f.acc.getD (m1.buf b) else m1.buf b := by
      unfold m2
      cases f.buf with
      | none => exact ⟨rfl, rfl, rfl, rfl, rfl, fun _ => rfl⟩
      | some b =>
        cases f.acc with
        | none => exact ⟨rfl, rfl, rfl, rfl, rfl, fun k => (ite_self _).symm⟩
        | some a =>
          cases b <;> exact ⟨rfl, rfl, rfl, rfl, rfl, fun k => by cases k <;> rfl⟩
    obtain ⟨tbl, flight, td, pi, tref, bufs⟩ := stored
    clear_value m2
    unfold m3
    cases ht : f.tbl with
    | none => exact ⟨flight, bufs, by rw [ht]; exact tbl, td, pi, tref⟩
    | some t => exact ⟨flight, bufs, by rw [ht]; rfl, td, pi, tref⟩
  have own : s1.core c = { s.core c with mx := m3 } := s.core_setCore_self c _
  have flags : s1.SameButFlags s3 := by
    have healed : s1.SameButFlags s2 := by
      unfold s2
      split
      · split
        · exact ⟨rfl, rfl, rfl, rfl, fun _ => rfl⟩
        · exact .refl s1
      · exact .refl s1
    refine healed.trans ?_
    unfold s3
    split
    · exact ⟨rfl, rfl, rfl, rfl, (State.KeepsMx.setStream s2 (x := (s2.stream u).stick f.ofl f.sat) rfl rfl).g⟩
    · exact .refl s2
  have core3 : s3.core c = { s.core c with mx := m3 } := by
    rw [← own, State.core, State.core, flags.cores]
  have post : s4.mem = s3.mem ∧ s4.views = s3.views ∧ s4.core c = s3.core c ∧ (∀ v, s4.stream v = s3.stream v)
      ∧ s4.posts = s3.posts ++ (f.post.map fun p => (⟨p.1, false, f.job, c, p.2, image⟩ : Post)).toList := by
    unfold s4
    cases f.post with
    | none => exact ⟨rfl, rfl, rfl, fun _ => rfl, (List.append_nil _).symm⟩
    | some p => exact ⟨rfl, rfl, rfl, fun _ => rfl, rfl⟩
  obtain ⟨mem, views, core4, streams, posts⟩ := post
  refine ⟨s4, rfl, mem.trans flags.mem, views.trans flags.views, ?_, ?_, posts.trans (by rw [flags.posts]; rfl), fun v => ?_⟩
  · rw [core4, core3]
  · rw [core4, core3]; exact ends
  · rw [streams, flags.g]; rfl

end State

/-! ### MX_OCCUPANCY_END (R167, R168) -/

section
variable {s : State} {c : Nat} {f : MxFlight} (h : (s.core c).mx.flight.find? (s.mxGoes c) = some f)
include h

theorem occupancy_settles {t : State} {g : MxFlight} (hp : f.pieces ≠ []) (hr : s.settleReads c f = (t, g, none)) :
    exec (.mxOccupancyEnd c) s = .next (t.setFlight c g) := by
  show happen s _ = _
  rw [h]
  simp [hp, hr, happen]

theorem occupancy_recalls {t : State} {g : MxFlight} {x : Trap} (hp : f.pieces ≠ []) (hr : s.settleReads c f = (t, g, some x)) :
    exec (.mxOccupancyEnd c) s = .next (t.mxRecall c f x) := by
  show happen s _ = _
  rw [h]
  simp [hp, hr, happen]

theorem occupancy_writes (hp : f.pieces = []) (ht : f.todo ≠ []) : exec (.mxOccupancyEnd c) s = .next (s.mxWrite c f) := by
  show happen s _ = _
  rw [h]
  simp [hp, ht, happen]

theorem occupancy_ends (hp : f.pieces = []) (ht : f.todo = []) : exec (.mxOccupancyEnd c) s = .next (s.mxEnd c f) := by
  show happen s _ = _
  rw [h]
  simp [hp, ht, happen]

end

end Sys2Proof.Machine

namespace Sys2Proof

open Machine Claim

/-- Settles O35: a plain word is its body in the state whose tokens are taken; an occupancy settles, writes, ends or is recalled. -/
theorem matrixPlainWords : Obligations.MatrixPlainWords := by
  unfold Obligations.MatrixPlainWords
  refine ⟨?_, ?_⟩
  · intro s s1 tk c hc h done m
    refine ⟨mtd_sets h hc, fun a => mstb_sets h hc a 0, fun a => mstb_sets h hc a 1, fun a t u => ?_⟩
    intro p pair most trap
    have checks := mpi_checks h hc a t u
    refine ⟨fun low high even fits => ?_, fun out => ?_, fun low high odd => ?_, fun low high even much => ?_⟩
    · rw [checks, if_neg (by omega), if_neg (by rw [show pairOk _ _ = true from even]; exact nofun),
        if_neg (Nat.not_lt.2 fits)]
      rfl
    · rw [checks, if_pos out]
    · rw [checks, if_neg (by omega), if_pos odd]
    · rw [checks, if_neg (by omega), if_neg (by rw [show pairOk _ _ = true from even]; exact nofun), if_pos much]
  · intro s c f h settled recalled
    refine ⟨fun hp => ⟨fun same => ?_, ?_⟩, fun hp ht => ?_, fun hp ht => ?_⟩
    · refine ⟨_, occupancy_settles h hp (State.settleReads_unchanged same), ?_⟩
      exact ⟨rfl, rfl, rfl, rfl, rfl, rfl, rfl, State.setFlight_mx s c _⟩
    · obtain ⟨n, g, t, hr, pieces, seq, stop, buf, pushes⟩ := s.settleReads_frame c f
      cases t with
      | none =>
        refine ⟨_, occupancy_settles h hp hr, .inl ⟨g, rfl, rfl, pieces, seq, stop, buf, pushes, ?_⟩⟩
        rw [State.setFlight_mx, seq]
        rfl
      | some x =>
        obtain ⟨mx, g, epc⟩ := State.mxRecall_undoes { s with fresh := n } c f x
        refine ⟨_, occupancy_recalls h hp hr, .inr ⟨congrArg MxState.flight mx, congrArg MxState.tref mx, congrArg MxState.td mx,
          congrArg MxState.pi mx, epc, Stream.rg_of_g g⟩⟩
    · obtain ⟨x, hx, mem, streams, mx⟩ := s.mxWrite_unit c ht
      exact ⟨_, x, hx, occupancy_writes h hp ht, mem, streams, mx⟩
    · obtain ⟨t, run, mem, views, tokens, ends, posts, g⟩ := s.mxEnd_before_push c f
      have push := t.pushDone_mx (.eng .mx c) c f.job f.seq f.pushes f.tag
      obtain ⟨mem', posts'⟩ := t.pushDone_mem (.eng .mx c) c f.job f.seq f.pushes f.tag
      refine ⟨_, occupancy_ends h hp ht, ?_⟩
      rw [run, push.mx c, mem', posts']
      refine ⟨ends.flight, ends.buf, ends.tbl, ends.td, ends.pi, ends.tref, State.pushDone_tokens tokens views _ _ _ _, mem, posts,
        fun u => Stream.rg_of_g ((push.g u).trans (g u))⟩

end Sys2Proof

/-!
PROOFS. A stamped command that is in time and meets a fault of its own (spec/05_matrix_engine.md R165, R166, R177): nothing begins to
occupy its unit. A scratchpad byte may lie in HBM, where a migration unit has copied its frame (spec/14_virtual_memory.md R376), and its
transfer may then have exceeded the limit (spec/23_reliability_repair.md R450, R453), with no codeword in error.
-/

namespace Sys2Proof.Machine

/-! ### A fault of a stamped command in time (R165, R166) -/

/-- A command whose tokens are there and that misses nothing raises what its effect raises. -/
theorem issueStamped_raises {t : State} {c : Nat} {q : Queued} {p : MxPlan} {x : MxName} {e : Stop} (h : Claim.InTime t c q p)
    (tick : x.tick = (t.core c).mx.tref) (run : p.run = .error e) : issueStamped t c x q (.ok p) = .error e := by
  obtain ⟨heads, onTime, room⟩ := h
  have real : ∀ o ∈ (maskEnds .mx q.pops).map fun e => (t.discardInto c .mx (maskEnds .mx q.pops) q.tag).offer c e .mx q.tag,
      ∃ k, o = .head k ∧ k.isVoid = false := by
    simpa using heads
  unfold issueStamped
  dsimp -zeta only [bind, Except.bind]
  extract_lets y ps s offers void why
  have notVoid : void = false := by
    rw [List.any_eq_false]
    intro o ho
    obtain ⟨k, rfl, hk⟩ := real o ho
    simp [hk]
  have tokens : offers.contains .nothing = false := by
    rw [← Bool.not_eq_true, List.contains_iff_mem]
    intro ho
    obtain ⟨k, hk, _⟩ := real _ ho
    exact nomatch hk
  have hits : why = 0 := by
    unfold why
    rw [tokens, show y.tick = x.tick from rfl, tick]
    exact onTime
  rw [notVoid, hits, show s.fullQueue c .mx q.pushes = none from room, run]
  rfl

/-- Whether a command is in time does not depend on what it does. -/
theorem inTime_of_run {t : State} {c : Nat} {q : Queued} {p : MxPlan} (run : M MxEffect) (h : Claim.InTime t c q p) :
    Claim.InTime t c q { p with run := run } := h

section
variable {s t : State} {tk : BitVec 3} {st : BitVec 11} {c : Nat} {q : Queued} (edge : Claim.AtEdge s tk st c q t)
include edge

/-- The reference tick has moved to the command's tick (R163). -/
theorem atEdge_tref : (t.core c).mx.tref = s.stampTick c q.delta := by
  rw [edge.ticks, State.moveT, State.core_setCore_self]

/-- Moving the reference tick leaves what is in occupancy. -/
theorem atEdge_flight : (t.core c).mx.flight = (s.core c).mx.flight := by
  rw [edge.ticks, State.moveT, State.core_setCore_self]

/-- A stamped command at its edge, in time, that meets a fault: no occupancy begins. -/
theorem stampedCommand_fault {acc : Nat} {plan : State → Nat → MxName → M MxPlan} {p : MxPlan} {e : Trap}
    (planned : plan t c ⟨(t.core c).mx.tref, acc, 0⟩ = .ok p) (h : Claim.InTime t c q p) (run : p.run = .error (.trap e)) :
    ∃ u, stampedCommand s tk st acc plan = .next u ∧ (u.core c).mx.flight = (t.core c).mx.flight := by
  have going : s.mxRunOut c = false := by
    rw [State.mxRunOut, List.any_eq_false]
    intro f hf
    simp [Nat.not_le.2 (edge.ended f hf)]
  have reached : ¬ (!s.mxMayIssue c || decide (s.now < edgeAt (s.core c).level (10 * s.stampTick c q.delta)) || s.mxRunOut c) = true := by
    simp [edge.may, Nat.not_lt.2 edge.edge, going]
  have still : (s.core c).mx.flight = (t.core c).mx.flight := (atEdge_flight edge).symm
  have raised := issueStamped_raises (x := ⟨(t.core c).mx.tref, acc, 0⟩) h rfl run
  rw [← planned, atEdge_tref edge] at raised
  obtain ⟨cur, head, captured, -, -, -, ticks, -⟩ := edge
  subst captured ticks
  unfold stampedCommand
  rw [mxCore, cur]
  simp only [head]
  rw [if_neg reached, raised]
  dsimp only
  split
  · exact ⟨_, rfl, still⟩
  · refine ⟨_, rfl, ?_⟩
    unfold takeTrap
    split
    · rfl
    · rw [(State.trapNow_mx _ e).1]

end

/-! ### MTBL over bytes that cannot be corrected (R177, R450) -/

/-- What MTBL plans: 256 bytes from an offset on are read, and become the table. -/
def tablePlan (o : Nat) (run : M MxEffect) : MxPlan :=
  { array := true, cycles := 8, buf := none, needsFinal := false, reads := [(false, o, 256)], op := some (.table o), run := run }

/-- The plan of MTBL, its image checked. -/
def tableOf (a : BitVec 5) (s : State) (c : Nat) (x : MxName) : M MxPlan := do
  let o ← imageAt x (s.rg a) 256
  .ok (tablePlan o ((MxOp.table o).effect ⟨s, c, []⟩ x))

theorem exec_mtbl (s : State) (tk : BitVec 3) (a : BitVec 5) (st : BitVec 11) :
    exec (.mtbl tk a st) s = stampedCommand s tk st 0 (tableOf a) := rfl

theorem tableOf_ok {s : State} {c : Nat} {a : BitVec 5} {x : MxName} (aligned : (s.rg a).toNat % 64 = 0)
    (fits : (s.rg a).toNat + 256 ≤ scratchSize) :
    tableOf a s c x = .ok (tablePlan (s.rg a).toNat ((MxOp.table (s.rg a).toNat).effect ⟨s, c, []⟩ x)) := by
  unfold tableOf imageAt
  rw [if_neg (Decidable.not_not.2 aligned), if_neg (Nat.not_lt.2 fits)]
  rfl

/-- A read of bytes that cannot all be corrected raises UNCORRECTABLE at the first of them. -/
theorem mxRead_unreadable {v : MxView} (x : MxName) {veneer : Bool} {off n i : Nat}
    (bad : v.s.firstBad ((List.range n).map fun j => ownPa v.s.pkg v.c veneer (off + j)) = some i) :
    ∃ note, mxRead v x veneer off n = x.fault .uncorrectable (some (dw (off + i))) 0 0 note := by
  unfold mxRead
  dsimp only
  rw [bad]
  exact ⟨_, rfl⟩

theorem table_unreadable {v : MxView} (x : MxName) {o i : Nat}
    (bad : v.s.firstBad ((List.range 256).map fun j => scratchPa v.s.pkg v.c (o + j)) = some i) :
    ∃ note, (MxOp.table o).effect v x = x.fault .uncorrectable (some (dw (o + i))) 0 0 note := by
  obtain ⟨note, read⟩ := mxRead_unreadable x (veneer := false) bad
  refine ⟨note, ?_⟩
  unfold MxOp.effect
  dsimp only
  rw [read]
  rfl

/-- A table of which some byte cannot be corrected does not begin to occupy the array. -/
theorem mtbl_unreadable {s t : State} {tk : BitVec 3} {st : BitVec 11} {c : Nat} {q : Queued} {a : BitVec 5} {r : MxEffect} {i : Nat}
    (edge : Claim.AtEdge s tk st c q t) (aligned : (t.rg a).toNat % 64 = 0) (fits : (t.rg a).toNat + 256 ≤ scratchSize)
    (bad : t.firstBad ((List.range 256).map fun i => scratchPa t.pkg c ((t.rg a).toNat + i)) = some i)
    (h : Claim.InTime t c q (tablePlan (t.rg a).toNat (.ok r))) :
    ¬ Claim.Flies (.mtbl tk a st) s t c q (tablePlan (t.rg a).toNat (.ok r)) r := by
  rintro ⟨u, f, run, -, mx, -⟩
  obtain ⟨note, fault⟩ := table_unreadable (v := ⟨t, c, []⟩) ⟨(t.core c).mx.tref, 0, 0⟩ bad
  obtain ⟨v, stopped, flight⟩ := stampedCommand_fault edge (acc := 0) (plan := tableOf a) (tableOf_ok aligned fits)
    (inTime_of_run _ h) fault
  obtain rfl : v = u := Host.Outcome.next.inj (stopped.symm.trans ((exec_mtbl s tk a st).symm.trans run))
  rw [mx] at flight
  simp at flight

end Sys2Proof.Machine

namespace Sys2Proof

open Machine Claim

/-! ### A scratchpad frame under migration -/

/-- MX of core 0 at a stamped word. Migration unit 0 has copied the first sector of a frame of the core's scratchpad to HBM, and a read
of the HBM at that place has exceeded the limit of transfers. -/
def movedTable : State :=
  let unit := UnitId.eng .mx 0
  { State.reset with
    cur := unit
    streams := [(unit, { Stream.reset with run := .running })]
    migs := [(0, { Migration.reset with src := BitVec.ofNat 64 (scratchPa 0 0 0), dst := 0, busy := true, cursor := 1 })]
    busBad := [0] }

/-- The command that it stands at, and the state at its edge. -/
def movedQueued : Queued := { movedTable.me.capture 0 movedTable.now with stamped := true }
def movedEdge : State := movedTable.moveT 0 0

theorem movedTable_atEdge : AtEdge movedTable 0 0 0 movedQueued movedEdge :=
  ⟨rfl, rfl, rfl, by decide, by decide, by decide, rfl, rfl⟩

theorem movedTable_inTime (r : MxEffect) : InTime movedEdge 0 movedQueued (tablePlan 0 (.ok r)) :=
  ⟨List.forall_mem_nil _, rfl, rfl⟩

theorem movedTable_unreadable :
    movedEdge.firstBad ((List.range 256).map fun i => scratchPa movedEdge.pkg 0 ((movedEdge.rg 0).toNat + i)) = some 0 :=
  rfl

/-- Refutes O34: no codeword is in error, and yet MTBL reads a byte whose transfer has exceeded the limit (R453), in a scratchpad frame
that is being moved to HBM (R376): it raises UNCORRECTABLE (R450). -/
theorem not_stampedCommands : ¬ Obligations.StampedCommands := by
  unfold Obligations.StampedCommands
  intro h
  obtain ⟨_, _, table, _⟩ := h _ _ 0 0 0 _ movedTable_atEdge
  exact mtbl_unreadable movedTable_atEdge (by decide) (by decide) movedTable_unreadable (movedTable_inTime _)
    (table 0 (by decide) (by decide) (movedTable_inTime _))

end Sys2Proof
